-- ==== Sys2Proof/Word.lean ====
section
/-! DEFINITION. The word types of the Wemzel 6124: bytes, frame numbers, samples, block counts. -/

namespace Sys2Proof

/-- A byte of a frame or of a control message (11_formats_and_pin_summary.md). -/
abbrev Byte := BitVec 8

/-- A 32-bit frame number, wrapping from 4,294,967,295 to 0 (00_scope.md section 5.2). -/
abbrev FrameNo := BitVec 32

/-- A 24-bit two's complement audio sample (00_scope.md section 5.3). -/
abbrev Sample := BitVec 24

/-- The 40-bit gallery block count (R76). -/
abbrev BlockCount := BitVec 40

/-- The 96 samples of one channel of one frame (00_scope.md section 5.1). -/
abbrev FrameSamples := Vector Sample 96

/-- The 48 samples of one block (00_scope.md section 5.1). -/
abbrev BlockSamples := Vector Sample 48

/-- One frame of the TDM return bus: a sample for each of its 32 slots (R131). -/
abbrev TiFrame := Vector Sample 32

end Sys2Proof
end

