-- ==== Sys2Proof/Syntax.lean ====
section
/-! DEFINITION. The commands and events of the 6124: one constructor per row of spec/opcode_table.json.

An operand holds a field as it was sent: a coded field is its code byte (R170), a value that the part
clamps may lie outside its range, and a field a request need not give is an `Option`. -/

namespace Sys2Proof

/-- The kind of a circuit (section 2.2). -/
inductive CircuitKind where
  | commentary | crowd | coord
  deriving DecidableEq, Repr

/-- One of a venue's two routes (section 3.3). -/
inductive PathId where
  | a | b
  deriving DecidableEq, Repr

/-- A separate piece of work of a block boundary. Each is one event; the spec lets any two of them be
taken in either order (R26, R53, R82, R104, R133, R153). -/
inductive Work where
  /-- Judging one path against its venue's path timeout (R53). -/
  | pathTimeout (v : Fin 24) (p : PathId)
  /-- Counting a venue's HOLDOVER (R8). -/
  | holdoverCount (v : Fin 24)
  /-- Ageing a venue's announced list (R14). -/
  | announceAge (v : Fin 24)
  /-- A venue step (R82). -/
  | venueStep (v : Fin 24)
  /-- Counting down a circuit's holdover (R26). -/
  | holdoverCountdown (c : Fin 128)
  /-- A venue's request pass (R104). -/
  | requestPass (v : Fin 24)
  /-- The foldback step (R133). -/
  | foldbackStep
  /-- The restart of the degrade windows (R153). -/
  | windowRestart
  deriving DecidableEq, Repr

/-- A circuit reference of a request: the three forms of R31, and a form byte that names none (R169). -/
inductive CircuitRef where
  | absolute (index : Nat)
  | venueRelative (venue ordinal : Nat)
  | keyed (venue tag : Nat)
  | badForm (form first second : Nat)
  deriving DecidableEq, Repr

/-- The form of CIRCUIT_OPEN (R33), with a form byte that holds no code (R170). -/
inductive OpenForm where
  | direct (kind channels : Nat)
  | fromAnnouncement
  | badForm (code : Nat)
  deriving DecidableEq, Repr

/-- The source given to a slot command: NONE, or a circuit channel (R122); a flag byte of no code (R170). -/
inductive SourceArg where
  | silence
  | channel (ref : CircuitRef) (ch : Nat)
  | badFlag (flag : Nat) (ref : CircuitRef) (ch : Nat)
  deriving DecidableEq, Repr

/-- The domain filter given to PORT_SET (R58); a flag byte of no code (R170). -/
inductive DomainArg where
  | off
  | value (domain : Nat)
  | badFlag (flag : Nat)
  deriving DecidableEq, Repr

/-- What every request carries beside its body: the host tag (section 10.2), and whether RESET_N was low
at some moment since its chip select fell (R165: a transaction whose chip select fell in reset is not taken, and
one in progress when RESET_N falls is abandoned, though RESET_N may have risen again before it ends; log 6). -/
structure Transfer where
  hostTag : Byte
  cutByReset : Bool
  deriving DecidableEq, Repr

/-- Body of VENUE_OPEN (R15). -/
structure VenueOpenArgs where
  key : BitVec 16
  portA : Option Nat
  portB : Option Nat
  target : Option Nat
  budget : Option Nat
  allowance : Option Nat
  attempts : Option Nat
  pathTimeout : Option Nat
  lossTime : Option Nat
  rate : Option Int
  deriving DecidableEq, Repr

/-- Body of VENUE_SET after the venue index (R16). -/
structure VenueSetArgs where
  key : Option (BitVec 16)
  portA : Option (Option Nat)
  portB : Option (Option Nat)
  target : Option Nat
  budget : Option Nat
  allowance : Option Nat
  attempts : Option Nat
  pathTimeout : Option Nat
  lossTime : Option Nat
  deriving DecidableEq, Repr

/-- Body of CIRCUIT_OPEN (R33). -/
structure CircuitOpenArgs where
  venue : Nat
  tag : Nat
  window : Nat
  form : OpenForm
  level : Option Nat
  hold : Option Nat
  autoRearm : Option Nat
  deriving DecidableEq, Repr

/-- The settings CIRCUIT_SET may give (R35). -/
structure CircuitSetArgs where
  level : Option Nat
  hold : Option Nat
  autoRearm : Option Nat
  fade : Option Nat
  deriving DecidableEq, Repr

/-- The settings PORT_SET may give (R58). -/
structure PortSetArgs where
  enable : Option Nat
  address : Option (BitVec 48)
  etherType : Option (BitVec 16)
  tagMode : Option Nat
  domain : Option DomainArg
  deriving DecidableEq, Repr

/-- What VENUE_RATE may give beside its mode (R92). -/
structure RateArgs where
  rate : Option Int
  step : Option Nat
  settle : Option Nat
  frozen : Option Nat
  deriving DecidableEq, Repr

/-- The settings LANE_SET may give (R145). -/
structure LaneSetArgs where
  enable : Option Nat
  cleanSlot : Option (Option Nat)
  duck : Option Nat
  deriving DecidableEq, Repr

/-- What ALARM_ENABLE may give (R157). -/
structure AlarmArgs where
  classes : Option (BitVec 8)
  venue : Option Nat
  captureEnable : Option (BitVec 16)
  rateEnable : Option (BitVec 16)
  threshold : Option Nat
  deriving DecidableEq, Repr

/-- A received Ethernet frame at the end of its reception (R43): its bytes from the destination address
to the end of the padding, the verdict on its check sequence, and whether its reception began while
the port was enabled and out of reset, and was not cut by either (log 5, log 6). -/
structure RxFrame where
  bytes : List Byte
  fcsOk : Bool
  fresh : Bool
  deriving DecidableEq, Repr

/-- Why the gallery reference is lost (R77). -/
inductive LossCause where
  /-- The fourth WCK edge in a row outside the range. -/
  | strayEdge
  /-- Four nominal periods without an edge. -/
  | silence
  deriving DecidableEq, Repr

/-- What a block boundary brings: the key lines that are low (bit n for KEYn, R134); for each gallery
sample of the block that ends, the TI frames completed since the sample before, oldest first (R131);
and the order of its works: those of `first` before all others, and those of `later` left for after
the command (log 1). -/
structure BoundaryArgs where
  keyLow : BitVec 16
  ti : Vector (List TiFrame) 48
  first : List Work
  later : List Work
  deriving DecidableEq, Repr

/-- The commands and events of the part, one constructor per row of spec/opcode_table.json. -/
inductive Instr where
  | identify (x : Transfer)
  | deviceClear (x : Transfer)
  | venueOpen (x : Transfer) (a : VenueOpenArgs)
  | venueSet (x : Transfer) (venue : Nat) (a : VenueSetArgs)
  | venueRetire (x : Transfer) (venue : Nat) (option : Nat)
  | venueRetireForce (x : Transfer) (venue : Nat)
  | venueQuery (x : Transfer) (venue : Nat)
  | circuitOpen (x : Transfer) (a : CircuitOpenArgs)
  | circuitSet (x : Transfer) (a : CircuitSetArgs) (ref : CircuitRef)
  | circuitTrim (x : Transfer) (delta : Int) (ref : CircuitRef)
  | circuitRearm (x : Transfer) (ref : CircuitRef)
  | circuitRetire (x : Transfer) (ref : CircuitRef) (option : Nat)
  | circuitFind (x : Transfer) (ref : CircuitRef)
  | circuitQuery (x : Transfer) (ref : CircuitRef) (clear : Nat)
  | portSet (x : Transfer) (port : Nat) (a : PortSetArgs)
  | portQuery (x : Transfer) (port : Nat) (clear : Nat)
  | windowQuery (x : Transfer) (ref : CircuitRef)
  | referenceQuery (x : Transfer)
  | venueRate (x : Transfer) (venue : Nat) (mode : Option Nat) (a : RateArgs)
  | venueRateStepped (x : Transfer) (venue : Nat) (a : RateArgs)
  | timebaseCapture (x : Transfer) (venue : Nat)
  | recoveryQuery (x : Transfer) (venue : Nat)
  | slotAssign (x : Transfer) (slot : Nat) (source : SourceArg)
  | slotPunch (x : Transfer) (slot : Nat) (source : SourceArg)
  | slotRelease (x : Transfer) (slot : Nat)
  | slotQuery (x : Transfer) (slot : Nat)
  | muteModify (x : Transfer) (bus : Nat) (mask : BitVec 32) (mode : Nat)
  | sourceSet (x : Transfer) (source : Nat) (lineEnable : Option Nat)
  | sourceKey (x : Transfer) (source : Nat) (duration : Nat)
  | sourceUnkey (x : Transfer) (source : Nat)
  | targetModify (x : Transfer) (source : Nat) (mask : BitVec 24) (mode : Nat)
  | laneSet (x : Transfer) (venue : Nat) (a : LaneSetArgs)
  | laneQuery (x : Transfer) (venue : Nat)
  | arbiterMode (x : Transfer) (mode : Nat)
  | alarmEnable (x : Transfer) (a : AlarmArgs)
  | attentionRead (x : Transfer) (clear : Nat)
  | healthRead (x : Transfer) (venue : Nat) (clear : Nat)
  /-- A request message as its bytes: command code, body length field and body clocked (R161). -/
  | unknownCommandRequest (x : Transfer) (code : Byte) (bodyLength : BitVec 16) (body : List Byte)
  /-- `bytes` is the number of whole bytes clocked after the kind byte (R162). -/
  | responseTransaction (cutByReset : Bool) (bytes : Nat)
  /-- `bits` is the number of bits clocked after the kind byte (R163). -/
  | statusTransaction (cutByReset : Bool) (bits : Nat)
  /-- The whole bytes of the transaction, the kind byte first (R160). -/
  | malformedTransaction (cutByReset : Bool) (bytes : List Byte)
  | hardwareReset
  | frameReceived (port : Fin 4) (rx : RxFrame)
  | transmitComplete (port : Fin 4)
  | linkStateChange (port : Fin 4) (up : Bool)
  /-- The time since the previous WCK edge in picoseconds, none for the first edge (R77, R78, log 16). -/
  | wckEdge (interval : Option Nat)
  | referenceQualified
  | referenceLoss (cause : LossCause)
  | blockBoundary (a : BoundaryArgs)
  | intervalUpdate (v : Fin 24)
  | schedulerStep (v : Fin 24)
  | fadeEnd (c : Fin 128)
  | terminalCount (c : Fin 128)
  | venueLossExpiry (v : Fin 24)
  | announceExpiry (v : Fin 24)
  | pathTimeout (v : Fin 24) (p : PathId)
  | reorderAllowanceExpiry (v : Fin 24) (c : Fin 128) (frame : FrameNo)
  | softwareKeyExpiry (source : Fin 16)
  | gapEnd (v : Fin 24)
  | degradeWindowRestart
  | resetRelease
  deriving DecidableEq, Repr

end Sys2Proof
end

