-- ==== Sys2Proof/WellFormed.lean ====
section
/-! DEFINITION. Which commands a sender can send: every field of a request within the width R169 gives
it, and the operands of a row that stand for the row and not for its neighbour. A meaning is given to
ill-formed terms all the same; `Instr.wellFormed` says which terms spell a message. -/

namespace Sys2Proof

/-- `n` fits an unsigned field of `k` bytes. -/
def fitsBytes (k n : Nat) : Bool := decide (n < 256 ^ k)

/-- `i` fits a signed field of `k` bytes. -/
def fitsSigned (k : Nat) (i : Int) : Bool :=
  decide (-(2 : Int) ^ (8 * k - 1) ≤ i) && decide (i < (2 : Int) ^ (8 * k - 1))

/-- An optional field, when given, passes the check. -/
def whenGiven {α : Type} (check : α → Bool) : Option α → Bool
  | none => true
  | some x => check x

/-- A one-byte field that sends its none as 255 (R169): a value given is below 255. -/
def fitsNoneByte : Option Nat → Bool := whenGiven fun n => decide (n < 255)

/-- The two bytes after the form byte of a circuit reference fit, and a bad form is none of 0 to 2 (R169). -/
def CircuitRef.wellFormed : CircuitRef → Bool
  | .absolute i => fitsBytes 1 i
  | .venueRelative v o => fitsBytes 1 v && fitsBytes 1 o
  | .keyed v t => fitsBytes 1 v && fitsBytes 1 t
  | .badForm f a b => fitsBytes 1 f && decide (2 < f) && fitsBytes 1 a && fitsBytes 1 b

def OpenForm.wellFormed : OpenForm → Bool
  | .direct k c => fitsBytes 1 k && fitsBytes 1 c
  | .fromAnnouncement => true
  | .badForm f => fitsBytes 1 f && decide (1 < f)

def SourceArg.wellFormed : SourceArg → Bool
  | .silence => true
  | .channel r ch => r.wellFormed && fitsBytes 1 ch
  | .badFlag f r ch => fitsBytes 1 f && decide (1 < f) && r.wellFormed && fitsBytes 1 ch

def DomainArg.wellFormed : DomainArg → Bool
  | .off => true
  | .value d => fitsBytes 2 d
  | .badFlag f => fitsBytes 1 f && decide (1 < f)

def VenueOpenArgs.wellFormed (a : VenueOpenArgs) : Bool :=
  fitsNoneByte a.portA && fitsNoneByte a.portB && whenGiven (fitsBytes 2) a.target &&
  whenGiven (fitsBytes 1) a.budget && whenGiven (fitsBytes 1) a.allowance &&
  whenGiven (fitsBytes 1) a.attempts && whenGiven (fitsBytes 2) a.pathTimeout &&
  whenGiven (fitsBytes 2) a.lossTime && whenGiven (fitsSigned 4) a.rate

def VenueSetArgs.wellFormed (a : VenueSetArgs) : Bool :=
  whenGiven fitsNoneByte a.portA && whenGiven fitsNoneByte a.portB &&
  whenGiven (fitsBytes 2) a.target && whenGiven (fitsBytes 1) a.budget &&
  whenGiven (fitsBytes 1) a.allowance && whenGiven (fitsBytes 1) a.attempts &&
  whenGiven (fitsBytes 2) a.pathTimeout && whenGiven (fitsBytes 2) a.lossTime

def CircuitOpenArgs.wellFormed (a : CircuitOpenArgs) : Bool :=
  fitsBytes 1 a.venue && fitsBytes 1 a.tag && fitsBytes 2 a.window && a.form.wellFormed &&
  whenGiven (fitsBytes 2) a.level && whenGiven (fitsBytes 2) a.hold &&
  whenGiven (fitsBytes 1) a.autoRearm

def CircuitSetArgs.wellFormed (a : CircuitSetArgs) : Bool :=
  whenGiven (fitsBytes 2) a.level && whenGiven (fitsBytes 2) a.hold &&
  whenGiven (fitsBytes 1) a.autoRearm && whenGiven (fitsBytes 1) a.fade

def PortSetArgs.wellFormed (a : PortSetArgs) : Bool :=
  whenGiven (fitsBytes 1) a.enable && whenGiven (fitsBytes 1) a.tagMode &&
  whenGiven DomainArg.wellFormed a.domain

def RateArgs.wellFormed (a : RateArgs) : Bool :=
  whenGiven (fitsSigned 4) a.rate && whenGiven (fitsBytes 2) a.step &&
  whenGiven (fitsBytes 1) a.settle && whenGiven (fitsBytes 1) a.frozen

def LaneSetArgs.wellFormed (a : LaneSetArgs) : Bool :=
  whenGiven (fitsBytes 1) a.enable && whenGiven fitsNoneByte a.cleanSlot &&
  whenGiven (fitsBytes 1) a.duck

def AlarmArgs.wellFormed (a : AlarmArgs) : Bool :=
  whenGiven (fitsBytes 1) a.venue && whenGiven (fitsBytes 2) a.threshold

/-- The kind byte and length tests of R160: the bytes are no transaction of the three kinds. -/
def isMalformedTransaction : List Byte → Bool
  | [] => true
  | k :: rest => if k = 1 then decide (rest.length < 4) else !(k == 2 || k == 3)

/-- Every operand fits the message or event it stands for. -/
def Instr.wellFormed : Instr → Bool
  | .identify _ => true
  | .deviceClear _ => true
  | .venueOpen _ a => a.wellFormed
  | .venueSet _ v a => fitsBytes 1 v && a.wellFormed
  | .venueRetire _ v o => fitsBytes 1 v && fitsBytes 1 o && decide (o ≠ 1)
  | .venueRetireForce _ v => fitsBytes 1 v
  | .venueQuery _ v => fitsBytes 1 v
  | .circuitOpen _ a => a.wellFormed
  | .circuitSet _ a r => a.wellFormed && r.wellFormed
  | .circuitTrim _ d r => fitsSigned 2 d && r.wellFormed
  | .circuitRearm _ r => r.wellFormed
  | .circuitRetire _ r o => r.wellFormed && fitsBytes 1 o
  | .circuitFind _ r => r.wellFormed
  | .circuitQuery _ r c => r.wellFormed && fitsBytes 1 c
  | .portSet _ p a => fitsBytes 1 p && a.wellFormed
  | .portQuery _ p c => fitsBytes 1 p && fitsBytes 1 c
  | .windowQuery _ r => r.wellFormed
  | .referenceQuery _ => true
  | .venueRate _ v m a => fitsBytes 1 v && whenGiven (fitsBytes 1) m && decide (m ≠ some 1) && a.wellFormed
  | .venueRateStepped _ v a => fitsBytes 1 v && a.wellFormed
  | .timebaseCapture _ v => fitsBytes 1 v
  | .recoveryQuery _ v => fitsBytes 1 v
  | .slotAssign _ s a => fitsBytes 1 s && a.wellFormed
  | .slotPunch _ s a => fitsBytes 1 s && a.wellFormed
  | .slotRelease _ s => fitsBytes 1 s
  | .slotQuery _ s => fitsBytes 1 s
  | .muteModify _ b _ m => fitsBytes 1 b && fitsBytes 1 m
  | .sourceSet _ n e => fitsBytes 1 n && whenGiven (fitsBytes 1) e
  | .sourceKey _ n d => fitsBytes 1 n && fitsBytes 2 d
  | .sourceUnkey _ n => fitsBytes 1 n
  | .targetModify _ n _ m => fitsBytes 1 n && fitsBytes 1 m
  | .laneSet _ v a => fitsBytes 1 v && a.wellFormed
  | .laneQuery _ v => fitsBytes 1 v
  | .arbiterMode _ m => fitsBytes 1 m
  | .alarmEnable _ a => a.wellFormed
  | .attentionRead _ c => fitsBytes 1 c
  | .healthRead _ v c => fitsBytes 1 v && fitsBytes 1 c
  | .unknownCommandRequest _ _ _ _ => true
  | .responseTransaction _ _ => true
  | .statusTransaction _ _ => true
  | .malformedTransaction _ bs => isMalformedTransaction bs
  | .hardwareReset => true
  | .frameReceived _ _ => true
  | .transmitComplete _ => true
  | .linkStateChange _ _ => true
  | .wckEdge _ => true
  | .referenceQualified => true
  | .referenceLoss _ => true
  | .blockBoundary _ => true
  | .intervalUpdate _ => true
  | .schedulerStep _ => true
  | .fadeEnd _ => true
  | .terminalCount _ => true
  | .venueLossExpiry _ => true
  | .announceExpiry _ => true
  | .pathTimeout _ _ => true
  | .reorderAllowanceExpiry _ _ _ => true
  | .softwareKeyExpiry _ => true
  | .gapEnd _ => true
  | .degradeWindowRestart => true
  | .resetRelease => true

end Sys2Proof
end

