-- ==== Sys2Proof/Decode.lean ====
section
/-! DEFINITION. Reading a request message of the control port (R161 steps 2 and 3, R169, R170), writing
one, and the host's reading of a table word. The table gives no row any bits, so a word spells none.
What R169 leaves open of the layout is in log 9. -/

namespace Sys2Proof

/-- The `k` bytes of `n`, most significant first (chapter 11). -/
def be : Nat → Nat → List Byte
  | 0, _ => []
  | k + 1, n => BitVec.ofNat 8 (n / 256 ^ k) :: be k n

/-- The number that bytes spell, most significant first. -/
def ofBe (bs : List Byte) : Nat := bs.foldl (fun n b => 256 * n + b.toNat) 0

/-- The `k` bytes of a signed value in two's complement. -/
def beSigned (k : Nat) (i : Int) : List Byte := be k (i % (256 : Int) ^ k).toNat

/-- The signed value whose `k` bytes spell `n`. -/
def signedOf (k n : Nat) : Int := if n < 256 ^ k / 2 then n else (n : Int) - (256 : Int) ^ k

/-- A reader of body fields: what it reads and the bytes it leaves, or none when they run out. -/
abbrev Reader (α : Type) := List Byte → Option (α × List Byte)

/-- Read nothing. -/
def Reader.pure {α : Type} (a : α) : Reader α := fun bs => some (a, bs)

/-- Read one field after another. -/
def Reader.bind {α β : Type} (r : Reader α) (f : α → Reader β) : Reader β := fun bs =>
  match r bs with
  | none => none
  | some (a, rest) => f a rest

/-- An unsigned field of `k` bytes. -/
def readNat (k : Nat) : Reader Nat := fun bs =>
  if bs.length < k then none else some (ofBe (bs.take k), bs.drop k)

def readMap {α β : Type} (f : α → β) (r : Reader α) : Reader β := r.bind fun a => Reader.pure (f a)

/-- A signed field of `k` bytes. -/
def readSigned (k : Nat) : Reader Int := readMap (signedOf k) (readNat k)

/-- A field of `8 * k` bits kept as bits: an address, a mask, a key. -/
def readBits (k : Nat) : Reader (BitVec (8 * k)) := readMap (BitVec.ofNat (8 * k)) (readNat k)

/-- A one-byte field whose none is sent as 255 (R169). -/
def readNoneByte : Reader (Option Nat) := readMap (fun n => if n = 255 then none else some n) (readNat 1)

/-- Field `i` of a body's optional fields: read when its presence bit is set (R169). -/
def readGiven {α : Type} (presence i : Nat) (r : Reader α) : Reader (Option α) :=
  if presence.testBit i then readMap some r else Reader.pure none

/-- A presence byte for `fields` optional fields: no bit beyond them may be set (R169). -/
def readPresence (fields : Nat) : Reader Nat := fun bs =>
  match readNat 1 bs with
  | none => none
  | some (p, rest) => if p < 2 ^ fields then some (p, rest) else none

/-- The two presence bytes of a command with nine optional fields: bit 0 of the second is the ninth. -/
def readPresenceNine : Reader Nat :=
  (readNat 1).bind fun lo => (readPresence 1).bind fun hi => Reader.pure (lo + 256 * hi)

/-- A circuit reference of 3 bytes (R169). The third byte of an ABSOLUTE one, which R169 sends as 0, is not judged:
the model's choice (log 34). -/
def readRef : Reader CircuitRef :=
  (readNat 1).bind fun f => (readNat 1).bind fun a => (readNat 1).bind fun b =>
  Reader.pure (if f = 0 then .absolute a else if f = 1 then .venueRelative a b
    else if f = 2 then .keyed a b else .badForm f a b)

/-- A source: a flag byte, then the reference and the channel, zeros for NONE (R169). What follows the flag byte of
NONE is not judged: the model's choice (log 34). -/
def readSource : Reader SourceArg :=
  (readNat 1).bind fun f => readRef.bind fun r => (readNat 1).bind fun ch =>
  Reader.pure (if f = 0 then .silence else if f = 1 then .channel r ch else .badFlag f r ch)

/-- A domain filter: a flag byte, then two bytes, zeros for off (R169). What follows the flag byte of off is not
judged: the model's choice (log 34). -/
def readDomain : Reader DomainArg :=
  (readNat 1).bind fun f => (readNat 2).bind fun d =>
  Reader.pure (if f = 0 then .off else if f = 1 then .value d else .badFlag f)

/-- The form of CIRCUIT_OPEN; kind and channel count follow only in the direct form (R33). -/
def readOpenForm : Reader OpenForm :=
  (readNat 1).bind fun f =>
  if f = 0 then (readNat 1).bind fun k => (readNat 1).bind fun c => Reader.pure (.direct k c)
  else if f = 1 then Reader.pure .fromAnnouncement else Reader.pure (.badForm f)

def readVenueOpen : Reader VenueOpenArgs :=
  (readPresence 8).bind fun p =>
  (readBits 2).bind fun key =>
  readNoneByte.bind fun portA =>
  (readGiven p 0 readNoneByte).bind fun portB =>
  (readGiven p 1 (readNat 2)).bind fun target =>
  (readGiven p 2 (readNat 1)).bind fun budget =>
  (readGiven p 3 (readNat 1)).bind fun allowance =>
  (readGiven p 4 (readNat 1)).bind fun attempts =>
  (readGiven p 5 (readNat 2)).bind fun pathTimeout =>
  (readGiven p 6 (readNat 2)).bind fun lossTime =>
  (readGiven p 7 (readSigned 4)).bind fun rate =>
  Reader.pure ⟨key, portA, portB.join, target, budget, allowance, attempts, pathTimeout, lossTime, rate⟩

def readVenueSet : Reader (Nat × VenueSetArgs) :=
  readPresenceNine.bind fun p =>
  (readNat 1).bind fun v =>
  (readGiven p 0 (readBits 2)).bind fun key =>
  (readGiven p 1 readNoneByte).bind fun portA =>
  (readGiven p 2 readNoneByte).bind fun portB =>
  (readGiven p 3 (readNat 2)).bind fun target =>
  (readGiven p 4 (readNat 1)).bind fun budget =>
  (readGiven p 5 (readNat 1)).bind fun allowance =>
  (readGiven p 6 (readNat 1)).bind fun attempts =>
  (readGiven p 7 (readNat 2)).bind fun pathTimeout =>
  (readGiven p 8 (readNat 2)).bind fun lossTime =>
  Reader.pure (v, ⟨key, portA, portB, target, budget, allowance, attempts, pathTimeout, lossTime⟩)

def readCircuitOpen : Reader CircuitOpenArgs :=
  (readPresence 3).bind fun p =>
  (readNat 1).bind fun venue =>
  (readNat 1).bind fun tag =>
  (readNat 2).bind fun window =>
  readOpenForm.bind fun form =>
  (readGiven p 0 (readNat 2)).bind fun level =>
  (readGiven p 1 (readNat 2)).bind fun hold =>
  (readGiven p 2 (readNat 1)).bind fun autoRearm =>
  Reader.pure ⟨venue, tag, window, form, level, hold, autoRearm⟩

def readCircuitSet : Reader CircuitSetArgs :=
  (readPresence 4).bind fun p =>
  (readGiven p 0 (readNat 2)).bind fun level =>
  (readGiven p 1 (readNat 2)).bind fun hold =>
  (readGiven p 2 (readNat 1)).bind fun autoRearm =>
  (readGiven p 3 (readNat 1)).bind fun fade =>
  Reader.pure ⟨level, hold, autoRearm, fade⟩

def readPortSet : Reader (Nat × PortSetArgs) :=
  (readPresence 5).bind fun p =>
  (readNat 1).bind fun port =>
  (readGiven p 0 (readNat 1)).bind fun enable =>
  (readGiven p 1 (readBits 6)).bind fun address =>
  (readGiven p 2 (readBits 2)).bind fun etherType =>
  (readGiven p 3 (readNat 1)).bind fun tagMode =>
  (readGiven p 4 readDomain).bind fun domain =>
  Reader.pure (port, ⟨enable, address, etherType, tagMode, domain⟩)

/-- The body of command 0x41, both modes: venue, mode, and the rest (R92). -/
def readRate : Reader (Nat × Option Nat × RateArgs) :=
  (readPresence 5).bind fun p =>
  (readNat 1).bind fun venue =>
  (readGiven p 0 (readSigned 4)).bind fun rate =>
  (readGiven p 1 (readNat 1)).bind fun mode =>
  (readGiven p 2 (readNat 2)).bind fun step =>
  (readGiven p 3 (readNat 1)).bind fun settle =>
  (readGiven p 4 (readNat 1)).bind fun frozen =>
  Reader.pure (venue, mode, ⟨rate, step, settle, frozen⟩)

def readLaneSet : Reader (Nat × LaneSetArgs) :=
  (readPresence 3).bind fun p =>
  (readNat 1).bind fun venue =>
  (readGiven p 0 (readNat 1)).bind fun enable =>
  (readGiven p 1 readNoneByte).bind fun cleanSlot =>
  (readGiven p 2 (readNat 1)).bind fun duck =>
  Reader.pure (venue, ⟨enable, cleanSlot, duck⟩)

def readAlarm : Reader AlarmArgs :=
  (readPresence 5).bind fun p =>
  (readGiven p 0 (readBits 1)).bind fun classes =>
  (readGiven p 1 (readNat 1)).bind fun venue =>
  (readGiven p 2 (readBits 2)).bind fun captureEnable =>
  (readGiven p 3 (readBits 2)).bind fun rateEnable =>
  (readGiven p 4 (readNat 2)).bind fun threshold =>
  Reader.pure ⟨classes, venue, captureEnable, rateEnable, threshold⟩

/-- The body reader of a command code (section 11.2.3); none for a code that names no command. -/
def bodyReader (x : Transfer) : Nat → Option (Reader Instr)
  | 0x01 => some (Reader.pure (.identify x))
  | 0x02 => some (Reader.pure (.deviceClear x))
  | 0x10 => some (readMap (.venueOpen x) readVenueOpen)
  | 0x11 => some (readMap (fun r => .venueSet x r.1 r.2) readVenueSet)
  | 0x12 => some ((readNat 1).bind fun v => readMap
      (fun o => if o = 1 then .venueRetireForce x v else .venueRetire x v o) (readNat 1))
  | 0x13 => some (readMap (.venueQuery x) (readNat 1))
  | 0x20 => some (readMap (.circuitOpen x) readCircuitOpen)
  | 0x21 => some (readCircuitSet.bind fun a => readMap (.circuitSet x a) readRef)
  | 0x22 => some ((readSigned 2).bind fun d => readMap (.circuitTrim x d) readRef)
  | 0x23 => some (readMap (.circuitRearm x) readRef)
  | 0x24 => some (readRef.bind fun r => readMap (.circuitRetire x r) (readNat 1))
  | 0x25 => some (readMap (.circuitFind x) readRef)
  | 0x26 => some (readRef.bind fun r => readMap (.circuitQuery x r) (readNat 1))
  | 0x30 => some (readMap (fun r => .portSet x r.1 r.2) readPortSet)
  | 0x31 => some ((readNat 1).bind fun p => readMap (.portQuery x p) (readNat 1))
  | 0x38 => some (readMap (.windowQuery x) readRef)
  | 0x40 => some (Reader.pure (.referenceQuery x))
  | 0x41 => some (readMap (fun r => if r.2.1 = some 1 then .venueRateStepped x r.1 r.2.2
      else .venueRate x r.1 r.2.1 r.2.2) readRate)
  | 0x42 => some (readMap (.timebaseCapture x) (readNat 1))
  | 0x48 => some (readMap (.recoveryQuery x) (readNat 1))
  | 0x50 => some ((readNat 1).bind fun s => readMap (.slotAssign x s) readSource)
  | 0x51 => some ((readNat 1).bind fun s => readMap (.slotPunch x s) readSource)
  | 0x52 => some (readMap (.slotRelease x) (readNat 1))
  | 0x53 => some (readMap (.slotQuery x) (readNat 1))
  | 0x54 => some ((readNat 1).bind fun b => (readBits 4).bind fun m => readMap (.muteModify x b m) (readNat 1))
  | 0x60 => some ((readPresence 1).bind fun p => (readNat 1).bind fun n =>
      readMap (.sourceSet x n) (readGiven p 0 (readNat 1)))
  | 0x61 => some ((readNat 1).bind fun n => readMap (.sourceKey x n) (readNat 2))
  | 0x62 => some (readMap (.sourceUnkey x) (readNat 1))
  | 0x63 => some ((readNat 1).bind fun n => (readBits 3).bind fun m => readMap (.targetModify x n m) (readNat 1))
  | 0x64 => some (readMap (fun r => .laneSet x r.1 r.2) readLaneSet)
  | 0x65 => some (readMap (.laneQuery x) (readNat 1))
  | 0x66 => some (readMap (.arbiterMode x) (readNat 1))
  | 0x70 => some (readMap (.alarmEnable x) readAlarm)
  | 0x71 => some (readMap (.attentionRead x) (readNat 1))
  | 0x72 => some ((readNat 1).bind fun v => readMap (.healthRead x v) (readNat 1))
  | _ => none

/-- What the message of a REQUEST transaction turns out to be (R161 steps 1 to 3). -/
inductive ReadResult where
  | badLength
  | badCommand
  | fits (i : Instr)
  deriving DecidableEq, Repr

/-- R161 steps 1 to 3. The message is the four header bytes and the body clocked. -/
def readRequest (x : Transfer) (code : Byte) (bodyLength : BitVec 16) (body : List Byte) : ReadResult :=
  if 252 < body.length || bodyLength.toNat != body.length then .badLength
  else match bodyReader x code.toNat with
    | none => .badCommand
    | some r => match r body with
      | some (i, []) => .fits i
      | _ => .badLength

/-- Presence bits of a list of optional fields, the first field in bit 0 (R169). -/
def presenceBits : List Bool → Nat
  | [] => 0
  | b :: bs => (if b then 1 else 0) + 2 * presenceBits bs

/-- An optional field, written when given. -/
def writeGiven {α : Type} (w : α → List Byte) : Option α → List Byte
  | none => []
  | some a => w a

def writeNoneByte : Option Nat → List Byte
  | none => be 1 255
  | some n => be 1 n

def writeRef : CircuitRef → List Byte
  | .absolute i => be 1 0 ++ be 1 i ++ be 1 0
  | .venueRelative v o => be 1 1 ++ be 1 v ++ be 1 o
  | .keyed v t => be 1 2 ++ be 1 v ++ be 1 t
  | .badForm f a b => be 1 f ++ be 1 a ++ be 1 b

def writeSource : SourceArg → List Byte
  | .silence => be 1 0 ++ be 3 0 ++ be 1 0
  | .channel r ch => be 1 1 ++ writeRef r ++ be 1 ch
  | .badFlag f r ch => be 1 f ++ writeRef r ++ be 1 ch

def writeDomain : DomainArg → List Byte
  | .off => be 1 0 ++ be 2 0
  | .value d => be 1 1 ++ be 2 d
  | .badFlag f => be 1 f ++ be 2 0

def writeOpenForm : OpenForm → List Byte
  | .direct k c => be 1 0 ++ be 1 k ++ be 1 c
  | .fromAnnouncement => be 1 1
  | .badForm f => be 1 f

def writeVenueOpen (a : VenueOpenArgs) : List Byte :=
  be 1 (presenceBits [a.portB.isSome, a.target.isSome, a.budget.isSome, a.allowance.isSome,
    a.attempts.isSome, a.pathTimeout.isSome, a.lossTime.isSome, a.rate.isSome]) ++
  be 2 a.key.toNat ++ writeNoneByte a.portA ++ writeGiven (be 1) a.portB ++ writeGiven (be 2) a.target ++
  writeGiven (be 1) a.budget ++ writeGiven (be 1) a.allowance ++ writeGiven (be 1) a.attempts ++
  writeGiven (be 2) a.pathTimeout ++ writeGiven (be 2) a.lossTime ++ writeGiven (beSigned 4) a.rate

def writeVenueSet (v : Nat) (a : VenueSetArgs) : List Byte :=
  be 1 (presenceBits [a.key.isSome, a.portA.isSome, a.portB.isSome, a.target.isSome, a.budget.isSome,
    a.allowance.isSome, a.attempts.isSome, a.pathTimeout.isSome]) ++
  be 1 (presenceBits [a.lossTime.isSome]) ++ be 1 v ++
  writeGiven (fun k => be 2 k.toNat) a.key ++ writeGiven writeNoneByte a.portA ++
  writeGiven writeNoneByte a.portB ++ writeGiven (be 2) a.target ++ writeGiven (be 1) a.budget ++
  writeGiven (be 1) a.allowance ++ writeGiven (be 1) a.attempts ++ writeGiven (be 2) a.pathTimeout ++
  writeGiven (be 2) a.lossTime

def writeCircuitOpen (a : CircuitOpenArgs) : List Byte :=
  be 1 (presenceBits [a.level.isSome, a.hold.isSome, a.autoRearm.isSome]) ++
  be 1 a.venue ++ be 1 a.tag ++ be 2 a.window ++ writeOpenForm a.form ++
  writeGiven (be 2) a.level ++ writeGiven (be 2) a.hold ++ writeGiven (be 1) a.autoRearm

def writeCircuitSet (a : CircuitSetArgs) : List Byte :=
  be 1 (presenceBits [a.level.isSome, a.hold.isSome, a.autoRearm.isSome, a.fade.isSome]) ++
  writeGiven (be 2) a.level ++ writeGiven (be 2) a.hold ++ writeGiven (be 1) a.autoRearm ++
  writeGiven (be 1) a.fade

def writePortSet (p : Nat) (a : PortSetArgs) : List Byte :=
  be 1 (presenceBits [a.enable.isSome, a.address.isSome, a.etherType.isSome, a.tagMode.isSome,
    a.domain.isSome]) ++
  be 1 p ++ writeGiven (be 1) a.enable ++ writeGiven (fun m => be 6 m.toNat) a.address ++
  writeGiven (fun e => be 2 e.toNat) a.etherType ++ writeGiven (be 1) a.tagMode ++
  writeGiven writeDomain a.domain

def writeRate (v : Nat) (mode : Option Nat) (a : RateArgs) : List Byte :=
  be 1 (presenceBits [a.rate.isSome, mode.isSome, a.step.isSome, a.settle.isSome, a.frozen.isSome]) ++
  be 1 v ++ writeGiven (beSigned 4) a.rate ++ writeGiven (be 1) mode ++ writeGiven (be 2) a.step ++
  writeGiven (be 1) a.settle ++ writeGiven (be 1) a.frozen

def writeLaneSet (v : Nat) (a : LaneSetArgs) : List Byte :=
  be 1 (presenceBits [a.enable.isSome, a.cleanSlot.isSome, a.duck.isSome]) ++
  be 1 v ++ writeGiven (be 1) a.enable ++ writeGiven writeNoneByte a.cleanSlot ++ writeGiven (be 1) a.duck

def writeAlarm (a : AlarmArgs) : List Byte :=
  be 1 (presenceBits [a.classes.isSome, a.venue.isSome, a.captureEnable.isSome, a.rateEnable.isSome,
    a.threshold.isSome]) ++
  writeGiven (fun c => be 1 c.toNat) a.classes ++ writeGiven (be 1) a.venue ++
  writeGiven (fun m => be 2 m.toNat) a.captureEnable ++ writeGiven (fun m => be 2 m.toNat) a.rateEnable ++
  writeGiven (be 2) a.threshold

/-- The command code and body of a request; none for the rows that are no request of a command. -/
def writeRequest : Instr → Option (Nat × List Byte)
  | .identify _ => some (0x01, [])
  | .deviceClear _ => some (0x02, [])
  | .venueOpen _ a => some (0x10, writeVenueOpen a)
  | .venueSet _ v a => some (0x11, writeVenueSet v a)
  | .venueRetire _ v o => some (0x12, be 1 v ++ be 1 o)
  | .venueRetireForce _ v => some (0x12, be 1 v ++ be 1 1)
  | .venueQuery _ v => some (0x13, be 1 v)
  | .circuitOpen _ a => some (0x20, writeCircuitOpen a)
  | .circuitSet _ a r => some (0x21, writeCircuitSet a ++ writeRef r)
  | .circuitTrim _ d r => some (0x22, beSigned 2 d ++ writeRef r)
  | .circuitRearm _ r => some (0x23, writeRef r)
  | .circuitRetire _ r o => some (0x24, writeRef r ++ be 1 o)
  | .circuitFind _ r => some (0x25, writeRef r)
  | .circuitQuery _ r c => some (0x26, writeRef r ++ be 1 c)
  | .portSet _ p a => some (0x30, writePortSet p a)
  | .portQuery _ p c => some (0x31, be 1 p ++ be 1 c)
  | .windowQuery _ r => some (0x38, writeRef r)
  | .referenceQuery _ => some (0x40, [])
  | .venueRate _ v m a => some (0x41, writeRate v m a)
  | .venueRateStepped _ v a => some (0x41, writeRate v (some 1) a)
  | .timebaseCapture _ v => some (0x42, be 1 v)
  | .recoveryQuery _ v => some (0x48, be 1 v)
  | .slotAssign _ s a => some (0x50, be 1 s ++ writeSource a)
  | .slotPunch _ s a => some (0x51, be 1 s ++ writeSource a)
  | .slotRelease _ s => some (0x52, be 1 s)
  | .slotQuery _ s => some (0x53, be 1 s)
  | .muteModify _ b m o => some (0x54, be 1 b ++ be 4 m.toNat ++ be 1 o)
  | .sourceSet _ n e => some (0x60, be 1 (presenceBits [e.isSome]) ++ be 1 n ++ writeGiven (be 1) e)
  | .sourceKey _ n d => some (0x61, be 1 n ++ be 2 d)
  | .sourceUnkey _ n => some (0x62, be 1 n)
  | .targetModify _ n m o => some (0x63, be 1 n ++ be 3 m.toNat ++ be 1 o)
  | .laneSet _ v a => some (0x64, writeLaneSet v a)
  | .laneQuery _ v => some (0x65, be 1 v)
  | .arbiterMode _ m => some (0x66, be 1 m)
  | .alarmEnable _ a => some (0x70, writeAlarm a)
  | .attentionRead _ c => some (0x71, be 1 c)
  | .healthRead _ v c => some (0x72, be 1 v ++ be 1 c)
  | .unknownCommandRequest _ _ _ _ => none
  | .responseTransaction _ _ => none
  | .statusTransaction _ _ => none
  | .malformedTransaction _ _ => none
  | .hardwareReset => none
  | .frameReceived _ _ => none
  | .transmitComplete _ => none
  | .linkStateChange _ _ => none
  | .wckEdge _ => none
  | .referenceQualified => none
  | .referenceLoss _ => none
  | .blockBoundary _ => none
  | .intervalUpdate _ => none
  | .schedulerStep _ => none
  | .fadeEnd _ => none
  | .terminalCount _ => none
  | .venueLossExpiry _ => none
  | .announceExpiry _ => none
  | .pathTimeout _ _ => none
  | .reorderAllowanceExpiry _ _ _ => none
  | .softwareKeyExpiry _ => none
  | .gapEnd _ => none
  | .degradeWindowRestart => none
  | .resetRelease => none

/-- What a request carries beside its command code and body; none for the rows that are no request of a
command. -/
def Instr.transfer : Instr → Option Transfer
  | .identify x => some x
  | .deviceClear x => some x
  | .venueOpen x _ => some x
  | .venueSet x _ _ => some x
  | .venueRetire x _ _ => some x
  | .venueRetireForce x _ => some x
  | .venueQuery x _ => some x
  | .circuitOpen x _ => some x
  | .circuitSet x _ _ => some x
  | .circuitTrim x _ _ => some x
  | .circuitRearm x _ => some x
  | .circuitRetire x _ _ => some x
  | .circuitFind x _ => some x
  | .circuitQuery x _ _ => some x
  | .portSet x _ _ => some x
  | .portQuery x _ _ => some x
  | .windowQuery x _ => some x
  | .referenceQuery x => some x
  | .venueRate x _ _ _ => some x
  | .venueRateStepped x _ _ => some x
  | .timebaseCapture x _ => some x
  | .recoveryQuery x _ => some x
  | .slotAssign x _ _ => some x
  | .slotPunch x _ _ => some x
  | .slotRelease x _ => some x
  | .slotQuery x _ => some x
  | .muteModify x _ _ _ => some x
  | .sourceSet x _ _ => some x
  | .sourceKey x _ _ => some x
  | .sourceUnkey x _ => some x
  | .targetModify x _ _ _ => some x
  | .laneSet x _ _ => some x
  | .laneQuery x _ => some x
  | .arbiterMode x _ => some x
  | .alarmEnable x _ => some x
  | .attentionRead x _ => some x
  | .healthRead x _ _ => some x
  | .unknownCommandRequest _ _ _ _ => none
  | .responseTransaction _ _ => none
  | .statusTransaction _ _ => none
  | .malformedTransaction _ _ => none
  | .hardwareReset => none
  | .frameReceived _ _ => none
  | .transmitComplete _ => none
  | .linkStateChange _ _ => none
  | .wckEdge _ => none
  | .referenceQualified => none
  | .referenceLoss _ => none
  | .blockBoundary _ => none
  | .intervalUpdate _ => none
  | .schedulerStep _ => none
  | .fadeEnd _ => none
  | .terminalCount _ => none
  | .venueLossExpiry _ => none
  | .announceExpiry _ => none
  | .pathTimeout _ _ => none
  | .reorderAllowanceExpiry _ _ _ => none
  | .softwareKeyExpiry _ => none
  | .gapEnd _ => none
  | .degradeWindowRestart => none
  | .resetRelease => none

/-- The host's reading of a table word. spec/opcode_table.json gives no row any bits, so no word spells
a command. -/
def decodeTableWord (_nbits _w : Nat) : Option Instr := none

end Sys2Proof
end

