-- ==== Sys2Proof/Config.lean ====
section
/-! DEFINITION. What one implementation fixes, the free values of the spec, and the spec's capacities. -/

namespace Sys2Proof.Config

/-- The silicon revision less one: R166 says only that the revision is 1 to 255. A free value (log 8). -/
opaque revisionLessOne : Fin 255

/-- Whether the `n`-th tag the part sends carries type 0x88A8 rather than 0x8100: R50 keeps a received
tag's control value but not its type, and R55 does not say which type a sent tag carries. A free
value for every sent tag (log 7). -/
opaque sentTagIsService : Nat → Bool

/-- Family code of the Wemzel family (section 11.2.3). -/
def familyCode : Nat := 0x3C

/-- Part code of the 6124 (section 11.2.3). -/
def partCode : Nat := 0x6124

/-- Units of the cell pool (R20, R22). -/
def poolUnits : Nat := 32768

/-- Bound on ρ_p and ρ_eff, about 250 ppm (section 5.2, R80). -/
def rateLimit : Int := 1073741

/-- Bound on the trim ρ_t, 2^20 (section 5.2, R80). -/
def trimLimit : Int := 1048576

/-- Bound on a margin sample (R86). -/
def marginLimit : Int := 1048576

/-- Margin samples of one tracking interval (R87). -/
def intervalBlocks : Nat := 256

/-- Age in blocks at which an announced list is emptied (R14). -/
def announceLife : Nat := 5000

/-- Entries a recovery queue holds (R98). -/
def recoveryDepth : Nat := 32

/-- Gaps one arrival hands to recovery at most (R68). -/
def gapLimit : Nat := 16

/-- Requests one recovery frame carries (R107). -/
def requestsPerFrame : Nat := 8

/-- Frames a transmit queue holds (R56). -/
def transmitDepth : Nat := 128

/-- Entries an override stack holds (R121). -/
def stackDepth : Nat := 4

/-- Circuits a venue's list and entries an announced list hold (R10, R13). -/
def circuitsPerVenue : Nat := 8

/-- Blocks of a degrade window (R153). -/
def degradeWindow : Nat := 1000

/-- Blocks of clean feed between two talkback holders (R137). -/
def gapBlocks : Nat := 2

/-- Ahead streak at which a venue is re-seated (R67, R70). -/
def aheadThreshold : Nat := 8

/-- Late streak at which a venue is re-seated (R67, R70). -/
def lateThreshold : Nat := 64

/-- Qualified WCK edges that bring the reference to WCK (R78). -/
def qualifyEdges : Nat := 48

/-- Out-of-range WCK edges in a row that lose the reference (R77). -/
def strayLimit : Nat := 4

end Sys2Proof.Config
end

