-- ==== Sys2Proof/Machine/State.lean ====
section
/-! DEFINITION. The state of the 6124 as plain data, and its value right after reset. -/

namespace Sys2Proof.Machine

/-- Why the part stops. Nothing of the spec stops it: a request that cannot be done is answered with a
result code (R164) and an unusable frame is discarded (section 5.7), so there is no constructor. -/
inductive Fault where
  deriving DecidableEq, Repr

/-- Why the model has no answer. -/
inductive Refusal where
  /-- Raised by an arm of `exec` whose command has no meaning yet; safe (the run stops). -/
  | notModelled (mnemonic : String)
  deriving DecidableEq, Repr

/-- Venue states (section 1.2). -/
inductive VenueState where
  | free | waiting | active | holdover
  deriving DecidableEq, Repr

/-- Circuit states (section 2.4). -/
inductive CircuitState where
  | free | armed | running | concealing | lost | closing
  deriving DecidableEq, Repr

/-- Path states (section 3.3). -/
inductive PathState where
  | absent | down | up
  deriving DecidableEq, Repr

/-- States of the tracking loop (R88). -/
inductive LoopState where
  | acquiring | locked
  deriving DecidableEq, Repr

/-- States of the gallery reference (section 5.1). -/
inductive RefState where
  | freeRun | wck
  deriving DecidableEq, Repr

/-- Tag modes of a link port (section 3.1). -/
inductive TagMode where
  | none | one | two
  deriving DecidableEq, Repr

/-- Arbiter modes of the foldback lanes (R147). -/
inductive ArbiterMode where
  | fixed | rotating
  deriving DecidableEq, Repr

/-- State of a foldback lane (section 8.4). -/
inductive LaneState where
  | idle
  | held (source : Fin 16)
  | gap (remaining : Nat)
  deriving DecidableEq, Repr

/-- The fifteen error kinds (R148). -/
inductive ErrorKind where
  | late | ahead | duplicate | masked | unknownCircuit | wrongPath | malformed | gapOverflow
  | queueFull | tooLate | unrecovered | cancelled | repairUnmatched | reseat | pathDown
  deriving DecidableEq, Repr

/-- Result codes of a response (section 10.3). -/
inductive Result where
  | ok | badCommand | badLength | badReference | badState | badValue | noCapacity | inUse
  | duplicateKey | notAnnounced | none
  deriving DecidableEq, Repr

/-- The response flags (R164). -/
structure Flags where
  clamped : Bool := false
  saturated : Bool := false
  displaced : Bool := false
  empty : Bool := false
  deriving DecidableEq, Repr

/-- A response of the control port (section 10.2). -/
structure Response where
  hostTag : Byte
  code : Byte
  result : Result
  flags : Flags
  body : List Byte
  deriving DecidableEq, Repr

/-- The control port (chapter 10). -/
structure Control where
  held : Option Response
  responseLost : Bool
  malformed : Bool
  /-- R160: the bytes driven on SPI_MISO in the whole bytes of the last transaction, from its kind byte on; a byte
  clocked beyond the list was driven zero (log 25). -/
  spiOut : List Byte
  deriving DecidableEq, Repr

/-- The gallery reference (section 5.1). -/
structure Reference where
  state : RefState
  qualification : Nat
  /-- Out-of-range WCK edges in a row while the state is WCK (R77). -/
  strayEdges : Nat
  blockCount : BlockCount
  deriving DecidableEq, Repr

/-- Settings of a venue (R4): T in venue samples, R in frames, the allowance in blocks, the path
timeout in milliseconds, the loss time in seconds. -/
structure Settings where
  target : Nat
  budget : Nat
  allowance : Nat
  attempts : Nat
  pathTimeout : Nat
  lossTime : Nat
  deriving DecidableEq, Repr

/-- The reply record of a path (R50). -/
structure Reply where
  address : BitVec 48
  tags : List (BitVec 16)
  domain : Byte
  deriving DecidableEq, Repr

/-- A path record (section 3.3). -/
structure Path where
  port : Option (Fin 4)
  state : PathState
  lastArrival : Option BlockCount
  reply : Option Reply
  deriving DecidableEq, Repr

/-- An entry of an announced list (section 1.4). -/
structure Announced where
  tag : Nat
  kind : CircuitKind
  channels : Nat
  deriving DecidableEq, Repr

/-- A read phase: frame, venue sample within it, and fraction (section 5.2). -/
structure Phase where
  nr : FrameNo
  k : Nat
  f : BitVec 32
  deriving DecidableEq, Repr

/-- The timebase fields of a venue (section 5.2). -/
structure Timebase where
  phase : Option Phase
  rhoP : Int
  rhoT : Int
  rhoEff : Int
  loop : LoopState
  sum : Int
  count : Nat
  lockRun : Nat
  unlockRun : Nat
  frozen : Bool
  active : Bool
  rhoCmd : Int
  step : Nat
  settle : Nat
  countdown : Nat
  deriving DecidableEq, Repr

/-- An entry of a recovery queue (section 6.1). -/
structure RecoveryEntry where
  circuit : Fin 128
  frame : FrameNo
  createdAt : BlockCount
  attempts : Nat
  nq : Option FrameNo
  deriving DecidableEq, Repr

/-- A foldback lane (section 8.4). -/
structure Lane where
  enable : Bool
  cleanSlot : Option (Fin 32)
  duck : Nat
  state : LaneState
  lastHolder : Option (Fin 16)
  sequence : BitVec 16
  half : BlockSamples
  deriving DecidableEq, Repr

/-- A held error capture (R150). -/
structure Capture where
  kind : ErrorKind
  circuit : Option (Fin 128)
  frame : Option FrameNo
  port : Option (Fin 4)
  block : BlockCount
  deriving DecidableEq, Repr

/-- The health record of a venue (section 9.1). Counters and enable sets are indexed by the code of
the error kind (R170). -/
structure Health where
  counters : Vector Nat 15
  repaired : Nat
  filledByPath : Nat
  captureEnable : BitVec 15
  rateEnable : BitVec 15
  capture : Option Capture
  overflow : Bool
  windowCount : Nat
  threshold : Nat
  degraded : Bool
  pathDown : Bool
  deriving DecidableEq, Repr

/-- A venue record (section 1.1). -/
structure Venue where
  state : VenueState
  key : BitVec 16
  settings : Settings
  pathA : Path
  pathB : Path
  holdoverElapsed : Nat
  /-- The block count at which the present HOLDOVER was entered (R8, log 22). -/
  holdoverSince : Option BlockCount
  circuits : List (Fin 128)
  announced : List Announced
  announceAge : Option Nat
  aheadStreak : Nat
  lateStreak : Nat
  newest : Option FrameNo
  timebase : Timebase
  recovery : List RecoveryEntry
  lane : Lane
  health : Health
  deriving DecidableEq, Repr

/-- A cell holding a frame: its index and the samples of each channel (section 4.1). An EMPTY cell is
not listed. -/
structure Cell where
  index : Nat
  frame : FrameNo
  chans : List FrameSamples
  deriving DecidableEq, Repr

/-- A circuit record with its window (sections 2.1 and 4.1). -/
structure Circuit where
  state : CircuitState
  venue : Option (Fin 24)
  tag : Option Nat
  kind : CircuitKind
  channels : Nat
  window : Nat
  level : Nat
  holdInit : Nat
  hold : Nat
  autoRearm : Bool
  fadeLength : Nat
  fade : Nat
  newest : Option FrameNo
  lastPresent : Option FrameNo
  conceal : List FrameSamples
  lossLatched : Bool
  placed : Nat
  late : Nat
  duplicate : Nat
  concealed : Nat
  masked : Nat
  cells : List Cell
  deriving DecidableEq, Repr

/-- A frame queued for transmission: its bytes from the destination address to the end of the padding;
the MAC appends the check sequence (log 5). -/
abbrev TxFrame := List Byte

/-- A link port (section 3.1). -/
structure Port where
  enable : Bool
  address : BitVec 48
  etherType : BitVec 16
  tagMode : TagMode
  domain : Option Byte
  taken : Nat
  notVct : Nat
  tagDiscards : Nat
  wrongDomain : Nat
  unknownKey : Nat
  malformed : Nat
  sent : Nat
  dropped : Nat
  queue : List TxFrame
  linkUp : Bool
  deriving DecidableEq, Repr

/-- A source of an output slot: a circuit, by absolute index, and a channel (R121). -/
structure SlotSource where
  circuit : Fin 128
  channel : Nat
  deriving DecidableEq, Repr

/-- A staged block (section 7.2). -/
structure StagedBlock where
  block : BlockCount
  samples : BlockSamples
  deriving DecidableEq, Repr

/-- An output slot with its staging (sections 7.2 and 7.3). -/
structure Slot where
  source : Option SlotSource
  stack : List SlotSource
  muted : Bool
  /-- The two staged blocks: a block of count b stands at b modulo 2 (log 21). -/
  staged : Vector (Option StagedBlock) 2
  emitting : BlockSamples
  /-- R128: the source that the end of a fade brought back at the present block boundary, which is staged from the next
  one (the model's own form, log 37). -/
  fellBack : Option SlotSource
  deriving DecidableEq, Repr

/-- A talkback source (section 8.2). -/
structure Source where
  targets : BitVec 24
  lineEnable : Bool
  lineSample : Bool
  softKey : Bool
  remaining : Nat
  deriving DecidableEq, Repr

/-- The whole part, with the queue of waiting commands. -/
structure State where
  resetLow : Bool
  reference : Reference
  control : Control
  ports : Vector Port 4
  venues : Vector Venue 24
  circuits : Vector Circuit 128
  poolFree : Nat
  slots : Vector Slot 128
  sources : Vector Source 16
  arbiter : ArbiterMode
  returnBlock : Vector BlockSamples 32
  keyLow : BitVec 16
  classEnables : BitVec 5
  refLoss : Bool
  /-- Works of the current block boundary not yet taken (log 1). -/
  due : List Work
  /-- How many free values have been used (log 7). -/
  freeCount : Nat
  pending : List Instr
  deriving DecidableEq, Repr

/-- 96 zero samples. -/
def silentFrame : FrameSamples := Vector.replicate 96 0

/-- 48 zero samples. -/
def silentBlock : BlockSamples := Vector.replicate 48 0

/-- The default settings of R4. -/
def Settings.default : Settings where
  target := 4800
  budget := 40
  allowance := 3
  attempts := 1
  pathTimeout := 100
  lossTime := 10

/-- An ABSENT path (R1, R54). -/
def Path.absent : Path where
  port := none
  state := .absent
  lastArrival := none
  reply := none

/-- The timebase fields of a FREE venue (R80). -/
def Timebase.free : Timebase where
  phase := none
  rhoP := 0
  rhoT := 0
  rhoEff := 0
  loop := .acquiring
  sum := 0
  count := 0
  lockRun := 0
  unlockRun := 0
  frozen := false
  active := false
  rhoCmd := 0
  step := 4096
  settle := 16
  countdown := 0

/-- The reset values of a lane (R135). -/
def Lane.reset : Lane where
  enable := false
  cleanSlot := none
  duck := 3
  state := .idle
  lastHolder := none
  sequence := 0
  half := silentBlock

/-- The reset values of a health record (section 9.1). -/
def Health.reset : Health where
  counters := Vector.replicate 15 0
  repaired := 0
  filledByPath := 0
  captureEnable := 0
  rateEnable := 0
  capture := none
  overflow := false
  windowCount := 0
  threshold := 50
  degraded := false
  pathDown := false

/-- A FREE venue record (R1). -/
def Venue.free : Venue where
  state := .free
  key := 0
  settings := Settings.default
  pathA := Path.absent
  pathB := Path.absent
  holdoverElapsed := 0
  holdoverSince := none
  circuits := []
  announced := []
  announceAge := none
  aheadStreak := 0
  lateStreak := 0
  newest := none
  timebase := Timebase.free
  recovery := []
  lane := Lane.reset
  health := Health.reset

/-- A FREE circuit record (R20). Kind, channel count and window are not reported of it (log 12). -/
def Circuit.free : Circuit where
  state := .free
  venue := none
  tag := none
  kind := .commentary
  channels := 1
  window := 64
  level := 4096
  holdInit := 2000
  hold := 0
  autoRearm := false
  fadeLength := 20
  fade := 0
  newest := none
  lastPresent := none
  conceal := [silentFrame, silentFrame]
  lossLatched := false
  placed := 0
  late := 0
  duplicate := 0
  concealed := 0
  masked := 0
  cells := []

/-- A link port after hardware reset (section 3.1, R57). -/
def Port.reset : Port where
  enable := false
  address := 0
  etherType := 0x88B5
  tagMode := .none
  domain := none
  taken := 0
  notVct := 0
  tagDiscards := 0
  wrongDomain := 0
  unknownKey := 0
  malformed := 0
  sent := 0
  dropped := 0
  queue := []
  linkUp := false

/-- An output slot after reset (sections 7.2 and 7.3). -/
def Slot.reset : Slot where
  source := none
  stack := []
  muted := true
  staged := Vector.replicate 2 none
  emitting := silentBlock
  fellBack := none

/-- A talkback source after reset (section 8.2). -/
def Source.reset : Source where
  targets := 0
  lineEnable := false
  lineSample := false
  softKey := false
  remaining := 0

/-- The control port after hardware reset (R165). -/
def Control.reset : Control where
  held := none
  responseLost := false
  malformed := false
  spiOut := []

/-- The gallery reference after hardware reset (R76). -/
def Reference.reset : Reference where
  state := .freeRun
  qualification := 0
  strayEdges := 0
  blockCount := 0

/-- The part right after reset, RESET_N risen (log 4). -/
def State.reset : State where
  resetLow := false
  reference := Reference.reset
  control := Control.reset
  ports := Vector.replicate 4 Port.reset
  venues := Vector.replicate 24 Venue.free
  circuits := Vector.replicate 128 Circuit.free
  poolFree := Config.poolUnits
  slots := Vector.replicate 128 Slot.reset
  sources := Vector.replicate 16 Source.reset
  arbiter := .fixed
  returnBlock := Vector.replicate 32 silentBlock
  keyLow := 0
  classEnables := 0
  refLoss := false
  due := []
  freeCount := 0
  pending := []

end Sys2Proof.Machine
end

