-- ==== Sys2Proof/Machine/Access.lean ====
section
/-! DEFINITION. Arithmetic of the spec's conventions, and the accessors through which every operation
reads and writes the records of the state. -/

namespace Sys2Proof.Machine

/-- The outcome type of this machine. -/
abbrev Outcome := Host.Outcome State Fault Refusal

/-- Signed distance of frame numbers (section 5.2): (a − b) modulo 2^32 in −2^31 to 2^31 − 1. -/
def dist (a b : FrameNo) : Int := (a - b).toInt

/-- Nearest value of `x` within `lo` to `hi`. -/
def clampInt (lo hi x : Int) : Int := max lo (min hi x)

/-- Nearest value of `x` within `lo` to `hi`. -/
def clampNat (lo hi x : Nat) : Nat := max lo (min hi x)

/-- Clamp to the 24-bit bounds (section 5.3). -/
def saturate (x : Int) : Sample := BitVec.ofInt 24 (clampInt (-8388608) 8388607 x)

/-- Increment of a 16-bit counter that saturates at 65,535 (section 5.5). -/
def satInc (n : Nat) : Nat := min 65535 (n + 1)

/-- Addition to a 16-bit counter that saturates at 65,535. -/
def satAdd (n k : Nat) : Nat := min 65535 (n + k)

/-- Clamp of ρ_p and ρ_eff (R80). -/
def clampRate (x : Int) : Int := clampInt (-Config.rateLimit) Config.rateLimit x

/-- Clamp of ρ_t (R80). -/
def clampTrim (x : Int) : Int := clampInt (-Config.trimLimit) Config.trimLimit x

namespace State

/-- The gallery block count at the event (R76). -/
def blockCount (s : State) : BlockCount := s.reference.blockCount

def venue (s : State) (v : Fin 24) : Venue := s.venues[v]

def setVenue (s : State) (v : Fin 24) (x : Venue) : State :=
  { s with venues := s.venues.set v.val x v.isLt }

def modVenue (s : State) (v : Fin 24) (f : Venue → Venue) : State := s.setVenue v (f (s.venue v))

def circuit (s : State) (c : Fin 128) : Circuit := s.circuits[c]

def setCircuit (s : State) (c : Fin 128) (x : Circuit) : State :=
  { s with circuits := s.circuits.set c.val x c.isLt }

def modCircuit (s : State) (c : Fin 128) (f : Circuit → Circuit) : State :=
  s.setCircuit c (f (s.circuit c))

def port (s : State) (p : Fin 4) : Port := s.ports[p]

def setPort (s : State) (p : Fin 4) (x : Port) : State :=
  { s with ports := s.ports.set p.val x p.isLt }

def modPort (s : State) (p : Fin 4) (f : Port → Port) : State := s.setPort p (f (s.port p))

def slot (s : State) (i : Fin 128) : Slot := s.slots[i]

def setSlot (s : State) (i : Fin 128) (x : Slot) : State :=
  { s with slots := s.slots.set i.val x i.isLt }

def source (s : State) (n : Fin 16) : Source := s.sources[n]

def setSource (s : State) (n : Fin 16) (x : Source) : State :=
  { s with sources := s.sources.set n.val x n.isLt }

/-- Change every circuit of a list, front to back. -/
def modCircuits (s : State) (cs : List (Fin 128)) (f : Circuit → Circuit) : State :=
  cs.foldl (fun t c => t.modCircuit c f) s

end State

/-- A venue in WAITING, ACTIVE or HOLDOVER is open (section 6 of the scope). -/
def Venue.isOpen (v : Venue) : Bool := v.state != .free

/-- A venue in ACTIVE or HOLDOVER is seated. -/
def Venue.seated (v : Venue) : Bool := v.state == .active || v.state == .holdover

def Venue.path (v : Venue) : PathId → Path
  | .a => v.pathA
  | .b => v.pathB

def Venue.setPath (v : Venue) (p : PathId) (x : Path) : Venue :=
  match p with
  | .a => { v with pathA := x }
  | .b => { v with pathB := x }

/-- Some configured path is UP (R6). -/
def Venue.anyPathUp (v : Venue) : Bool := v.pathA.state == .up || v.pathB.state == .up

def Venue.modTimebase (v : Venue) (f : Timebase → Timebase) : Venue :=
  { v with timebase := f v.timebase }

def Venue.modLane (v : Venue) (f : Lane → Lane) : Venue := { v with lane := f v.lane }

def Venue.modHealth (v : Venue) (f : Health → Health) : Venue := { v with health := f v.health }

/-- Every venue index in ascending order. -/
def allVenues : List (Fin 24) := List.finRange 24

/-- Every circuit index in ascending order. -/
def allCircuits : List (Fin 128) := List.finRange 128

/-- Every talkback source in ascending order. -/
def allSources : List (Fin 16) := List.finRange 16

end Sys2Proof.Machine
end

