-- ==== Sys2Proof/Machine/Operands.lean ====
section
/-! DEFINITION. The operand forms of requests: indices, circuit references (R31), coded fields (R170),
and the field encodings of response bodies (R169). -/

namespace Sys2Proof.Machine

/-- The index a request names, when it is in the table. -/
def inTable (n i : Nat) : Option (Fin n) := if h : i < n then some ⟨i, h⟩ else none

namespace State

/-- The open venue a request names, if any: the index is 0 to 23 and the record is not FREE. -/
def openVenue (s : State) (i : Nat) : Option (Fin 24) :=
  match inTable 24 i with
  | none => none
  | some v => if (s.venue v).isOpen then some v else none

/-- The circuit of a venue's list that holds a tag (R31, R62). -/
def tagged (s : State) (v : Fin 24) (tag : Nat) : Option (Fin 128) :=
  (s.venue v).circuits.find? fun c => (s.circuit c).tag == some tag

/-- The circuit a reference names: R31, in any of its three forms. A form byte that is none of them
names no circuit (R169). -/
def resolve (s : State) (r : CircuitRef) : Option (Fin 128) :=
  let found : Option (Fin 128) := match r with
    | .absolute i => inTable 128 i
    | .venueRelative v o => (s.openVenue v).bind fun v => (s.venue v).circuits[o]?
    | .keyed v t => (s.openVenue v).bind fun v => if t ≤ 254 then s.tagged v t else none
    | .badForm _ _ _ => none
  found.filter fun c => (s.circuit c).state != .free

/-- A circuit's ordinal: its position in its venue's list (R11). -/
def ordinal (s : State) (c : Fin 128) : Nat :=
  match (s.circuit c).venue with
  | none => 0
  | some v => (s.venue v).circuits.idxOf c

end State

/-- A two-valued coded field (R170). -/
def flagOf : Nat → Option Bool
  | 0 => some false
  | 1 => some true
  | _ => none

/-- A coded field holds a code of its table, or is not given. -/
def codeOk {α : Type} (decode : Nat → Option α) : Option Nat → Bool
  | none => true
  | some n => (decode n).isSome

/-- The value of a coded field, or the stored one when the field is not given. -/
def codeOr {α : Type} (decode : Nat → Option α) (old : α) : Option Nat → α
  | none => old
  | some n => (decode n).getD old

/-- Circuit kind codes (R170). -/
def kindOf : Nat → Option CircuitKind
  | 1 => some .commentary
  | 2 => some .crowd
  | 3 => some .coord
  | _ => none

/-- Tag mode codes (R170). -/
def tagModeOf : Nat → Option TagMode
  | 0 => some .none
  | 1 => some .one
  | 2 => some .two
  | _ => none

/-- Arbiter mode codes (R170). -/
def arbiterOf : Nat → Option ArbiterMode
  | 0 => some .fixed
  | 1 => some .rotating
  | _ => none

def kindCode : CircuitKind → Nat
  | .commentary => 1
  | .crowd => 2
  | .coord => 3

def venueStateCode : VenueState → Nat
  | .free => 0
  | .waiting => 1
  | .active => 2
  | .holdover => 3

def circuitStateCode : CircuitState → Nat
  | .free => 0
  | .armed => 1
  | .running => 2
  | .concealing => 3
  | .lost => 4
  | .closing => 5

def pathStateCode : PathState → Nat
  | .absent => 0
  | .down => 1
  | .up => 2

def loopCode : LoopState → Nat
  | .acquiring => 0
  | .locked => 1

def refStateCode : RefState → Nat
  | .freeRun => 0
  | .wck => 1

def tagModeCode : TagMode → Nat
  | .none => 0
  | .one => 1
  | .two => 2

def arbiterCode : ArbiterMode → Nat
  | .fixed => 0
  | .rotating => 1

def pathCode : PathId → Nat
  | .a => 0
  | .b => 1

def flagCode (b : Bool) : Nat := if b then 1 else 0

/-- Result codes (section 11.2.3). -/
def resultCode : Result → Nat
  | .ok => 0
  | .badCommand => 1
  | .badLength => 2
  | .badReference => 3
  | .badState => 4
  | .badValue => 5
  | .noCapacity => 6
  | .inUse => 7
  | .duplicateKey => 8
  | .notAnnounced => 9
  | .none => 10

/-- Error kind codes (R170), as indices of the health record's counters. -/
def ErrorKind.index : ErrorKind → Fin 15
  | .late => 0
  | .ahead => 1
  | .duplicate => 2
  | .masked => 3
  | .unknownCircuit => 4
  | .wrongPath => 5
  | .malformed => 6
  | .gapOverflow => 7
  | .queueFull => 8
  | .tooLate => 9
  | .unrecovered => 10
  | .cancelled => 11
  | .repairUnmatched => 12
  | .reseat => 13
  | .pathDown => 14

/-- One byte of a response body. -/
def u8 (n : Nat) : List Byte := be 1 n

/-- Two bytes of a response body. -/
def u16 (n : Nat) : List Byte := be 2 n

/-- A rate, an interval sum: 4 bytes, signed. -/
def s32 (i : Int) : List Byte := beSigned 4 i

/-- A frame number: 4 bytes. -/
def frameBytes (n : FrameNo) : List Byte := be 4 n.toNat

/-- A gallery block count: 5 bytes. -/
def blockBytes (b : BlockCount) : List Byte := be 5 b.toNat

/-- A two-valued flag: 1 byte. -/
def flagByte (b : Bool) : List Byte := u8 (flagCode b)

/-- A field that may be none: a flag byte, then `width` bytes, zeros for none (R169). -/
def maybe {α : Type} (width : Nat) (w : α → List Byte) : Option α → List Byte
  | none => u8 0 ++ be width 0
  | some a => u8 1 ++ w a

/-- A one-byte field that sends its none as 255 (R169). -/
def noneByte {n : Nat} : Option (Fin n) → List Byte
  | none => u8 255
  | some i => u8 i.val

/-- A list with its count of one byte first. -/
def counted {α : Type} (w : α → List Byte) (l : List α) : List Byte := u8 l.length ++ l.flatMap w

/-- The set of positions at which `f` holds, as bits. -/
def maskOf {n : Nat} (f : Fin n → Bool) : BitVec n :=
  BitVec.ofNat n ((List.finRange n).foldl (fun m i => m + if f i then 2 ^ i.val else 0) 0)

end Sys2Proof.Machine
end

