-- ==== Sys2Proof/Machine/Flags.lean ====
section
/-! DEFINITION. Flags and counters: error reports into a health record (R148 to R154), the attention
condition (R156), the keyed state of a talkback source (R132), the on-air tally (R130), and the status
byte (R163). The derived ones are functions of the state, not fields (log 20). -/

namespace Sys2Proof.Machine

/-- An error report (R148). The block count it carries is the one at the event. -/
structure Report where
  kind : ErrorKind
  circuit : Option (Fin 128)
  frame : Option FrameNo
  port : Option (Fin 4)
  deriving DecidableEq, Repr

/-- The counter of an error kind. -/
def Health.counter (h : Health) (k : ErrorKind) : Nat := h.counters[k.index]

/-- R148, R149: the counter of the report's kind is incremented, saturating. -/
def Health.count (h : Health) (k : ErrorKind) : Health :=
  { h with counters := h.counters.set k.index.val (satInc (h.counter k)) k.index.isLt }

/-- R150: an enabled report is taken by an empty capture, or sets the overflow flag of a held one. -/
def Health.offerCapture (h : Health) (r : Report) (b : BlockCount) : Health :=
  if h.captureEnable.getLsbD r.kind.index.val then
    match h.capture with
    | none => { h with capture := some ⟨r.kind, r.circuit, r.frame, r.port, b⟩ }
    | some _ => { h with overflow := true }
  else h

/-- R152: a rate-enabled report increments the window count and latches DEGRADED at the threshold. -/
def Health.offerMonitor (h : Health) (k : ErrorKind) : Health :=
  if h.rateEnable.getLsbD k.index.val then
    let n := satInc h.windowCount
    { h with windowCount := n, degraded := h.degraded || decide (h.threshold ≤ n) }
  else h

/-- R154: a PATH_DOWN report latches the flag, whatever the enables hold. -/
def Health.latchPathDown (h : Health) (k : ErrorKind) : Health :=
  if k = .pathDown then { h with pathDown := true } else h

/-- A report as health takes it: counted, then offered to the capture, then to the monitor (R148). -/
def Health.take (h : Health) (r : Report) (b : BlockCount) : Health :=
  (((h.count r.kind).offerCapture r b).offerMonitor r.kind).latchPathDown r.kind

namespace State

/-- An error report to a venue's health record at this event (R148). -/
def report (s : State) (v : Fin 24) (r : Report) : State :=
  s.modVenue v fun ve => ve.modHealth fun h => h.take r s.blockCount

/-- Several reports to one venue, in their order. -/
def reports (s : State) (v : Fin 24) (rs : List Report) : State :=
  rs.foldl (fun t r => t.report v r) s

end State

/-- R132: keyed while the line is enabled and was sampled low, or while the software key is set. -/
def Source.keyed (src : Source) : Bool := (src.lineEnable && src.lineSample) || src.softKey

/-- A slot's current source names the circuit. -/
def Slot.names (sl : Slot) (c : Fin 128) : Bool :=
  match sl.source with
  | none => false
  | some x => x.circuit == c

namespace State

/-- R130: a COMMENTARY circuit is on-air when it plays and an unmuted slot's current source names it. -/
def onAir (s : State) (c : Fin 128) : Bool :=
  let x := s.circuit c
  x.kind == .commentary &&
  (x.state == .running || x.state == .concealing || x.state == .closing) &&
  s.slots.toList.any fun sl => !sl.muted && sl.names c

/-- The circuits of a venue's list whose loss-latched flag is set, in list order (R154, R159). -/
def lostCircuits (s : State) (v : Fin 24) : List (Fin 128) :=
  (s.venue v).circuits.filter fun c => (s.circuit c).lossLatched

/-- The venue's pending items: bits 0 capture, 1 degraded, 2 path down, 3 circuit loss (section 9.5).
A FREE venue has none (R156). -/
def venueItems (s : State) (v : Fin 24) : BitVec 4 :=
  let ve := s.venue v
  if ve.isOpen then
    maskOf fun i : Fin 4 =>
      if i = 0 then ve.health.capture.isSome
      else if i = 1 then ve.health.degraded
      else if i = 2 then ve.health.pathDown
      else !(s.lostCircuits v).isEmpty
  else 0

/-- The venue has an item of an enabled class pending. -/
def venuePending (s : State) (v : Fin 24) : Bool :=
  s.venueItems v &&& s.classEnables.setWidth 4 != 0

/-- ATN_N is asserted: an item of an enabled class is pending (R156). -/
def attention (s : State) : Bool :=
  allVenues.any s.venuePending || (s.refLoss && s.classEnables.getLsbD 4)

/-- The status byte (R163, section 11.2.1). -/
def statusByte (s : State) : Byte :=
  BitVec.ofNat 8 (flagCode s.control.held.isSome + 2 * flagCode s.control.responseLost +
    4 * flagCode s.control.malformed + 8 * flagCode s.attention)

end State

/-- The flags byte of a response (section 11.2.2). -/
def Flags.byte (f : Flags) : Nat :=
  flagCode f.clamped + 2 * flagCode f.saturated + 4 * flagCode f.displaced + 8 * flagCode f.empty

/-- A response as it is clocked out: header, then body (section 11.2.2). -/
def Response.bytes (r : Response) : List Byte :=
  [r.hostTag, r.code] ++ u8 (resultCode r.result) ++ u8 r.flags.byte ++ u16 r.body.length ++ r.body

/-- The response clocked out when none is held (R162). -/
def Response.absent : Response where
  hostTag := 0
  code := 0
  result := .none
  flags := {}
  body := []

end Sys2Proof.Machine
end

