-- ==== Sys2Proof/Machine/Ops.lean ====
section
/-! DEFINITION. The named operations that several commands share: the cells of a window, the recovery
queue, freeing a circuit (R39), unseating a venue (R9), entering HOLDOVER (R6), and answering a request
(R161). -/

namespace Sys2Proof.Machine

/-! ### The cells of a window (section 4.1) -/

/-- What cell `i` holds; none when it is EMPTY. -/
def cellAt (cells : List Cell) (i : Nat) : Option Cell := cells.find? fun x => x.index == i

/-- Fill a cell, keeping the list in rising index order. -/
def putCell (x : Cell) : List Cell → List Cell
  | [] => [x]
  | y :: ys => if x.index < y.index then x :: y :: ys
      else if x.index = y.index then x :: ys else y :: putCell x ys

/-- Empty cell `i`. -/
def emptyCell (cells : List Cell) (i : Nat) : List Cell := cells.filter fun x => x.index != i

/-- The canonical form of a window: cell indices strictly rising. -/
abbrev cellsRising (cells : List Cell) : Prop := cells.Pairwise fun x y => x.index < y.index

/-- The cell a frame number stands in: N mod W (R60). -/
def Circuit.cellIndex (x : Circuit) (n : FrameNo) : Nat := n.toNat % x.window

/-- R61: the cell that holds frame `n`, when the frame is present. -/
def Circuit.held (x : Circuit) (n : FrameNo) : Option Cell :=
  (cellAt x.cells (x.cellIndex n)).filter fun y => y.frame == n

/-- Frame `n` is present in the circuit's window (R61). -/
def Circuit.present (x : Circuit) (n : FrameNo) : Bool := (x.held n).isSome

/-- R65: the cell takes frame `n` and its samples, and the placed counter is incremented. -/
def Circuit.store (x : Circuit) (n : FrameNo) (chans : List FrameSamples) : Circuit :=
  { x with cells := putCell ⟨x.cellIndex n, n, chans⟩ x.cells, placed := satInc x.placed }

/-- R72: the cell that holds the frame left is emptied. -/
def Circuit.consume (x : Circuit) (n : FrameNo) : Circuit :=
  if x.present n then { x with cells := emptyCell x.cells (x.cellIndex n) } else x

/-- Empty every cell and unset newest_c (R9, R71). -/
def Circuit.clearWindow (x : Circuit) : Circuit := { x with cells := [], newest := none }

/-- The pool units a circuit holds: c × W (R22). -/
def Circuit.units (x : Circuit) : Nat := x.channels * x.window

/-! ### Output slots -/

/-- The references of a slot to a circuit: R128 counts its stack entries and its current source. -/
def Slot.references (sl : Slot) (c : Fin 128) : Nat :=
  (sl.stack.filter fun x => x.circuit == c).length + (if sl.names c then 1 else 0)

/-- R128 for one slot: stack entries naming the circuit go, then a current source naming it takes the
top of what is left, or NONE. A source that fell back at this boundary and names it is no longer there to wait. -/
def Slot.dropCircuit (slot : Slot) (c : Fin 128) : Slot :=
  let sl := { slot with fellBack := slot.fellBack.filter fun x => x.circuit != c }
  let stack := sl.stack.filter fun x => x.circuit != c
  if sl.names c then
    match stack with
    | [] => { sl with source := none, stack := [] }
    | top :: rest => { sl with source := some top, stack := rest }
  else { sl with stack := stack }

/-- R128: a slot whose current source is a fallback from the end of a fade stages it from the next block boundary. -/
def Slot.waitNext (sl : Slot) : Slot := { sl with fellBack := sl.source }

/-! ### The recovery queue -/

/-- Queue order: ascending distance from Nr, then circuit index (R98, R99). -/
def RecoveryEntry.before (nr : FrameNo) (x y : RecoveryEntry) : Bool :=
  decide (dist x.frame nr < dist y.frame nr) ||
  (decide (dist x.frame nr = dist y.frame nr) && decide (x.circuit < y.circuit))

/-- R99: an entry goes after every entry that stands before it in queue order. -/
def insertEntry (nr : FrameNo) (e : RecoveryEntry) : List RecoveryEntry → List RecoveryEntry
  | [] => [e]
  | x :: xs => if x.before nr e then x :: insertEntry nr e xs else e :: x :: xs

/-- R109: remove a circuit's entries without counting. -/
def Venue.dropEntries (v : Venue) (c : Fin 128) : Venue :=
  { v with recovery := v.recovery.filter fun e => e.circuit != c }

/-- Report of an entry of the queue: its circuit and frame, no port (R111). -/
def RecoveryEntry.report (e : RecoveryEntry) (k : ErrorKind) : Report :=
  ⟨k, some e.circuit, some e.frame, none⟩

namespace State

/-- R108: every entry of the queue is counted and reported CANCELLED, in queue order, and leaves. -/
def flush (s : State) (v : Fin 24) : State :=
  (s.reports v ((s.venue v).recovery.map fun e => e.report .cancelled)).modVenue v
    fun ve => { ve with recovery := [] }

/-- How many output slot references a circuit has (R128). -/
def references (s : State) (c : Fin 128) : Nat :=
  s.slots.toList.foldl (fun n sl => n + sl.references c) 0

/-- R39 steps 1 to 6: the circuit leaves the slots, its venue's queue and list, its units return to the
pool, and its record becomes FREE. -/
def freeRecord (s : State) (c : Fin 128) : State :=
  let x := s.circuit c
  if x.state = .free then s
  else
    let s := { s with slots := s.slots.map fun (sl : Slot) => sl.dropCircuit c }
    let s := match x.venue with
      | none => s
      | some v => s.modVenue v fun ve =>
          { ve.dropEntries c with circuits := ve.circuits.filter fun d => d != c }
    ({ s with poolFree := s.poolFree + x.units }).setCircuit c Circuit.free

/-- R9 for one circuit of an unseated venue: RUNNING and CONCEALING go to ARMED, CLOSING is freed. -/
def unseatCircuit (s : State) (c : Fin 128) : State :=
  let x := s.circuit c
  match x.state with
  | .running | .concealing => s.setCircuit c { x with state := .armed, hold := x.holdInit }
  | .closing => s.freeRecord c
  | .free | .armed | .lost => s

end State

/-- R91: the timebase of a venue that is unseated. -/
def Timebase.unseat (t : Timebase) : Timebase :=
  { t with phase := none, rhoT := 0, rhoEff := t.rhoP, sum := 0, count := 0, lockRun := 0,
           unlockRun := 0, loop := .acquiring, active := false,
           countdown := if t.active then 0 else t.countdown }

/-- R89: the timebase of a venue that enters HOLDOVER. -/
def Timebase.enterHoldover (t : Timebase) : Timebase :=
  { t with rhoT := 0, rhoEff := clampRate t.rhoP, sum := 0, count := 0 }

/-- R90: the timebase of a venue that returns from HOLDOVER. -/
def Timebase.leaveHoldover (t : Timebase) : Timebase :=
  { t with loop := .acquiring, lockRun := 0, unlockRun := 0, sum := 0, count := 0 }

namespace State

/-- R9, R91: the venue returns to WAITING with its playout state undone, settings and lists kept. -/
def unseat (s : State) (v : Fin 24) : State :=
  let cs := (s.venue v).circuits
  let s := s.modCircuits cs Circuit.clearWindow
  let s := s.flush v
  let s := s.modVenue v fun ve =>
    { ve with state := .waiting, newest := none, aheadStreak := 0, lateStreak := 0,
              timebase := ve.timebase.unseat, holdoverElapsed := 0, holdoverSince := none }
  cs.foldl unseatCircuit s

/-- R39 with R12: free a circuit; a seated venue whose list becomes empty is unseated at the same event. -/
def freeCircuit (s : State) (c : Fin 128) : State :=
  let t := s.freeRecord c
  match (s.circuit c).venue with
  | none => t
  | some v => if (t.venue v).seated && (t.venue v).circuits.isEmpty then t.unseat v else t

/-- R6, R89: an ACTIVE venue enters HOLDOVER. -/
def enterHoldover (s : State) (v : Fin 24) : State :=
  (s.modVenue v fun ve =>
    { ve with state := .holdover, holdoverElapsed := 0, holdoverSince := some s.blockCount,
              timebase := ve.timebase.enterHoldover }).flush v

/-- R6: HOLDOVER follows when an ACTIVE venue is left with no path UP. -/
def holdoverIfPathless (s : State) (v : Fin 24) : State :=
  let ve := s.venue v
  if ve.state = .active && !ve.anyPathUp then s.enterHoldover v else s

/-! ### Answering a request -/

/-- R161: the one response of a request takes the place of any held one; replacing an unread one
latches response lost. The part drives zeros throughout a REQUEST transaction. -/
def hold (s : State) (x : Transfer) (code : Byte) (r : Result) (f : Flags) (body : List Byte) : State :=
  { s with control :=
    { s.control with held := some ⟨x.hostTag, code, r, f, body⟩,
                     responseLost := s.control.responseLost || s.control.held.isSome, spiOut := [0] } }

end State

/-- What a command's rule makes of a request: a refusal, which changes nothing (R164), or an OK
response with its flags and body, and the state the command leaves. -/
inductive Answer where
  | refuse (r : Result)
  | ok (f : Flags) (body : List Byte) (s : State)

/-- A request taken by the control port: not while RESET_N is low nor when it was low since the
request's chip select fell (R165); otherwise its rule is applied and exactly one response is held (R161). -/
def request (x : Transfer) (code : Byte) (handler : State → Answer) (s : State) : Outcome :=
  if s.resetLow || x.cutByReset then .next s
  else match handler s with
    | .refuse r => .next (s.hold x code r {} [])
    | .ok f body t => .next (t.hold x code .ok f body)

/-- An OK answer that changes nothing. -/
def answer (body : List Byte) (s : State) : Answer := .ok {} body s

/-- A check of a rule: refuse with `r` when `bad` holds, else go on. -/
def refuseIf (bad : Bool) (r : Result) (go : Answer) : Answer := if bad then .refuse r else go

/-- Look something up, or refuse with BAD_REFERENCE. -/
def orBadReference {α : Type} (found : Option α) (go : α → Answer) : Answer :=
  match found with
  | none => .refuse .badReference
  | some a => go a

end Sys2Proof.Machine
end

