-- ==== Sys2Proof/Machine/Alarms.lean ====
section
/-! DEFINITION. Health and attention: the restart of the degrade windows (R153), and ALARM_ENABLE,
ATTENTION_READ and HEALTH_READ (R157 to R159). Reports, capture and monitor stand in Flags.lean. -/

namespace Sys2Proof.Machine

/-- R153: the window count of every open venue is set to 0. -/
def State.windowRestart (s : State) : State :=
  { s with venues := s.venues.map fun (ve : Venue) =>
      if ve.isOpen then ve.modHealth fun h => { h with windowCount := 0 } else ve }

/-- R157: the settings an accepted ALARM_ENABLE stores; a new threshold is judged at once (R153). -/
def Health.enable (h : Health) (a : AlarmArgs) : Health :=
  let threshold := match a.threshold with
    | none => h.threshold
    | some n => clampNat 1 65535 n
  { h with
    captureEnable := (a.captureEnable.map fun m => m.setWidth 15).getD h.captureEnable
    rateEnable := (a.rateEnable.map fun m => m.setWidth 15).getD h.rateEnable
    threshold := threshold
    degraded := h.degraded || (a.threshold.isSome && decide (threshold ≤ h.windowCount)) }

/-- Some setting of a venue is given (R157). -/
def alarmVenueGiven (a : AlarmArgs) : Bool :=
  a.captureEnable.isSome || a.rateEnable.isSome || a.threshold.isSome

/-- R157 step 2: a set names a position that is no class or no error kind. -/
def alarmBad (a : AlarmArgs) : Bool :=
  (a.classes.any fun c => decide (32 ≤ c.toNat)) ||
  (a.captureEnable.any fun m => decide (32768 ≤ m.toNat)) ||
  (a.rateEnable.any fun m => decide (32768 ≤ m.toNat))

/-- A set of error kinds as it is sent (R170). -/
def kindSetBytes (m : BitVec 15) : List Byte := u16 m.toNat

/-- The class enables after ALARM_ENABLE. -/
def classesAfter (old : BitVec 5) (a : AlarmArgs) : BitVec 5 := (a.classes.map fun c => c.setWidth 5).getD old

/-- R157: ALARM_ENABLE that names venue `v`. -/
def alarmVenue (a : AlarmArgs) (v : Fin 24) (s : State) : Answer :=
  refuseIf (alarmBad a) .badValue <|
  let classes := classesAfter s.classEnables a
  let h := (s.venue v).health.enable a
  .ok { clamped := a.threshold.any fun n => clampNat 1 65535 n != n }
    (u8 classes.toNat ++ kindSetBytes h.captureEnable ++ kindSetBytes h.rateEnable ++ u16 h.threshold ++
      u16 h.windowCount)
    { s.modVenue v fun ve => { ve with health := h } with classEnables := classes }

/-- R157: ALARM_ENABLE that names no venue. -/
def alarmDevice (a : AlarmArgs) (s : State) : Answer :=
  refuseIf (alarmVenueGiven a) .badReference <|
  refuseIf (alarmBad a) .badValue <|
  .ok {} (u8 (classesAfter s.classEnables a).toNat) { s with classEnables := classesAfter s.classEnables a }

/-- ALARM_ENABLE (R157). -/
def execAlarmEnable (x : Transfer) (a : AlarmArgs) (s : State) : Outcome :=
  request x 0x70 (fun s => match a.venue with
    | none => alarmDevice a s
    | some i => orBadReference (s.openVenue i) fun v => alarmVenue a v s) s

/-- The open venues in ascending index. -/
def State.openVenues (s : State) : List (Fin 24) := allVenues.filter fun v => (s.venue v).isOpen

/-- The body of ATTENTION_READ (R158): one byte of items for each open venue, ascending, with no count
byte before them (DESIGN CHOICE, log 9). Venue n stands at
bit n of the venue mask (log 35). -/
def attentionReport (s : State) : List Byte :=
  flagByte s.attention ++ u8 s.classEnables.toNat ++ be 3 (maskOf s.venuePending).toNat ++
  s.openVenues.flatMap (fun v => u8 (s.venueItems v).toNat) ++ flagByte s.refLoss

/-- ATTENTION_READ (R158). -/
def execAttentionRead (x : Transfer) (clear : Nat) (s : State) : Outcome :=
  request x 0x71 (fun s => match flagOf clear with
    | none => .refuse .badValue
    | some k => .ok {} (attentionReport s) (if k then { s with refLoss := false } else s)) s

/-- A held capture (R159): kind, circuit, frame, port, block count. -/
def captureBytes (c : Capture) : List Byte :=
  u8 c.kind.index.val ++ noneByte c.circuit ++ maybe 4 frameBytes c.frame ++ noneByte c.port ++
  blockBytes c.block

/-- The body of HEALTH_READ (R159) for a health record and the venue's lost circuits. -/
def healthBytes (h : Health) (lost : List (Fin 128)) : List Byte :=
  h.counters.toList.flatMap u16 ++ u16 h.repaired ++ u16 h.filledByPath ++
  maybe 13 captureBytes h.capture ++ flagByte h.overflow ++
  u16 h.windowCount ++ u16 h.threshold ++ flagByte h.degraded ++ flagByte h.pathDown ++
  counted (fun (c : Fin 128) => u8 c.val) lost ++ kindSetBytes h.captureEnable ++ kindSetBytes h.rateEnable

/-- The body of HEALTH_READ: a FREE venue reports the reset values of section 9.1. -/
def healthReport (s : State) (v : Fin 24) : List Byte :=
  if (s.venue v).isOpen then healthBytes (s.venue v).health (s.lostCircuits v) else healthBytes Health.reset []

/-- R159: a health record after a clearing read: window count, threshold and enables stay. -/
def Health.clear (h : Health) : Health :=
  { h with counters := Vector.replicate 15 0, repaired := 0, filledByPath := 0, capture := none,
           overflow := false, degraded := false, pathDown := false }

/-- R159: the clear option of HEALTH_READ; for a FREE venue it changes nothing. -/
def State.clearHealth (s : State) (v : Fin 24) : State :=
  if (s.venue v).isOpen then
    (s.modVenue v fun ve => ve.modHealth Health.clear).modCircuits (s.venue v).circuits
      fun x => { x with lossLatched := false }
  else s

/-- HEALTH_READ (R159). -/
def execHealthRead (x : Transfer) (venue clear : Nat) (s : State) : Outcome :=
  request x 0x72 (fun s => orBadReference (inTable 24 venue) fun v =>
    match flagOf clear with
    | none => .refuse .badValue
    | some k => .ok {} (healthReport s v) (if k then s.clearHealth v else s)) s

end Sys2Proof.Machine
end

