-- ==== Sys2Proof/Machine/Venues.lean ====
section
/-! DEFINITION. Venue records: the settings of R4, the block-boundary work of a venue record (R8, R14), and the
venue commands (R15 to R19). -/

namespace Sys2Proof.Machine

/-! ### Settings (R4) -/

/-- The settings a request gives. -/
structure SettingsGiven where
  target : Option Nat
  budget : Option Nat
  allowance : Option Nat
  attempts : Option Nat
  pathTimeout : Option Nat
  lossTime : Option Nat
  deriving DecidableEq, Repr

def VenueOpenGiven (a : VenueOpenArgs) : SettingsGiven :=
  ⟨a.target, a.budget, a.allowance, a.attempts, a.pathTimeout, a.lossTime⟩

def VenueSetGiven (a : VenueSetArgs) : SettingsGiven :=
  ⟨a.target, a.budget, a.allowance, a.attempts, a.pathTimeout, a.lossTime⟩

/-- R4: the highest T that a window of `w` cells admits. -/
def windowLimit (w : Nat) : Nat := (w - 4) * 96

/-- R4: the highest T of a venue whose circuits have these window sizes. -/
def targetMax (windows : List Nat) : Nat := windows.foldl (fun m w => min m (windowLimit w)) 48768

/-- R4: the highest R for the T in force. -/
def budgetMax (target : Nat) : Nat := min 250 (max 1 (target / 96 - 1))

/-- A clamped setting: given, or left as it is. -/
def clampOr (lo hi old : Nat) : Option Nat → Nat
  | none => old
  | some n => clampNat lo hi n

/-- A given value was not stored as it was given. -/
def wasClamped (stored : Nat) : Option Nat → Bool
  | none => false
  | some n => n != stored

/-- R4: the settings stored. T is clamped first, and R against the T stored. -/
def Settings.store (old : Settings) (g : SettingsGiven) (tMax : Nat) : Settings :=
  let t := clampOr 480 tMax old.target g.target
  { target := t
    budget := match g.budget with
      | some r => clampNat 1 (budgetMax t) r
      | none => if g.target.isSome then clampNat 1 (budgetMax t) old.budget else old.budget
    allowance := clampOr 0 20 old.allowance g.allowance
    attempts := clampOr 0 2 old.attempts g.attempts
    pathTimeout := clampOr 10 1000 old.pathTimeout g.pathTimeout
    lossTime := clampOr 1 60 old.lossTime g.lossTime }

/-- R4: CLAMPED: a value given was clamped, or a new T lowered the R in force (log 17). -/
def Settings.clamped (old : Settings) (g : SettingsGiven) (new : Settings) : Bool :=
  wasClamped new.target g.target || wasClamped new.budget g.budget ||
  (g.budget.isNone && decide (new.budget < old.budget)) ||
  wasClamped new.allowance g.allowance || wasClamped new.attempts g.attempts ||
  wasClamped new.pathTimeout g.pathTimeout || wasClamped new.lossTime g.lossTime

/-- The settings of R4 as responses carry them. -/
def settingsBytes (x : Settings) : List Byte :=
  u16 x.target ++ u8 x.budget ++ u8 x.allowance ++ u8 x.attempts ++ u16 x.pathTimeout ++ u16 x.lossTime

/-- A venue's settings as VENUE_OPEN and VENUE_SET report them, in the order their requests list them
(R15, R16, log 9). -/
def venueSettings (ve : Venue) : List Byte :=
  u16 ve.key.toNat ++ noneByte ve.pathA.port ++ noneByte ve.pathB.port ++ settingsBytes ve.settings

namespace State

/-- The window sizes of a venue's circuits. -/
def windowsOf (s : State) (v : Fin 24) : List Nat := (s.venue v).circuits.map fun c => (s.circuit c).window

/-- Another venue than `but` that is open holds the key (R2). -/
def keyTaken (s : State) (key : BitVec 16) (but : Option (Fin 24)) : Bool :=
  allVenues.any fun v => (s.venue v).isOpen && (s.venue v).key == key && some v != but

/-- The lowest-numbered FREE venue record (R15). -/
def freeVenue (s : State) : Option (Fin 24) := allVenues.find? fun v => !(s.venue v).isOpen

/-! ### Block-boundary work -/

/-- R8: the block boundary counts the venue's HOLDOVER: not the boundary at which it was entered. -/
def holdoverCounts (s : State) (v : Fin 24) : Bool :=
  (s.venue v).state == .holdover && (s.venue v).holdoverSince != some s.blockCount

/-- R8: the count reaches the loss time at this boundary. -/
def lossExpires (s : State) (v : Fin 24) : Bool :=
  s.holdoverCounts v && decide (1000 * (s.venue v).settings.lossTime ≤ (s.venue v).holdoverElapsed + 1)

/-- R8: the HOLDOVER count of a venue at a block boundary. -/
def holdoverCount (s : State) (v : Fin 24) : State :=
  if s.lossExpires v then s.unseat v
  else if s.holdoverCounts v then
    s.modVenue v fun ve => { ve with holdoverElapsed := ve.holdoverElapsed + 1 }
  else s

/-- R14: the announced list expires at this boundary. -/
def announceExpires (s : State) (v : Fin 24) : Bool :=
  (s.venue v).isOpen && (s.venue v).announceAge.any fun a => decide (Config.announceLife ≤ a + 1)

/-- R14: the age of a venue's announced list at a block boundary. -/
def announceAge (s : State) (v : Fin 24) : State :=
  if s.announceExpires v then s.modVenue v fun ve => { ve with announced := [], announceAge := none }
  else if (s.venue v).isOpen then
    s.modVenue v fun ve => { ve with announceAge := ve.announceAge.map fun a => a + 1 }
  else s

/-! ### Retiring -/

/-- R18: the circuits of a list freed front to back, and the output slot references removed. -/
def freeAll (s : State) (cs : List (Fin 128)) : State × Nat :=
  cs.foldl (fun acc c => (acc.1.freeRecord c, acc.2 + acc.1.references c)) (s, 0)

/-- R17: the venue leaves every talkback source's target set. -/
def untarget (s : State) (v : Fin 24) : State :=
  { s with sources := s.sources.map fun (x : Source) =>
      { x with targets := x.targets &&& ~~~(1#24 <<< v.val) } }

/-- R17: the record takes the FREE values of R1, its lane, timebase and health record among them. -/
def closeVenue (s : State) (v : Fin 24) : State := (s.untarget v).setVenue v Venue.free

end State

/-- The body of a VENUE_RETIRE response (R17, R18). -/
def retireReport (freed references : Nat) : List Byte := u8 freed ++ u16 references

/-! ### Commands -/

/-- The port of a path, when a port byte names one. -/
def portArg (p : Nat) : Option (Fin 4) := inTable 4 p

/-- A path DOWN on a port, with nothing learned (R15, R16). -/
def Path.down (p : Fin 4) : Path := { port := some p, state := .down, lastArrival := none, reply := none }

/-- A path bound as a request gives it: DOWN on its port, or ABSENT. -/
def Path.bound : Option (Fin 4) → Path
  | none => Path.absent
  | some p => Path.down p

/-- A port number is given that is above 3. -/
def portBad : Option Nat → Bool
  | none => false
  | some p => decide (3 < p)

/-- R15: the record an accepted VENUE_OPEN sets up. -/
def openedVenue (a : VenueOpenArgs) : Venue :=
  { Venue.free with
    state := .waiting
    key := a.key
    settings := Settings.default.store (VenueOpenGiven a) (targetMax [])
    pathA := Path.bound (a.portA.bind portArg)
    pathB := Path.bound (a.portB.bind portArg)
    timebase := { Timebase.free with rhoP := clampRate (a.rate.getD 0), rhoEff := clampRate (a.rate.getD 0) } }

/-- R15: some setting given to VENUE_OPEN was clamped. -/
def openClamped (a : VenueOpenArgs) : Bool :=
  Settings.default.clamped (VenueOpenGiven a) (openedVenue a).settings ||
  a.rate.any fun r => clampRate r != r

/-- R15. -/
def venueOpen (a : VenueOpenArgs) (s : State) : Answer :=
  refuseIf (a.key == 0 || portBad a.portA || portBad a.portB || a.portA.isNone || a.portA == a.portB)
    .badValue <|
  refuseIf (s.keyTaken a.key none) .duplicateKey <|
  match s.freeVenue with
  | none => .refuse .noCapacity
  | some v =>
    .ok { clamped := openClamped a }
      (u8 v.val ++ venueSettings (openedVenue a) ++ s32 (openedVenue a).timebase.rhoP)
      (s.setVenue v (openedVenue a))

/-- VENUE_OPEN (R15). -/
def execVenueOpen (x : Transfer) (a : VenueOpenArgs) (s : State) : Outcome := request x 0x10 (venueOpen a) s

/-- R16: a path after VENUE_SET: as it is while its port does not change. -/
def Path.rebind (x : Path) : Option (Option Nat) → Path
  | none => x
  | some p => if p.bind portArg = x.port then x else Path.bound (p.bind portArg)

/-- The port of a path after VENUE_SET. -/
def portAfter (x : Path) : Option (Option Nat) → Option Nat
  | none => x.port.map fun p => p.val
  | some p => p

/-- R16: the values VENUE_SET cannot take. -/
def venueSetBad (ve : Venue) (a : VenueSetArgs) : Bool :=
  a.key == some 0 || a.portA.any portBad || a.portB.any portBad || a.portA == some none ||
  ((portAfter ve.pathA a.portA).isSome && portAfter ve.pathA a.portA == portAfter ve.pathB a.portB)

/-- R16: the record an accepted VENUE_SET leaves, before a HOLDOVER that it may cause. -/
def Venue.change (ve : Venue) (a : VenueSetArgs) (tMax : Nat) : Venue :=
  { ve with
    key := a.key.getD ve.key
    settings := ve.settings.store (VenueSetGiven a) tMax
    pathA := ve.pathA.rebind a.portA
    pathB := ve.pathB.rebind a.portB }

/-- R16. -/
def venueSet (venue : Nat) (a : VenueSetArgs) (s : State) : Answer :=
  orBadReference (s.openVenue venue) fun v =>
  refuseIf (venueSetBad (s.venue v) a) .badValue <|
  refuseIf (a.key.any fun k => s.keyTaken k (some v)) .duplicateKey <|
  let old := s.venue v
  let new := old.change a (targetMax (s.windowsOf v))
  let t := s.setVenue v new
  let t := if new.pathA = old.pathA && new.pathB = old.pathB then t else t.holdoverIfPathless v
  .ok { clamped := old.settings.clamped (VenueSetGiven a) new.settings } (venueSettings new) t

/-- VENUE_SET (R16). -/
def execVenueSet (x : Transfer) (venue : Nat) (a : VenueSetArgs) (s : State) : Outcome :=
  request x 0x11 (venueSet venue a) s

/-- R17. An option code other than 0 and 1 is refused after R17's own checks (R170); it is not FORCE, so the IN_USE
check is made (log 13). -/
def venueRetire (venue option : Nat) (s : State) : Answer :=
  orBadReference (s.openVenue venue) fun v =>
  refuseIf (!(s.venue v).circuits.isEmpty) .inUse <|
  refuseIf (option != 0) .badValue <|
  .ok {} (retireReport 0 0) (s.closeVenue v)

/-- VENUE_RETIRE without FORCE (R17). -/
def execVenueRetire (x : Transfer) (venue option : Nat) (s : State) : Outcome :=
  request x 0x12 (venueRetire venue option) s

/-- R18. -/
def venueRetireForce (venue : Nat) (s : State) : Answer :=
  orBadReference (s.openVenue venue) fun v =>
  let cs := (s.venue v).circuits
  let freed := s.freeAll cs
  .ok {} (retireReport cs.length freed.2) (freed.1.closeVenue v)

/-- VENUE_RETIRE with FORCE (R18). -/
def execVenueRetireForce (x : Transfer) (venue : Nat) (s : State) : Outcome :=
  request x 0x12 (venueRetireForce venue) s

/-- A path as VENUE_QUERY reports it (R19). -/
def pathReport (p : Path) (b : BlockCount) : List Byte :=
  noneByte p.port ++ u8 (pathStateCode p.state) ++
  maybe 6 (fun (r : Reply) => be 6 r.address.toNat) p.reply ++
  maybe 2 (fun l => u16 (min 65535 (b - l).toNat)) p.lastArrival

/-- The body of VENUE_QUERY (R19). -/
def venueReport (s : State) (v : Fin 24) : List Byte :=
  let ve := s.venue v
  u8 (venueStateCode ve.state) ++ u16 ve.key.toNat ++ settingsBytes ve.settings ++
  pathReport ve.pathA s.blockCount ++ pathReport ve.pathB s.blockCount ++
  counted (fun c => u8 c.val ++ u8 ((s.circuit c).tag.getD 0) ++ u8 (circuitStateCode (s.circuit c).state))
    ve.circuits ++
  counted (fun (e : Announced) => u8 e.tag ++ u8 (kindCode e.kind) ++ u8 e.channels) ve.announced ++
  maybe 2 u16 ve.announceAge ++ u16 ve.holdoverElapsed ++ u8 ve.aheadStreak ++ u8 ve.lateStreak ++
  maybe 4 frameBytes ve.newest

/-- VENUE_QUERY (R19). -/
def execVenueQuery (x : Transfer) (venue : Nat) (s : State) : Outcome :=
  request x 0x13 (fun s => orBadReference (inTable 24 venue) fun v => answer (venueReport s v) s) s

end Sys2Proof.Machine
end

