-- ==== Sys2Proof/Machine/Circuits.lean ====
section
/-! DEFINITION. Circuit records and the cell pool: the holdover countdown with terminal count (R26, R27), and
the circuit commands (R32 to R38, R41). Freeing a circuit (R39) stands in Ops.lean, judgement at frame
entry (R24, R25) and the fade (R29) in Timebase.lean. -/

namespace Sys2Proof.Machine

/-! ### Block-boundary work -/

/-- R27: the circuit record at terminal count, as its auto-rearm flag chooses. -/
def Circuit.terminal (x : Circuit) : Circuit :=
  let y : Circuit := { x with cells := [], newest := none, lastPresent := none }
  if x.autoRearm then { y with state := .armed, hold := x.holdInit }
  else { y with state := .lost, hold := 0, lossLatched := true }

namespace State

/-- R27: terminal count: the record, and its venue's recovery entries removed without counting. -/
def terminalCount (s : State) (c : Fin 128) : State :=
  let t := s.modCircuit c Circuit.terminal
  match (s.circuit c).venue with
  | none => t
  | some v => t.modVenue v fun ve => ve.dropEntries c

/-- R26: the countdown of this boundary brings the circuit to terminal count. -/
def terminates (s : State) (c : Fin 128) : Bool :=
  (s.circuit c).state == .concealing && decide ((s.circuit c).hold ≤ 1)

/-- R26: the holdover countdown of a circuit at a block boundary. -/
def holdoverCountdown (s : State) (c : Fin 128) : State :=
  if s.terminates c then s.terminalCount c
  else if (s.circuit c).state = .concealing then s.modCircuit c fun x => { x with hold := x.hold - 1 }
  else s

/-- The lowest-numbered FREE circuit record (R34). -/
def freeRecordIndex (s : State) : Option (Fin 128) :=
  allCircuits.find? fun c => (s.circuit c).state == .free

end State

/-! ### Commands -/

/-- The default H of a kind (R21). -/
def holdDefault : CircuitKind → Nat
  | .commentary => 2000
  | .crowd => 4000
  | .coord => 1000

/-- R33: the kind and channel count a form gives; none when the tag is not announced. A form byte of no
code gives neither (log 13). -/
def readForm (ve : Venue) (tag : Nat) : OpenForm → Option (Option CircuitKind × Nat)
  | .direct k c => some (kindOf k, c)
  | .fromAnnouncement => (ve.announced.find? fun e => e.tag == tag).map fun e => (some e.kind, e.channels)
  | .badForm _ => some (none, 0)

/-- A form byte of no code (R170). -/
def formBad : OpenForm → Bool
  | .direct _ _ => false
  | .fromAnnouncement => false
  | .badForm _ => true

/-- The window sizes of R33. -/
def windowSizes : List Nat := [64, 128, 256, 512]

/-- R33 step 3. -/
def circuitValueBad (ve : Venue) (a : CircuitOpenArgs) (kind : Option CircuitKind) (channels : Nat) : Bool :=
  a.tag == 255 || (!formBad a.form && (kind.isNone || !(channels == 1 || channels == 2))) ||
  !windowSizes.contains a.window || decide (windowLimit a.window < ve.settings.target)

/-- R34: the record an accepted CIRCUIT_OPEN sets up. -/
def openedCircuit (a : CircuitOpenArgs) (v : Fin 24) (kind : CircuitKind) (channels : Nat) : Circuit :=
  let hold := clampOr 1 65535 (holdDefault kind) a.hold
  { Circuit.free with
    state := .armed
    venue := some v
    tag := some a.tag
    kind := kind
    channels := channels
    window := a.window
    level := clampOr 0 16383 4096 a.level
    holdInit := hold
    hold := hold
    autoRearm := codeOr flagOf false a.autoRearm }

/-- R34: the state an accepted CIRCUIT_OPEN leaves. -/
def State.openCircuit (s : State) (v : Fin 24) (c : Fin 128) (x : Circuit) : State :=
  (({ s with poolFree := s.poolFree - x.units }).setCircuit c x).modVenue v
    fun ve => { ve with circuits := ve.circuits ++ [c] }

/-- R33, R34. -/
def circuitOpen (a : CircuitOpenArgs) (s : State) : Answer :=
  orBadReference (s.openVenue a.venue) fun v =>
  let ve := s.venue v
  match readForm ve a.tag a.form with
  | none => .refuse .notAnnounced
  | some (kind, channels) =>
    refuseIf (circuitValueBad ve a kind channels) .badValue <|
    refuseIf (s.tagged v a.tag).isSome .duplicateKey <|
    refuseIf (decide (Config.circuitsPerVenue ≤ ve.circuits.length) ||
      decide (s.poolFree < channels * a.window)) .noCapacity <|
    match s.freeRecordIndex with
    | none => .refuse .noCapacity
    | some c =>
      refuseIf (formBad a.form || !codeOk flagOf a.autoRearm) .badValue <|
      let x := openedCircuit a v (kind.getD .commentary) channels
      let t := s.openCircuit v c x
      .ok { clamped := wasClamped x.level a.level || wasClamped x.holdInit a.hold }
        (u8 c.val ++ u8 ve.circuits.length ++ u16 x.level ++ u16 x.holdInit ++ u16 t.poolFree) t

/-- CIRCUIT_OPEN (R33, R34). -/
def execCircuitOpen (x : Transfer) (a : CircuitOpenArgs) (s : State) : Outcome := request x 0x20 (circuitOpen a) s

/-- R35: h after a new H. -/
def Circuit.reholdTo (x : Circuit) (holdInit : Nat) : Nat :=
  match x.state with
  | .armed | .running => holdInit
  | .concealing => min x.hold holdInit
  | .lost | .free | .closing => x.hold

/-- R35: the record an accepted CIRCUIT_SET leaves. -/
def Circuit.change (x : Circuit) (a : CircuitSetArgs) : Circuit :=
  let holdInit := clampOr 1 65535 x.holdInit a.hold
  { x with
    level := clampOr 0 16383 x.level a.level
    holdInit := holdInit
    hold := if a.hold.isSome then x.reholdTo holdInit else x.hold
    autoRearm := codeOr flagOf x.autoRearm a.autoRearm
    fadeLength := clampOr 0 255 x.fadeLength a.fade }

/-- The four settings of R35 as stored. -/
def circuitSettings (x : Circuit) : List Byte :=
  u16 x.level ++ u16 x.holdInit ++ flagByte x.autoRearm ++ u8 x.fadeLength

/-- R35. -/
def circuitSet (a : CircuitSetArgs) (ref : CircuitRef) (s : State) : Answer :=
  orBadReference (s.resolve ref) fun c =>
  refuseIf ((s.circuit c).state == .closing) .badState <|
  refuseIf (!codeOk flagOf a.autoRearm) .badValue <|
  let y := (s.circuit c).change a
  .ok { clamped := wasClamped y.level a.level || wasClamped y.holdInit a.hold || wasClamped y.fadeLength a.fade }
    (circuitSettings y) (s.setCircuit c y)

/-- CIRCUIT_SET (R35). -/
def execCircuitSet (x : Transfer) (a : CircuitSetArgs) (ref : CircuitRef) (s : State) : Outcome :=
  request x 0x21 (circuitSet a ref) s

/-- R36: the sum of a level and a clamped delta. -/
def trimSum (level : Nat) (delta : Int) : Int := level + clampInt (-16383) 16383 delta

/-- R36. -/
def circuitTrim (delta : Int) (ref : CircuitRef) (s : State) : Answer :=
  orBadReference (s.resolve ref) fun c =>
  refuseIf ((s.circuit c).state == .closing) .badState <|
  let sum := trimSum (s.circuit c).level delta
  let level := (clampInt 0 16383 sum).toNat
  .ok { clamped := clampInt (-16383) 16383 delta != delta, saturated := clampInt 0 16383 sum != sum }
    (u16 level) (s.modCircuit c fun x => { x with level := level })

/-- CIRCUIT_TRIM (R36). -/
def execCircuitTrim (x : Transfer) (delta : Int) (ref : CircuitRef) (s : State) : Outcome :=
  request x 0x22 (circuitTrim delta ref) s

/-- R37: a circuit after CIRCUIT_REARM. -/
def Circuit.rearm (x : Circuit) : Circuit :=
  match x.state with
  | .lost => { x with state := .armed, hold := x.holdInit }
  | .concealing => { x with hold := x.holdInit }
  | .free | .armed | .running | .closing => x

/-- R37. -/
def circuitRearm (ref : CircuitRef) (s : State) : Answer :=
  orBadReference (s.resolve ref) fun c =>
  refuseIf ((s.circuit c).state == .closing) .badState <|
  let y := (s.circuit c).rearm
  .ok {} (u8 (circuitStateCode y.state) ++ u16 y.hold) (s.setCircuit c y)

/-- CIRCUIT_REARM (R37). -/
def execCircuitRearm (x : Transfer) (ref : CircuitRef) (s : State) : Outcome :=
  request x 0x23 (circuitRearm ref) s

/-- R38: a FADE retire of this circuit runs along a fade. -/
def Circuit.fades (x : Circuit) : Bool :=
  (x.state == .running || x.state == .concealing) && decide (0 < x.fadeLength)

/-- R38: the circuit is freed at once; the response counts the references removed. -/
def retireNow (s : State) (c : Fin 128) : Answer :=
  let t := s.freeCircuit c
  .ok {} (u16 (s.references c) ++ u16 t.poolFree) t

/-- R38. -/
def circuitRetire (ref : CircuitRef) (option : Nat) (s : State) : Answer :=
  orBadReference (s.resolve ref) fun c =>
  match flagOf option with
  | none => .refuse .badValue
  | some false => retireNow s c
  | some true =>
    refuseIf ((s.circuit c).state == .closing) .badState <|
    if (s.circuit c).fades then
      .ok {} (u8 (s.circuit c).fadeLength)
        (s.modCircuit c fun x => { x with state := .closing, fade := x.fadeLength })
    else retireNow s c

/-- CIRCUIT_RETIRE (R38, R39). -/
def execCircuitRetire (x : Transfer) (ref : CircuitRef) (option : Nat) (s : State) : Outcome :=
  request x 0x24 (circuitRetire ref option) s

/-- The body of CIRCUIT_FIND (R32). -/
def findReport (s : State) (c : Fin 128) : List Byte :=
  let x := s.circuit c
  u8 c.val ++ noneByte x.venue ++ u8 (s.ordinal c) ++ u8 (x.tag.getD 0) ++ u8 (kindCode x.kind) ++
  u8 x.channels ++ u8 (circuitStateCode x.state)

/-- CIRCUIT_FIND (R32). -/
def execCircuitFind (x : Transfer) (ref : CircuitRef) (s : State) : Outcome :=
  request x 0x25 (fun s => orBadReference (s.resolve ref) fun c => answer (findReport s c) s) s

/-- The body of CIRCUIT_QUERY (R41). -/
def circuitReport (s : State) (c : Fin 128) : List Byte :=
  let x := s.circuit c
  u8 c.val ++ noneByte x.venue ++ u8 (s.ordinal c) ++ u8 (x.tag.getD 0) ++ u8 (kindCode x.kind) ++
  u8 x.channels ++ u16 x.window ++ u8 (circuitStateCode x.state) ++ circuitSettings x ++
  u16 x.hold ++ u8 (if x.state = .closing then x.fade else 0) ++
  maybe 4 frameBytes x.newest ++ maybe 4 frameBytes x.lastPresent ++ flagByte x.lossLatched ++
  u16 x.placed ++ u16 x.late ++ u16 x.duplicate ++ u16 x.concealed ++ u16 x.masked ++ u16 s.poolFree

/-- R30, R41: the five counters at 0. -/
def Circuit.clearCounters (x : Circuit) : Circuit :=
  { x with placed := 0, late := 0, duplicate := 0, concealed := 0, masked := 0 }

/-- R41. -/
def circuitQuery (ref : CircuitRef) (clear : Nat) (s : State) : Answer :=
  orBadReference (s.resolve ref) fun c =>
  match flagOf clear with
  | none => .refuse .badValue
  | some k => .ok {} (circuitReport s c) (if k then s.modCircuit c Circuit.clearCounters else s)

/-- CIRCUIT_QUERY (R41). -/
def execCircuitQuery (x : Transfer) (ref : CircuitRef) (clear : Nat) (s : State) : Outcome :=
  request x 0x26 (circuitQuery ref clear) s

end Sys2Proof.Machine
end

