-- ==== Sys2Proof/Machine/Slots.lean ====
section
/-! DEFINITION. The output slot table: the slot commands (R122 to R126) and the mute set (R127). -/

namespace Sys2Proof.Machine

/-- A source as slot responses carry it: circuit index and channel, 255 and 0 for NONE (log 9). -/
def slotSourceBytes : Option SlotSource → List Byte
  | none => u8 255 ++ u8 0
  | some x => u8 x.circuit.val ++ u8 x.channel

/-- A slot's current source, stack and mute flag, as the slot commands report them (R123 to R125). -/
def slotReport (sl : Slot) : List Byte :=
  slotSourceBytes sl.source ++ counted (fun x => slotSourceBytes (some x)) sl.stack ++ flagByte sl.muted

/-- R122 step 2: what a source argument names; none when its reference does not resolve or its channel
is not below the circuit's channel count. A flag byte of no code is judged after R122's own checks (R170), which
are made of the reference and the channel that follow it. -/
def State.sourceOf (s : State) : SourceArg → Option (Option SlotSource)
  | .silence => some none
  | .channel r ch | .badFlag _ r ch => (s.resolve r).bind fun c =>
      if ch < (s.circuit c).channels then some (some ⟨c, ch⟩) else none

/-- A flag byte of no code (R170). -/
def sourceFlagBad : SourceArg → Bool
  | .silence => false
  | .channel _ _ => false
  | .badFlag _ _ _ => true

/-- R122 step 3: the circuit a source names is CLOSING. -/
def State.sourceClosing (s : State) : Option SlotSource → Bool
  | none => false
  | some x => (s.circuit x.circuit).state == .closing

/-- R122: the checks of a command that sets a slot's source. -/
def slotCommand (slot : Nat) (arg : SourceArg) (s : State) (go : Fin 128 → Option SlotSource → Answer) : Answer :=
  orBadReference (inTable 128 slot) fun i =>
  orBadReference (s.sourceOf arg) fun src =>
  refuseIf (s.sourceClosing src) .badState <|
  refuseIf (sourceFlagBad arg) .badValue (go i src)

/-- R123: a new current source. -/
def Slot.assign (sl : Slot) (src : Option SlotSource) : Slot := { sl with source := src }

/-- SLOT_ASSIGN (R122, R123). -/
def execSlotAssign (x : Transfer) (slot : Nat) (arg : SourceArg) (s : State) : Outcome :=
  request x 0x50 (fun s => slotCommand slot arg s fun i src =>
    .ok {} (slotReport ((s.slot i).assign src)) (s.setSlot i ((s.slot i).assign src))) s

/-- R124: the stack with the old current source pushed, before it is cut to its depth. -/
def Slot.pushed (sl : Slot) : List SlotSource :=
  match sl.source with
  | none => sl.stack
  | some old => old :: sl.stack

/-- R124: a new current source over the old one. -/
def Slot.punch (sl : Slot) (src : Option SlotSource) : Slot :=
  { sl with source := src, stack := sl.pushed.take Config.stackDepth }

/-- R124: the entry a full stack loses. -/
def Slot.displaced (sl : Slot) : Option SlotSource := sl.pushed[Config.stackDepth]?

/-- SLOT_PUNCH (R122, R124). -/
def execSlotPunch (x : Transfer) (slot : Nat) (arg : SourceArg) (s : State) : Outcome :=
  request x 0x51 (fun s => slotCommand slot arg s fun i src =>
    .ok { displaced := (s.slot i).displaced.isSome }
      (slotReport ((s.slot i).punch src) ++
        (match (s.slot i).displaced with | none => [] | some e => slotSourceBytes (some e)))
      (s.setSlot i ((s.slot i).punch src))) s

/-- R125: the source beneath the current one returns. -/
def Slot.release (sl : Slot) : Slot :=
  match sl.stack with
  | [] => { sl with source := none }
  | top :: rest => { sl with source := some top, stack := rest }

/-- SLOT_RELEASE (R125). -/
def execSlotRelease (x : Transfer) (slot : Nat) (s : State) : Outcome :=
  request x 0x52 (fun s => orBadReference (inTable 128 slot) fun i =>
    .ok { empty := (s.slot i).stack.isEmpty } (slotReport (s.slot i).release)
      (s.setSlot i (s.slot i).release)) s

/-- A source as SLOT_QUERY reports it: with its venue, tag, kind and circuit state (R126). -/
def sourceDetail (s : State) (x : SlotSource) : List Byte :=
  let y := s.circuit x.circuit
  slotSourceBytes (some x) ++ noneByte y.venue ++ u8 (y.tag.getD 0) ++ u8 (kindCode y.kind) ++
  u8 (circuitStateCode y.state)

/-- The current source in SLOT_QUERY; NONE is index 255 with zeros after it (log 9). -/
def currentDetail (s : State) : Option SlotSource → List Byte
  | none => u8 255 ++ be 5 0
  | some x => sourceDetail s x

/-- The body of SLOT_QUERY (R126). -/
def slotQueryReport (s : State) (i : Fin 128) : List Byte :=
  u8 i.val ++ u8 (i.val / 32) ++ u8 (i.val % 32) ++ flagByte (s.slot i).muted ++
  currentDetail s (s.slot i).source ++ counted (sourceDetail s) (s.slot i).stack

/-- SLOT_QUERY (R126). -/
def execSlotQuery (x : Transfer) (slot : Nat) (s : State) : Outcome :=
  request x 0x53 (fun s => orBadReference (inTable 128 slot) fun i => answer (slotQueryReport s i) s) s

/-- The mask modes of MUTE_MODIFY and TARGET_MODIFY (R127, R144). -/
inductive MaskMode where
  | replace | set | clear
  deriving DecidableEq, Repr

/-- Mask mode codes (R170). -/
def maskModeOf : Nat → Option MaskMode
  | 0 => some .replace
  | 1 => some .set
  | 2 => some .clear
  | _ => none

/-- One flag of a set after a mask mode. -/
def MaskMode.apply : MaskMode → Bool → Bool → Bool
  | .replace, inMask, _ => inMask
  | .set, inMask, old => old || inMask
  | .clear, inMask, old => old && !inMask

/-- R127: the mute flags of a bus modified; slot s of bus n has index 32n + s. Slot s stands at bit s of the mask, the
least significant bit being slot 0: the model's choice (log 35). -/
def State.muteBus (s : State) (bus : Nat) (mask : BitVec 32) (mode : MaskMode) : State :=
  { s with slots := Vector.ofFn fun i : Fin 128 =>
      if i.val / 32 = bus then
        { s.slot i with muted := mode.apply (mask.getLsbD (i.val % 32)) (s.slot i).muted }
      else s.slot i }

/-- The 32 mute flags of a bus, as a mask of the same form: slot s at bit s (log 35). -/
def State.busMutes (s : State) (bus : Fin 4) : BitVec 32 :=
  maskOf fun j : Fin 32 => (s.slot ⟨32 * bus.val + j.val, by omega⟩).muted

/-- R127. The response carries the bus's 32 mute flags as one slot mask of 4 bytes: the model's choice (log 35). -/
def muteModify (bus : Nat) (mask : BitVec 32) (mode : Nat) (s : State) : Answer :=
  orBadReference (inTable 4 bus) fun b =>
  match maskModeOf mode with
  | none => .refuse .badValue
  | some m => .ok {} (be 4 ((s.muteBus b.val mask m).busMutes b).toNat) (s.muteBus b.val mask m)

/-- MUTE_MODIFY (R127). -/
def execMuteModify (x : Transfer) (bus : Nat) (mask : BitVec 32) (mode : Nat) (s : State) : Outcome :=
  request x 0x54 (muteModify bus mask mode) s

end Sys2Proof.Machine
end

