-- ==== Sys2Proof/Machine/Transmit.lean ====
section
/-! DEFINITION. Transmission: building a RECOVERY or FOLDBACK frame (R168, section 11.1), addressing a copy
for each path that can carry it (R55), the transmit queues (R56), and link state (R57). -/

namespace Sys2Proof.Machine

/-- A frame submitted for a venue, before it is addressed: the fields of its VCT header that the
submitting block gives, and its payload. -/
structure VctOut where
  kind : Nat
  flags : Nat
  channels : Nat
  frame : FrameNo
  entries : Nat
  payload : List Byte
  deriving DecidableEq, Repr

/-- The VCT header of a sent frame (section 11.1.1): version 1, circuit tag 255, last byte 0. -/
def VctOut.header (o : VctOut) (key : BitVec 16) (domain : Byte) : List Byte :=
  u8 1 ++ u8 o.kind ++ u8 o.flags ++ [domain] ++ be 2 key.toNat ++ u8 255 ++ u8 o.channels ++
  frameBytes o.frame ++ u16 o.payload.length ++ u8 o.entries ++ u8 0

/-- The type a sent tag carries: free between the two 802.1Q types (log 7). -/
def tagType (use : Nat) : Nat := if Config.sentTagIsService use then 0x88A8 else 0x8100

/-- The tags of a copy, in the order they were received; tag `i` takes free value `use + i` (R55). -/
def tagBytes (use : Nat) : List (BitVec 16) → List Byte
  | [] => []
  | t :: ts => be 2 (tagType use) ++ be 2 t.toNat ++ tagBytes (use + 1) ts

/-- Zeros that bring a frame to 60 bytes, 64 with its check sequence (R168). -/
def padded (bs : List Byte) : TxFrame := bs ++ List.replicate (60 - bs.length) 0

/-- R55, R168: the copy of a frame for one path. -/
def addressed (use : Nat) (pt : Port) (r : Reply) (key : BitVec 16) (o : VctOut) : TxFrame :=
  padded (be 6 r.address.toNat ++ be 6 pt.address.toNat ++ tagBytes use r.tags ++
    be 2 pt.etherType.toNat ++ o.header key r.domain ++ o.payload)

/-- R56, R57: a submitted copy joins the tail, or is discarded and counted as transmit dropped while
the link is down or the queue is full. -/
def Port.submit (pt : Port) (f : TxFrame) : Port :=
  if pt.linkUp && decide (pt.queue.length < Config.transmitDepth) then { pt with queue := pt.queue ++ [f] }
  else { pt with dropped := satInc pt.dropped }

/-- R56, R57: every queued frame is discarded and counted as transmit dropped; the frame being sent is
the head of the queue. -/
def Port.dropQueue (pt : Port) : Port :=
  { pt with queue := [], dropped := satAdd pt.dropped pt.queue.length }

/-- R56: the frame at the head has been sent in full. -/
def Port.complete (pt : Port) : Port :=
  match pt.queue with
  | [] => pt
  | _ :: rest => { pt with queue := rest, sent := satInc pt.sent }

/-- R55: a copy for one path, when the path is UP, has a reply record, and its port is enabled. -/
def State.submitCopy (s : State) (v : Fin 24) (o : VctOut) (p : PathId) : State :=
  let path := (s.venue v).path p
  match path.state, path.port, path.reply with
  | .up, some i, some r =>
    if (s.port i).enable then
      let f := addressed s.freeCount (s.port i) r (s.venue v).key o
      { s.modPort i fun pt => pt.submit f with freeCount := s.freeCount + r.tags.length }
    else s
  | _, _, _ => s

/-- R55: a frame is submitted once for each path that can carry it, path A before path B. -/
def State.submit (s : State) (v : Fin 24) (o : VctOut) : State :=
  (s.submitCopy v o .a).submitCopy v o .b

/-- TRANSMIT_COMPLETE (R56). -/
def execTransmitComplete (p : Fin 4) (s : State) : Outcome := .next (s.modPort p Port.complete)

/-- R57: a port's link comes up, or goes down and loses its queue. -/
def Port.setLink (pt : Port) (up : Bool) : Port :=
  if up then { pt with linkUp := true }
  else if pt.linkUp then { pt.dropQueue with linkUp := false } else pt

/-- LINK_STATE_CHANGE (R57). No link state is read while RESET_N is low (R171). -/
def execLinkStateChange (p : Fin 4) (up : Bool) (s : State) : Outcome :=
  .next (if s.resetLow then s else s.modPort p fun pt => pt.setLink up)

end Sys2Proof.Machine
end

