-- ==== Sys2Proof/Machine/Foldback.lean ====
section
/-! DEFINITION. Foldback and talkback: sources and their keys (R132, R134), the lane arbiter (R136 to R138), the
foldback step with its lane audio and frames (R133 to R140), and the source and lane commands (R141 to
R147). -/

namespace Sys2Proof.Machine

/-! ### The arbiter -/

/-- A source asks for a venue's lane: it is keyed and its target set contains the venue (R136). Venue n
stands at bit n of a target set or venue mask, the least significant bit being venue 0: the model's choice (log 35). -/
def Source.wants (src : Source) (v : Fin 24) : Bool := src.keyed && src.targets.getLsbD v.val

/-- The sources from `start` upward, wrapping past TS15 to TS0. -/
def sourcesFrom (start : Nat) : List (Fin 16) :=
  (List.range 16).map fun i => ⟨(start + i) % 16, Nat.mod_lt _ (by decide)⟩

/-- R136: the priority order of a lane. -/
def Lane.order (l : Lane) : ArbiterMode → List (Fin 16)
  | .fixed => sourcesFrom 0
  | .rotating => match l.lastHolder with
    | none => sourcesFrom 0
    | some n => sourcesFrom (n.val + 1)

/-- R136: the arbiter grants the lane to the first asking source in priority order, or leaves it IDLE. -/
def Lane.arbitrate (l : Lane) (mode : ArbiterMode) (asks : Fin 16 → Bool) : Lane :=
  match (l.order mode).find? asks with
  | none => { l with state := .idle }
  | some n => { l with state := .held n, lastHolder := some n }

/-- R137: a release puts the lane in GAP with 2 blocks remaining; the last holder stays. -/
def Lane.release (l : Lane) : Lane := { l with state := .gap Config.gapBlocks }

/-- The sources that ask for a venue's lane. -/
def State.asks (s : State) (v : Fin 24) (n : Fin 16) : Bool := (s.source n).wants v

/-- R136 at an event of venue `v`. -/
def State.arbitrateLane (s : State) (v : Fin 24) : State :=
  s.modVenue v fun ve => ve.modLane fun l => l.arbitrate s.arbiter (s.asks v)

/-! ### The foldback step -/

/-- R134: the software key's countdown. -/
def Source.countKey (src : Source) : Source :=
  if src.softKey && decide (0 < src.remaining) then
    { src with remaining := src.remaining - 1, softKey := decide (1 < src.remaining) }
  else src

/-- R134: stage 1 for one source, its key line being low or high. -/
def Source.sample (src : Source) (low : Bool) : Source := { src.countKey with lineSample := low }

/-- Stage 1: the software key countdown and the key line sample of every source (R134). -/
def State.sampleKeys (s : State) : State :=
  { s with sources := Vector.ofFn fun n : Fin 16 => (s.source n).sample (s.keyLow.getLsbD n.val) }

/-- Stages 2 to 4 for one lane: release, gap countdown, arbitration (R133, R137, R138). `asks` and
`keyed` are the sources as stage 1 left them. -/
def Lane.turn (l : Lane) (mode : ArbiterMode) (keyed asks : Fin 16 → Bool) : Lane :=
  match l.state with
  | .held n => if l.enable && !keyed n then l.release else l
  | .gap g => if g ≤ 1 then l.arbitrate mode asks else { l with state := .gap (g - 1) }
  | .idle => if l.enable then l.arbitrate mode asks else l

/-- Stages 2 to 4 for every lane; each lane's outcome depends on its own state and the sources. -/
def State.turnLanes (s : State) : State :=
  { s with venues := Vector.ofFn fun v : Fin 24 =>
      (s.venue v).modLane fun l => l.turn s.arbiter (fun n => (s.source n).keyed) (s.asks v) }

/-- R139: a sample of the lane's clean feed. -/
def Lane.clean (l : Lane) (ret : Vector BlockSamples 32) (j : Fin 48) : Int :=
  match l.cleanSlot with
  | none => 0
  | some c => (ret[c][j]).toInt

/-- R139: one sample of the lane audio. -/
def Lane.audio (l : Lane) (ret : Vector BlockSamples 32) (j : Fin 48) : Sample :=
  match l.state with
  | .held n => saturate ((ret[n.val][j]).toInt + (l.clean ret j) >>> l.duck)
  | .idle | .gap _ => saturate (l.clean ret j)

/-- R139: the block a lane computes at stage 5. -/
def Lane.block (l : Lane) (ret : Vector BlockSamples 32) : BlockSamples :=
  Vector.ofFn fun j : Fin 48 => l.audio ret j

/-- R139 at an odd block count: every enabled lane's block goes to its half-frame buffer. -/
def State.bufferLanes (s : State) : State :=
  { s with venues := Vector.ofFn fun v : Fin 24 =>
      (s.venue v).modLane fun l => if l.enable then { l with half := l.block s.returnBlock } else l }

/-- The COMMENTARY circuits of a venue's list, in list order (R140). -/
def State.tallied (s : State) (v : Fin 24) : List (Fin 128) :=
  (s.venue v).circuits.filter fun c => (s.circuit c).kind == .commentary

/-- A tally entry: the circuit's tag and on-air state (R140). -/
def tallyBytes (s : State) (c : Fin 128) : List Byte :=
  u8 ((s.circuit c).tag.getD 0) ++ flagByte (s.onAir c)

/-- The 48 samples of a block as a frame carries them. -/
def blockSampleBytes (b : BlockSamples) : List Byte := b.toList.flatMap fun x => be 3 x.toNat

/-- The lane is HELD. -/
def Lane.isHeld (l : Lane) : Bool :=
  match l.state with
  | .held _ => true
  | .idle | .gap _ => false

/-- R140: the foldback frame of a venue. -/
def foldbackFrame (s : State) (v : Fin 24) : VctOut :=
  let l := (s.venue v).lane
  { kind := 4
    flags := if l.isHeld then 4 else 0
    channels := 1
    frame := l.sequence.setWidth 32
    entries := (s.tallied v).length
    payload := (s.tallied v).flatMap (tallyBytes s) ++ blockSampleBytes l.half ++
      blockSampleBytes (l.block s.returnBlock) }

/-- R140: an open venue with an enabled lane assembles its frame; the sequence is incremented and the
frame submitted. -/
def State.sendFoldback (s : State) (v : Fin 24) : State :=
  if (s.venue v).isOpen && (s.venue v).lane.enable then
    (s.modVenue v fun ve => ve.modLane fun l => { l with sequence := l.sequence + 1 }).submit v
      (foldbackFrame s v)
  else s

/-- R133: the foldback step, its six stages in order. -/
def State.foldbackStep (s : State) : State :=
  let t := s.sampleKeys.turnLanes
  if t.blockCount.toNat % 2 = 1 then t.bufferLanes else allVenues.foldl State.sendFoldback t

/-! ### Source commands -/

/-- The venues whose lanes a source holds, in ascending venue index: the order is the model's choice (log 36). -/
def State.lanesHeld (s : State) (n : Fin 16) : List (Fin 24) :=
  allVenues.filter fun v => (s.venue v).lane.state == .held n

/-- A source's report (section 8.6). -/
def sourceReport (s : State) (n : Fin 16) : List Byte :=
  let x := s.source n
  be 3 x.targets.toNat ++ flagByte x.lineEnable ++ flagByte x.lineSample ++ flagByte x.softKey ++
  u16 x.remaining ++ flagByte x.keyed ++ counted (fun (v : Fin 24) => u8 v.val) (s.lanesHeld n)

/-- One lane after a source changed from `old`: released when its holder stopped asking (R137),
arbitrated when the source began to ask and it is enabled and IDLE (R136). -/
def State.followSource (s : State) (n : Fin 16) (old : Source) (v : Fin 24) : State :=
  let l := (s.venue v).lane
  if old.wants v && !s.asks v n then
    if l.state = .held n then s.modVenue v fun ve => ve.modLane Lane.release else s
  else if !old.wants v && s.asks v n && l.enable && l.state == .idle then s.arbitrateLane v
  else s

/-- A source changed by a command between steps: every lane follows at the same event. -/
def State.changeSource (s : State) (n : Fin 16) (f : Source → Source) : State :=
  allVenues.foldl (fun t v => t.followSource n (s.source n) v) (s.setSource n (f (s.source n)))

/-- An accepted source command: the change, then the source's report. -/
def sourceAnswer (s : State) (n : Fin 16) (clamped : Bool) (f : Source → Source) : Answer :=
  .ok { clamped := clamped } (sourceReport (s.changeSource n f) n) (s.changeSource n f)

/-- R141: the line enable. -/
def Source.setLine (x : Source) (e : Option Nat) : Source := { x with lineEnable := codeOr flagOf x.lineEnable e }

/-- SOURCE_SET (R141). -/
def execSourceSet (x : Transfer) (source : Nat) (e : Option Nat) (s : State) : Outcome :=
  request x 0x60 (fun s => orBadReference (inTable 16 source) fun n =>
    refuseIf (!codeOk flagOf e) .badValue (sourceAnswer s n false fun y => y.setLine e)) s

/-- R142: the software key set with a duration. -/
def Source.key (x : Source) (duration : Nat) : Source := { x with softKey := true, remaining := duration }

/-- SOURCE_KEY (R142). -/
def execSourceKey (x : Transfer) (source duration : Nat) (s : State) : Outcome :=
  request x 0x61 (fun s => orBadReference (inTable 16 source) fun n =>
    sourceAnswer s n false fun y => y.key duration) s

/-- R143: the software key cleared. -/
def Source.unkey (x : Source) : Source := if x.softKey then { x with softKey := false, remaining := 0 } else x

/-- SOURCE_UNKEY (R143). -/
def execSourceUnkey (x : Transfer) (source : Nat) (s : State) : Outcome :=
  request x 0x62 (fun s => orBadReference (inTable 16 source) fun n =>
    sourceAnswer s n false Source.unkey) s

/-- R144: a target set after a mask mode. -/
def MaskMode.targets : MaskMode → BitVec 24 → BitVec 24 → BitVec 24
  | .replace, m, _ => m
  | .set, m, old => old ||| m
  | .clear, m, old => old &&& ~~~m

/-- The open venues, as a mask with venue n at bit n (log 35). -/
def State.openMask (s : State) : BitVec 24 := maskOf fun v : Fin 24 => (s.venue v).isOpen

/-- R144: the mask with FREE venues dropped; CLEAR drops none. -/
def State.targetMask (s : State) (mask : BitVec 24) : MaskMode → BitVec 24
  | .replace | .set => mask &&& s.openMask
  | .clear => mask

/-- R144. -/
def targetModify (source : Nat) (mask : BitVec 24) (mode : Nat) (s : State) : Answer :=
  orBadReference (inTable 16 source) fun n =>
  match maskModeOf mode with
  | none => .refuse .badValue
  | some m => sourceAnswer s n (s.targetMask mask m != mask) fun y =>
      { y with targets := m.targets (s.targetMask mask m) y.targets }

/-- TARGET_MODIFY (R144). -/
def execTargetModify (x : Transfer) (source : Nat) (mask : BitVec 24) (mode : Nat) (s : State) : Outcome :=
  request x 0x63 (targetModify source mask mode) s

/-! ### Lane commands -/

/-- A lane state as reported: its code, then the holder or the remaining blocks (R146, log 9). -/
def laneStateBytes : LaneState → List Byte
  | .idle => u8 0
  | .held n => u8 1 ++ u8 n.val
  | .gap g => u8 2 ++ u8 g

/-- R146: the keyed sources other than the holder that target the venue, in priority order. -/
def State.waiting (s : State) (v : Fin 24) : List (Fin 16) :=
  ((s.venue v).lane.order s.arbiter).filter fun n =>
    s.asks v n && (s.venue v).lane.state != .held n

/-- A lane with its waiting list, as LANE_QUERY lists them (R146). -/
def laneBytes (l : Lane) (waiting : List (Fin 16)) : List Byte :=
  flagByte l.enable ++ noneByte l.cleanSlot ++ u8 l.duck ++ laneStateBytes l.state ++
  noneByte l.lastHolder ++ u16 l.sequence.toNat ++ counted (fun (n : Fin 16) => u8 n.val) waiting

/-- The body of LANE_QUERY (R146): a FREE venue reports the reset values of R135 and no waiting list. -/
def laneReport (s : State) (v : Fin 24) : List Byte :=
  if (s.venue v).isOpen then laneBytes (s.venue v).lane (s.waiting v) else laneBytes Lane.reset []

/-- R145: a clean-feed slot given that is neither none nor 16 to 31. -/
def cleanBad : Option (Option Nat) → Bool
  | some (some n) => !(decide (16 ≤ n) && decide (n ≤ 31))
  | some none => false
  | none => false

/-- R145: the settings stored, and the lane's state and buffer when the enable turns. -/
def Lane.change (l : Lane) (a : LaneSetArgs) : Lane :=
  let on := codeOr flagOf l.enable a.enable
  { l with
    enable := on
    cleanSlot := match a.cleanSlot with | none => l.cleanSlot | some c => c.bind fun n => inTable 32 n
    duck := clampOr 0 15 l.duck a.duck
    state := if l.enable && !on then .idle else l.state
    half := if on = l.enable then l.half else silentBlock }

/-- R145: the state an accepted LANE_SET leaves: a lane turned on arbitrates at the event. -/
def State.setLane (s : State) (v : Fin 24) (a : LaneSetArgs) : State :=
  let t := s.modVenue v fun ve => ve.modLane fun l => l.change a
  if !(s.venue v).lane.enable && (t.venue v).lane.enable then t.arbitrateLane v else t

/-- R145. -/
def laneSet (venue : Nat) (a : LaneSetArgs) (s : State) : Answer :=
  orBadReference (s.openVenue venue) fun v =>
  refuseIf (cleanBad a.cleanSlot) .badValue <|
  refuseIf (!codeOk flagOf a.enable) .badValue <|
  .ok { clamped := a.duck.any fun d => decide (15 < d) } (laneReport (s.setLane v a) v) (s.setLane v a)

/-- LANE_SET (R145). -/
def execLaneSet (x : Transfer) (venue : Nat) (a : LaneSetArgs) (s : State) : Outcome :=
  request x 0x64 (laneSet venue a) s

/-- LANE_QUERY (R146). -/
def execLaneQuery (x : Transfer) (venue : Nat) (s : State) : Outcome :=
  request x 0x65 (fun s => orBadReference (inTable 24 venue) fun v => answer (laneReport s v) s) s

/-- ARBITER_MODE (R147). -/
def execArbiterMode (x : Transfer) (mode : Nat) (s : State) : Outcome :=
  request x 0x66 (fun s => match arbiterOf mode with
    | none => .refuse .badValue
    | some m => .ok {} (u8 (arbiterCode m)) { s with arbiter := m }) s

end Sys2Proof.Machine
end

