-- ==== Sys2Proof/Machine/Recovery.lean ====
section
/-! DEFINITION. Frame recovery: entering gaps (R100), settlement (R101), the request pass (R104 to R107), and
RECOVERY_QUERY (R112). -/

namespace Sys2Proof.Machine

namespace State

/-- R100: one handed pair is entered, or counted QUEUE_FULL with the arrival port. -/
def enterGap (s : State) (v : Fin 24) (c : Fin 128) (port : Fin 4) (n : FrameNo) : State :=
  match (s.venue v).timebase.phase with
  | none => s
  | some ph =>
    if (s.venue v).recovery.length < Config.recoveryDepth then
      s.modVenue v fun ve =>
        { ve with recovery := insertEntry ph.nr ⟨c, n, s.blockCount, 0, none⟩ ve.recovery }
    else s.report v ⟨.queueFull, some c, some n, some port⟩

/-- R100: the handed pairs in the order given. -/
def enterGaps (s : State) (v : Fin 24) (c : Fin 128) (port : Fin 4) (ns : List FrameNo) : State :=
  ns.foldl (fun t n => t.enterGap v c port n) s

end State

/-- The queue holds an entry for a circuit and frame. -/
def Venue.awaits (v : Venue) (c : Fin 128) (n : FrameNo) : Bool :=
  v.recovery.any fun e => e.circuit == c && e.frame == n

/-- R101: the entry is removed and counted REPAIRED or FILLED_BY_PATH. -/
def Venue.settle (v : Venue) (c : Fin 128) (n : FrameNo) (repair : Bool) : Venue :=
  if v.awaits c n then
    { v with
      recovery := v.recovery.filter fun e => !(e.circuit == c && e.frame == n)
      health := if repair then { v.health with repaired := satInc v.health.repaired }
                else { v.health with filledByPath := satInc v.health.filledByPath } }
  else v

/-- What a request pass makes of an entry. -/
inductive PassVerdict where
  | keep
  | request
  | tooLate
  deriving DecidableEq, Repr

/-- The reorder allowance of an entry with no request has elapsed (R105). -/
def RecoveryEntry.firstDue (e : RecoveryEntry) (allowance : Nat) (b : BlockCount) : Bool :=
  e.attempts == 0 && decide (allowance ≤ (b - e.createdAt).toNat)

/-- R106: an entry with one request is due for its second. -/
def RecoveryEntry.secondDue (e : RecoveryEntry) (st : Settings) (nr : FrameNo) : Bool :=
  e.attempts == 1 && st.attempts == 2 &&
  match e.nq with
  | none => false
  | some q => decide (((st.budget + 1) / 2 : Nat) ≤ dist nr q)

/-- R105, R106: the judgement of one entry. -/
def RecoveryEntry.judge (e : RecoveryEntry) (st : Settings) (nr : FrameNo) (b : BlockCount) : PassVerdict :=
  if e.firstDue st.allowance b then
    if (st.budget : Int) ≤ dist e.frame nr then .request else .tooLate
  else if e.secondDue st nr then .request else .keep

/-- R106: a request sets Nq, increments the attempts, and leaves the entry in its place. -/
def RecoveryEntry.requested (e : RecoveryEntry) (nr : FrameNo) : RecoveryEntry :=
  { e with attempts := e.attempts + 1, nq := some nr }

/-- R107: an entry of a recovery frame: tag, frame, attempt. -/
def requestBytes (s : State) (e : RecoveryEntry) : List Byte :=
  u8 ((s.circuit e.circuit).tag.getD 0) ++ frameBytes e.frame ++ u8 e.attempts

/-- R107: the recovery frame of up to 8 requests. -/
def recoveryFrame (s : State) (nr : FrameNo) (es : List RecoveryEntry) : VctOut where
  kind := 3
  flags := 0
  channels := 0
  frame := nr
  entries := es.length
  payload := es.flatMap (requestBytes s)

/-- R107: requests packed in queue order, 8 to a frame. -/
def packs {α : Type} : Nat → List α → List (List α)
  | 0, _ => []
  | _ + 1, [] => []
  | n + 1, l => l.take Config.requestsPerFrame :: packs n (l.drop Config.requestsPerFrame)

namespace State

/-- R104: the request pass of an ACTIVE venue whose attempts setting is above 0. -/
def requestPass (s : State) (v : Fin 24) : State :=
  let ve := s.venue v
  match ve.state, ve.timebase.phase with
  | .active, some ph =>
    if ve.settings.attempts = 0 then s
    else
      let verdict := fun (e : RecoveryEntry) => e.judge ve.settings ph.nr s.blockCount
      let late := ve.recovery.filter fun e => verdict e == .tooLate
      let asked := (ve.recovery.filter fun e => verdict e == .request).map fun e => e.requested ph.nr
      let queue := (ve.recovery.filter fun e => verdict e != .tooLate).map fun e =>
        if verdict e = .request then e.requested ph.nr else e
      let t := (s.reports v (late.map fun e => e.report .tooLate)).modVenue v
        fun x => { x with recovery := queue }
      (packs asked.length asked).foldl (fun t es => t.submit v (recoveryFrame s ph.nr es)) t
  | _, _ => s

end State

/-- An entry as RECOVERY_QUERY lists it (R112). -/
def recoveryEntryReport (s : State) (nr : FrameNo) (e : RecoveryEntry) : List Byte :=
  u8 e.circuit.val ++ u8 ((s.circuit e.circuit).tag.getD 0) ++ frameBytes e.frame ++
  u16 (dist e.frame nr).toNat ++ blockBytes e.createdAt ++ u8 e.attempts ++ maybe 4 frameBytes e.nq

/-- The body of RECOVERY_QUERY (R112). -/
def recoveryReport (s : State) (v : Fin 24) : List Byte :=
  let ve := s.venue v
  let nr := ve.timebase.phase.map fun ph => ph.nr
  u8 (venueStateCode ve.state) ++ maybe 4 frameBytes nr ++
  u8 ve.settings.budget ++ u8 ve.settings.allowance ++ u8 ve.settings.attempts ++
  counted (recoveryEntryReport s (nr.getD 0)) ve.recovery

/-- RECOVERY_QUERY (R112). -/
def execRecoveryQuery (x : Transfer) (venue : Nat) (s : State) : Outcome :=
  request x 0x48 (fun s => orBadReference (s.openVenue venue) fun v => answer (recoveryReport s v) s) s

end Sys2Proof.Machine
end

