-- ==== Sys2Proof/Machine/Playout.lean ====
section
/-! DEFINITION. Playout: the samples of a venue step (R113 to R118) and their staging for the output
buses (R119, R120). -/

namespace Sys2Proof.Machine

/-- Sample `k` of channel `ch`, as an integer. -/
def sampleOf (chans : List FrameSamples) (ch k : Nat) : Int :=
  match chans[ch]? with
  | none => 0
  | some xs => if h : k < 96 then (xs[k]).toInt else 0

/-- R116: what a missing frame contributes at an offset, by the circuit's kind and concealment depth. -/
def Circuit.concealment (x : Circuit) (n : FrameNo) (ch k : Nat) : Int :=
  match x.kind, x.lastPresent with
  | .crowd, some last =>
    let depth := min 24 (dist n last)
    if depth ≤ 23 then sampleOf x.conceal ch k >>> depth.toNat else 0
  | .crowd, none => 0
  | .commentary, _ => 0
  | .coord, _ => 0

/-- R114: a venue sample of frame `n`: from its cell when present, else concealed. -/
def Circuit.drawn (x : Circuit) (n : FrameNo) (ch k : Nat) : Int :=
  match x.held n with
  | some cell => sampleOf cell.chans ch k
  | none => x.concealment n ch k

/-- R114: the venue sample after sample `k` of frame `nr`. -/
def Circuit.drawnNext (x : Circuit) (nr : FrameNo) (ch k : Nat) : Int :=
  if k = 95 then x.drawn (nr + 1) ch 0 else x.drawn nr ch (k + 1)

/-- The top 16 bits of the fraction (R115). -/
def Phase.fineness (ph : Phase) : Int := ph.f.toNat / 65536

/-- R115: interpolation between two venue samples. -/
def interpolate (a b fine : Int) : Int := a + (((b - a) * fine + 32768) >>> 16)

/-- R117: a sample at a level. -/
def scaled (y : Int) (level : Nat) : Sample := saturate ((y * level + 2048) >>> 12)

/-- The level playout uses: R117, and R118 for a fade; none for a circuit that contributes 0 (R113). -/
def Circuit.playLevel (x : Circuit) : Option Nat :=
  match x.state with
  | .running | .concealing => some x.level
  | .closing => some (x.level * x.fade / x.fadeLength)
  | .free | .armed | .lost => none

/-- R113: one output sample of a circuit channel at a phase. -/
def Circuit.play (x : Circuit) (ph : Phase) (ch : Nat) : Sample :=
  match x.playLevel with
  | none => 0
  | some level =>
    scaled (interpolate (x.drawn ph.nr ch ph.k) (x.drawnNext ph.nr ch ph.k) ph.fineness) level

/-- The samples of one gallery sample: for each circuit, one sample per channel. -/
abbrev PlayRow := List (Fin 128 × List Sample)

/-- R84: playout computes one gallery sample of every circuit of a venue at the phase handed to it. -/
def State.playRow (s : State) (v : Fin 24) : PlayRow :=
  match (s.venue v).timebase.phase with
  | none => []
  | some ph => (s.venue v).circuits.map fun c =>
      (c, (List.range (s.circuit c).channels).map fun ch => (s.circuit c).play ph ch)

/-- The sample of a circuit channel in a row. -/
def PlayRow.sample (row : PlayRow) (c : Fin 128) (ch : Nat) : Sample :=
  match row.find? fun r => r.1 == c with
  | none => 0
  | some r => r.2[ch]?.getD 0

/-- The block of a circuit channel in the 48 rows of a venue step. -/
def blockOf (rows : List PlayRow) (c : Fin 128) (ch : Nat) : BlockSamples :=
  Vector.ofFn fun j : Fin 48 => PlayRow.sample (rows[j.val]?.getD []) c ch

/-- The staged block that belongs to block count `b`: the two alternate (R119, log 21). -/
def stageIndex (b : BlockCount) : Fin 2 := ⟨b.toNat % 2, Nat.mod_lt _ (by decide)⟩

/-- R119: an unmuted slot whose current source is a circuit of the venue takes its block, marked `b`. R128: not a source
that fell back from the end of a fade at this boundary, so that the last block staged is the ramp's. -/
def Slot.stage (sl : Slot) (cs : List (Fin 128)) (rows : List PlayRow) (b : BlockCount) : Slot :=
  match sl.source with
  | none => sl
  | some x =>
    if sl.muted || !cs.contains x.circuit || sl.fellBack == some x then sl
    else { sl with staged := sl.staged.set (stageIndex b).val
                    (some ⟨b, blockOf rows x.circuit x.channel⟩) (stageIndex b).isLt }

/-- R119 for every slot, at the venue step of a venue with circuit list `cs`. -/
def State.stageRows (s : State) (cs : List (Fin 128)) (rows : List PlayRow) : State :=
  { s with slots := s.slots.map fun (sl : Slot) => sl.stage cs rows s.blockCount }

/-- R120: what a slot emits during the block that begins at count `b`: its block marked b − 1, or 0. -/
def Slot.emission (sl : Slot) (b : BlockCount) : BlockSamples :=
  match sl.staged[stageIndex (b - 1)] with
  | none => silentBlock
  | some st => if st.block = b - 1 then st.samples else silentBlock

/-- R120: the output buses begin emitting at the boundary with the count just reached. R128: a source that fell back at the
boundary before waits no longer. -/
def State.turnover (s : State) : State :=
  { s with slots := s.slots.map fun (sl : Slot) => { sl with emitting := sl.emission s.blockCount, fellBack := none } }

/-- R131: the sample of each slot captured at one gallery sample: the latest TI frame completed since
the one before, or 0. -/
def captured (frames : List TiFrame) (slot : Fin 32) : Sample :=
  match frames.getLast? with
  | none => 0
  | some f => f[slot]

/-- R131: the return block of the block that ends. -/
def returnBlockOf (ti : Vector (List TiFrame) 48) : Vector BlockSamples 32 :=
  Vector.ofFn fun slot : Fin 32 => Vector.ofFn fun j : Fin 48 => captured ti[j] slot

end Sys2Proof.Machine
end

