-- ==== Sys2Proof/Machine/Timebase.lean ====
section
/-! DEFINITION. The venue timebase: the seat formula (R81), the venue step with its four stages (R82 to
R88, R94), frame entry (R24, R25), and the timebase commands (R92, R93, R97). -/

namespace Sys2Proof.Machine

/-- q = ceil(T/96) (R81). -/
def seatFrames (target : Nat) : Nat := (target + 95) / 96

/-- R81: the read phase of a seat at frame `n` with latency target `target`. -/
def seatPhase (n : FrameNo) (target : Nat) : Phase where
  nr := n + 1 - BitVec.ofNat 32 (seatFrames target)
  k := 96 * seatFrames target - target
  f := 0

/-- R81: the timebase at a seat or re-seat. -/
def Timebase.seat (t : Timebase) (n : FrameNo) (target : Nat) : Timebase :=
  { t with phase := some (seatPhase n target), rhoT := 0, rhoEff := t.rhoP, loop := .acquiring,
           sum := 0, count := 0, lockRun := 0, unlockRun := 0 }

/-- R83 items 1 to 3: k before the wrap, and the fraction, after one gallery sample at rate `rho`. -/
def Phase.total (ph : Phase) (rho : Int) : Int := ph.f.toNat + 4294967296 + rho

/-- R83: one step of the read-phase advance. -/
def Phase.step (ph : Phase) (rho : Int) : Phase :=
  let k := ph.k + (ph.total rho / 4294967296).toNat
  let f := BitVec.ofInt 32 (ph.total rho)
  if 96 ≤ k then ⟨ph.nr + 1, k - 96, f⟩ else ⟨ph.nr, k, f⟩

/-- R24, R25: a circuit's judgement at the entry into frame `n`. -/
def Circuit.enter (x : Circuit) (n : FrameNo) : Circuit :=
  match x.held n with
  | some cell =>
    let played : Circuit := { x with
      lastPresent := some n
      conceal := if x.kind = .crowd then cell.chans ++ x.conceal.drop cell.chans.length else x.conceal }
    match x.state with
    | .armed => { played with state := .running }
    | .concealing => { played with state := .running, hold := x.holdInit }
    | .running | .closing => played
    | .free | .lost => x
  | none =>
    match x.state with
    | .running => { x with state := .concealing, concealed := satInc x.concealed }
    | .concealing => { x with concealed := satInc x.concealed }
    | .free | .armed | .lost | .closing => x

namespace State

/-- R102: the entries for the frame entered leave the queue, each counted and reported UNRECOVERED in
queue order. -/
def expireEntries (s : State) (v : Fin 24) (n : FrameNo) : State :=
  let gone := (s.venue v).recovery.filter fun e => e.frame == n
  (s.reports v (gone.map fun e => e.report .unrecovered)).modVenue v
    fun ve => { ve with recovery := ve.recovery.filter fun e => e.frame != n }

/-- R85: a frame advance that leaves `left` and enters `entered`: consumption, judgement, expiry. -/
def frameAdvance (s : State) (v : Fin 24) (left entered : FrameNo) : State :=
  let cs := (s.venue v).circuits
  ((s.modCircuits cs fun x => x.consume left).modCircuits cs fun x => x.enter entered).expireEntries v entered

/-- R83: one step of a venue's read-phase advance, with the frame advance it makes. -/
def advanceStep (s : State) (v : Fin 24) : State :=
  match (s.venue v).timebase.phase with
  | none => s
  | some ph =>
    let ph' := ph.step (s.venue v).timebase.rhoEff
    let t := s.modVenue v fun ve => ve.modTimebase fun tb => { tb with phase := some ph' }
    if ph'.nr = ph.nr then t else t.frameAdvance v ph.nr ph'.nr

/-- R83, R84: `n` steps of the advance, and the row of samples computed before each. -/
def playSteps (v : Fin 24) : Nat → State → State × List PlayRow
  | 0, s => (s, [])
  | n + 1, s =>
    let rest := playSteps v n (s.advanceStep v)
    (rest.1, s.playRow v :: rest.2)

/-- R128: the slots of `t` whose current source in `s` was circuit `c`, whose fade has ended, stage the source they fell
back to from the next block boundary. -/
def waitNext (t s : State) (c : Fin 128) : State :=
  { t with slots :=
    Vector.zipWith (fun (before after : Slot) => if before.names c then after.waitNext else after) s.slots t.slots }

/-- R29, R118: a CLOSING circuit's block has been played: r decrements, and at 0 the circuit is freed
(R39), the last block staged for its slots being the ramp's (R128). -/
def fadeStep (s : State) (c : Fin 128) : State :=
  let x := s.circuit c
  if x.state = .closing then
    let t := s.setCircuit c { x with fade := x.fade - 1 }
    if x.fade ≤ 1 then (t.freeCircuit c).waitNext s c else t
  else s

/-- R82 stage 1: the advance with its playout and staging, then the fades of the circuits played. -/
def stageAdvance (s : State) (v : Fin 24) : State :=
  let cs := (s.venue v).circuits
  let played := playSteps v 48 s
  cs.foldl fadeStep (played.1.stageRows cs played.2)

end State

/-- R86: the margin of a read phase against the newest placed frame, clamped. -/
def marginOf (newest : FrameNo) (ph : Phase) : Int :=
  clampInt (-Config.marginLimit) Config.marginLimit (dist (newest + 1) ph.nr * 96 - ph.k)

/-- R82 stage 2, R86: the margin sample of an ACTIVE venue whose N_newest_v is set. -/
def Venue.takeMargin (v : Venue) : Venue :=
  match v.state, v.timebase.phase, v.newest with
  | .active, some ph, some n =>
    v.modTimebase fun t => { t with sum := t.sum + marginOf n ph, count := t.count + 1 }
  | _, _, _ => v

/-- Proportional gain of a loop state (R87). -/
def LoopState.kp : LoopState → Int
  | .acquiring => 32768
  | .locked => 8192

/-- Integral gain of a loop state (R87). -/
def LoopState.ki : LoopState → Int
  | .acquiring => 1024
  | .locked => 128

/-- R87 items 1 and 2: the error of an interval against the target. -/
def Timebase.error (t : Timebase) (target : Nat) : Int :=
  clampInt (-4095) 4095 (t.sum / 256 - target)

/-- R88: the runs and the loop state after an update with error `e`. -/
def Timebase.updateRuns (t : Timebase) (e : Int) : Timebase :=
  match t.loop with
  | .acquiring =>
    let run := if e.natAbs ≤ 48 then t.lockRun + 1 else 0
    if 16 ≤ run then { t with loop := .locked, lockRun := 0, unlockRun := 0 } else { t with lockRun := run }
  | .locked =>
    let run := if 480 < e.natAbs then t.unlockRun + 1 else 0
    if 4 ≤ run then { t with loop := .acquiring, lockRun := 0, unlockRun := 0 } else { t with unlockRun := run }

/-- R87: the interval update. -/
def Timebase.intervalUpdate (t : Timebase) (target : Nat) : Timebase :=
  let e := t.error target
  let rhoT := clampTrim (e * t.loop.kp)
  let rhoP := if t.frozen || t.active then t.rhoP else clampRate (t.rhoP + e * t.loop.ki)
  ({ t with rhoT := rhoT, rhoP := rhoP, rhoEff := clampRate (rhoP + rhoT), sum := 0, count := 0 }).updateRuns e

/-- R82 stage 3: the interval update, when the margin sample has brought n to 256. -/
def Venue.completeInterval (v : Venue) : Venue :=
  if v.state = .active && v.timebase.count = Config.intervalBlocks then
    v.modTimebase fun t => t.intervalUpdate v.settings.target
  else v

/-- R94: ρ_p moves toward ρ_cmd by at most σ. -/
def Timebase.walk (t : Timebase) : Timebase :=
  let gap := t.rhoCmd - t.rhoP
  let move : Int := min t.step gap.natAbs
  let rhoP := if 0 < gap then t.rhoP + move else t.rhoP - move
  let done := decide (rhoP = t.rhoCmd)
  { t with rhoP := rhoP, rhoEff := clampRate (rhoP + t.rhoT),
           countdown := if done then 0 else t.settle, active := !done }

/-- R82 stage 4, R94: the countdown of an active scheduler, and its step at 0. -/
def Timebase.countScheduler (t : Timebase) : Timebase :=
  if t.active then
    if t.countdown ≤ 1 then t.walk else { t with countdown := t.countdown - 1 }
  else t

/-- R82 stage 4 for a venue that is still seated. -/
def Venue.countScheduler (v : Venue) : Venue :=
  if v.seated then v.modTimebase Timebase.countScheduler else v

/-- R82: the venue step of a seated venue, its four stages in order. -/
def State.venueStep (s : State) (v : Fin 24) : State :=
  if (s.venue v).seated then
    (s.stageAdvance v).modVenue v fun ve => ve.takeMargin.completeInterval.countScheduler
  else s

/-! ### Commands -/

/-- The fields VENUE_RATE reports (R92). -/
def rateReport (t : Timebase) : List Byte :=
  s32 t.rhoP ++ s32 t.rhoT ++ s32 t.rhoEff ++ flagByte t.active ++ s32 t.rhoCmd ++ u16 t.step ++
  u8 t.settle ++ u8 t.countdown ++ flagByte t.frozen

/-- The rate-frozen setting of a request: keep, set, clear (R170). -/
def frozenOf : Nat → Option (Bool → Bool)
  | 0 => some id
  | 1 => some fun _ => true
  | 2 => some fun _ => false
  | _ => none

/-- R92: σ, z and the rate-frozen setting of an accepted request. -/
def Timebase.storeRateSettings (t : Timebase) (a : RateArgs) : Timebase :=
  { t with
    step := match a.step with | none => t.step | some n => clampNat 1 65535 n
    settle := match a.settle with | none => t.settle | some n => clampNat 1 127 n
    frozen := match a.frozen with
      | none => t.frozen
      | some n => match frozenOf n with | none => t.frozen | some f => f t.frozen }

/-- R92: ρ_p set at once, a walk cancelled. -/
def Timebase.setImmediate (t : Timebase) (rate : Int) : Timebase :=
  { t with rhoCmd := rate, rhoP := rate, rhoEff := clampRate (rate + t.rhoT), active := false,
           countdown := if t.active then 0 else t.countdown }

/-- R93: a walk started, replaced, or found already at its target. -/
def Timebase.setStepped (t : Timebase) (rate : Int) : Timebase :=
  if rate = t.rhoP then { t with rhoCmd := rate, active := false, countdown := 0 }
  else { t with rhoCmd := rate, active := true, countdown := t.settle }

/-- R92: some value given was clamped. -/
def rateClamped (a : RateArgs) : Bool :=
  (match a.rate with | none => false | some r => clampRate r != r) ||
  (match a.step with | none => false | some n => clampNat 1 65535 n != n) ||
  (match a.settle with | none => false | some n => clampNat 1 127 n != n)

/-- R92, R93: the timebase an accepted request leaves. -/
def Timebase.applyRate (t : Timebase) (stepped : Bool) (a : RateArgs) : Timebase :=
  let t := t.storeRateSettings a
  match a.rate with
  | none => t
  | some r => if stepped then t.setStepped (clampRate r) else t.setImmediate (clampRate r)

/-- R92 and R93: VENUE_RATE with a mode code. -/
def venueRate (venue : Nat) (mode : Option Nat) (a : RateArgs) (s : State) : Answer :=
  orBadReference (s.openVenue venue) fun v =>
  refuseIf ((a.rate.isSome && mode.isNone) || !codeOk flagOf mode) .badValue <|
  refuseIf (mode == some 1 && (s.venue v).state == .waiting) .badState <|
  refuseIf (!codeOk frozenOf a.frozen) .badValue <|
  let t := s.modVenue v fun ve => ve.modTimebase fun tb => tb.applyRate (mode == some 1) a
  .ok { clamped := rateClamped a } (rateReport (t.venue v).timebase) t

/-- VENUE_RATE without STEPPED (R92). -/
def execVenueRate (x : Transfer) (venue : Nat) (mode : Option Nat) (a : RateArgs) (s : State) : Outcome :=
  request x 0x41 (venueRate venue mode a) s

/-- VENUE_RATE with STEPPED (R92, R93). -/
def execVenueRateStepped (x : Transfer) (venue : Nat) (a : RateArgs) (s : State) : Outcome :=
  request x 0x41 (venueRate venue (some 1) a) s

/-- The read phase as TIMEBASE_CAPTURE reports it (R97). -/
def phaseBytes (ph : Phase) : List Byte := frameBytes ph.nr ++ u8 ph.k ++ be 4 ph.f.toNat

/-- The body of TIMEBASE_CAPTURE (R97). -/
def timebaseReport (ve : Venue) (b : BlockCount) : List Byte :=
  let t := ve.timebase
  u8 (venueStateCode ve.state) ++ maybe 9 phaseBytes t.phase ++
  s32 t.rhoP ++ s32 t.rhoT ++ s32 t.rhoEff ++
  u8 (loopCode t.loop) ++ u8 t.lockRun ++ u8 t.unlockRun ++ s32 t.sum ++ u8 t.count ++
  flagByte t.frozen ++
  flagByte t.active ++ s32 t.rhoCmd ++ u16 t.step ++ u8 t.settle ++ u8 t.countdown ++
  u16 ve.settings.target ++ blockBytes b

/-- TIMEBASE_CAPTURE (R97). -/
def execTimebaseCapture (x : Transfer) (venue : Nat) (s : State) : Outcome :=
  request x 0x42 (fun s => orBadReference (s.openVenue venue) fun v =>
    answer (timebaseReport (s.venue v) s.blockCount) s) s

end Sys2Proof.Machine
end

