-- ==== Sys2Proof/Machine/Windows.lean ====
section
/-! DEFINITION. Alignment windows: what an arriving AUDIO frame does at a WAITING venue (R3, R5) and at a
seated one (R62 to R71), and WINDOW_QUERY (R75). -/

namespace Sys2Proof.Machine

/-- An AUDIO frame as the link ports hand it on (R51). -/
structure Arrival where
  port : Fin 4
  tag : Nat
  channels : Nat
  frame : FrameNo
  repair : Bool
  restart : Bool
  chans : List FrameSamples
  deriving DecidableEq, Repr

/-- The report an arrival makes of its kind (R74). -/
def Arrival.report (a : Arrival) (k : ErrorKind) (c : Option (Fin 128)) : Report :=
  ⟨k, c, some a.frame, some a.port⟩

/-- R66: a newest-frame value after frame `n` is stored. -/
def newer (old : Option FrameNo) (n : FrameNo) : Option FrameNo :=
  match old with
  | none => some n
  | some m => if 0 < dist n m then some n else some m

/-- R68: the candidates of gap detection that a resend could still be played for: from the frame after
the old newest_c, or after Nr if that is later, up to the frame before `n`, ascending. -/
def gapCandidates (nr old n : FrameNo) : List FrameNo :=
  let start := if 0 ≤ dist old nr then old + 1 else nr + 1
  (List.range (dist n start).toNat).map fun i => start + BitVec.ofNat 32 i

/-- R67: the streaks after a store. -/
def Venue.clearStreaks (v : Venue) : Venue := { v with aheadStreak := 0, lateStreak := 0 }

/-- R67: the streaks after an AHEAD arrival. -/
def Venue.countAhead (v : Venue) : Venue := { v with aheadStreak := v.aheadStreak + 1, lateStreak := 0 }

/-- R67: the streaks after a LATE arrival. -/
def Venue.countLate (v : Venue) : Venue := { v with aheadStreak := 0, lateStreak := v.lateStreak + 1 }

/-- The class of a frame by its distance from the read frame (R63). -/
inductive FrameClass where
  | late | ahead | placeable
  deriving DecidableEq, Repr

/-- R63: classification by signed distance and window size. -/
def classify (n nr : FrameNo) (window : Nat) : FrameClass :=
  if dist n nr < 0 then .late else if (window : Int) ≤ dist n nr then .ahead else .placeable

namespace State

/-- R69: a REPAIR frame that removed no entry is counted REPAIR_UNMATCHED. -/
def unmatched (s : State) (v : Fin 24) (c : Fin 128) (a : Arrival) : State :=
  if a.repair then s.report v (a.report .repairUnmatched (some c)) else s

/-- R68: gap detection at a store over the circuit's previous newest frame. -/
def detectGaps (s : State) (v : Fin 24) (c : Fin 128) (a : Arrival) (old : Option FrameNo) : State :=
  match old, (s.venue v).timebase.phase with
  | some o, some ph =>
    if 2 ≤ dist a.frame o && decide (0 < (s.venue v).settings.attempts) then
      let gaps := gapCandidates ph.nr o a.frame
      let s := if Config.gapLimit < gaps.length then s.report v (a.report .gapOverflow (some c)) else s
      s.enterGaps v c a.port (gaps.take Config.gapLimit)
    else s
  | _, _ => s

/-- R69, R101: after a store, the entry is settled, or a REPAIR frame is unmatched. -/
def settleStore (s : State) (v : Fin 24) (c : Fin 128) (a : Arrival) : State :=
  if (s.venue v).awaits c a.frame then s.modVenue v fun ve => ve.settle c a.frame a.repair
  else s.unmatched v c a

/-- R65 to R69: a frame whose cell is EMPTY is stored, the newest frames and streaks follow, gaps are
handed to recovery, and an entry for it is settled. -/
def storeFrame (s : State) (v : Fin 24) (c : Fin 128) (a : Arrival) : State :=
  let old := (s.circuit c).newest
  let s := s.modCircuit c fun x => { x.store a.frame a.chans with newest := newer x.newest a.frame }
  let s := s.modVenue v fun ve => { ve.clearStreaks with newest := newer ve.newest a.frame }
  (s.detectGaps v c a old).settleStore v c a

/-- R65: a placeable frame is stored, or discarded as a duplicate of the frame its cell holds. -/
def place (s : State) (v : Fin 24) (c : Fin 128) (a : Arrival) : State :=
  if (s.circuit c).present a.frame then
    ((s.modCircuit c fun x => { x with duplicate := satInc x.duplicate }).report v
      (a.report .duplicate (some c))).unmatched v c a
  else s.storeFrame v c a

/-- R71 steps 1 to 4: the read phase is set from the frame and everything gathered is thrown away. -/
def seatVenue (s : State) (v : Fin 24) (n : FrameNo) : State :=
  let s := s.modVenue v fun ve =>
    { ve with timebase := ve.timebase.seat n ve.settings.target, newest := none,
              aheadStreak := 0, lateStreak := 0 }
  (s.modCircuits (s.venue v).circuits Circuit.clearWindow).flush v

/-- R71 for a re-seat: steps 1 to 4, N_lastpresent unset and RESEAT reported, and the frame stored. -/
def reseat (s : State) (v : Fin 24) (c : Fin 128) (a : Arrival) : State :=
  let s := s.seatVenue v a.frame
  let s := s.modCircuits (s.venue v).circuits fun x => { x with lastPresent := none }
  (s.report v (a.report .reseat (some c))).storeFrame v c a

/-- R64, R67, R70: a LATE or AHEAD frame: a RESTART frame re-seats at once; any other is counted, feeds
its streak, and re-seats at the threshold. -/
def misplaced (s : State) (v : Fin 24) (c : Fin 128) (a : Arrival) (isLate : Bool) : State :=
  if a.restart then s.reseat v c a
  else if isLate then
    let t := ((s.modCircuit c fun x => { x with late := satInc x.late }).report v
      (a.report .late (some c))).modVenue v Venue.countLate
    if Config.lateThreshold ≤ (t.venue v).lateStreak then t.reseat v c a else t.unmatched v c a
  else
    let t := (s.report v (a.report .ahead (some c))).modVenue v Venue.countAhead
    if Config.aheadThreshold ≤ (t.venue v).aheadStreak then t.reseat v c a else t.unmatched v c a

/-- R28, R30, R62: a frame that names a LOST circuit, in a seated or a WAITING venue. The chapter that owns a counter names the
events that increment it (section 5.5), and R28 is that chapter's; R5 says otherwise of a WAITING venue (log 10). -/
def maskFrame (s : State) (v : Fin 24) (c : Fin 128) (a : Arrival) : State :=
  (s.modCircuit c fun x => { x with masked := satInc x.masked }).report v (a.report .masked (some c))

/-- R62: an AUDIO frame of a seated venue finds its circuit, and is classified (R63). -/
def arrive (s : State) (v : Fin 24) (a : Arrival) : State :=
  match s.tagged v a.tag, (s.venue v).timebase.phase with
  | none, _ => s.report v (a.report .unknownCircuit none)
  | some _, none => s
  | some c, some ph =>
    if (s.circuit c).state = .lost then s.maskFrame v c a
    else if a.channels ≠ (s.circuit c).channels then s.report v (a.report .malformed (some c))
    else match classify a.frame ph.nr (s.circuit c).window with
      | .late => s.misplaced v c a true
      | .ahead => s.misplaced v c a false
      | .placeable => s.place v c a

/-- R82, R91: a venue seated after a block boundary takes its first venue step at the next, so a step of the boundary
before that was left over is not the venue's any more. -/
def missStep (s : State) (v : Fin 24) : State := { s with due := s.due.filter fun w => w != .venueStep v }

/-- R3, R71: the seat of a WAITING venue by a suitable frame. -/
def firstSeat (s : State) (v : Fin 24) (c : Fin 128) (a : Arrival) : State :=
  (((s.missStep v).seatVenue v a.frame).modVenue v fun ve => { ve with state := .active }).storeFrame v c a

/-- R3, R5: an AUDIO frame of a WAITING venue seats it or is discarded. -/
def arriveWaiting (s : State) (v : Fin 24) (a : Arrival) : State :=
  match s.tagged v a.tag with
  | none => s.report v (a.report .unknownCircuit none)
  | some c =>
    if (s.circuit c).state = .lost then s.maskFrame v c a
    else if a.channels ≠ (s.circuit c).channels then s.report v (a.report .malformed (some c))
    else match (s.circuit c).state with
      | .armed | .running | .concealing => s.firstSeat v c a
      | .free | .lost | .closing => s

end State

/-- The frames R75 lists as missing: of the 16 from Nr, those whose cells do not hold them. -/
def missingList (x : Circuit) (nr : FrameNo) : List FrameNo :=
  ((List.range 16).map fun i => nr + BitVec.ofNat 32 i).filter fun n => !x.present n

/-- The body of WINDOW_QUERY (R75). -/
def windowReport (s : State) (c : Fin 128) : List Byte :=
  let x := s.circuit c
  let nr : Option FrameNo := x.venue.bind fun v => (s.venue v).timebase.phase.map fun ph => ph.nr
  u8 c.val ++ noneByte x.venue ++ u8 (s.ordinal c) ++ u16 x.window ++ u8 x.channels ++
  u8 (circuitStateCode x.state) ++ u16 x.cells.length ++ maybe 4 frameBytes x.newest ++
  maybe 4 frameBytes x.lastPresent ++ maybe 4 frameBytes nr ++
  counted frameBytes (match nr with | none => [] | some n => missingList x n)

/-- WINDOW_QUERY (R75). -/
def execWindowQuery (x : Transfer) (ref : CircuitRef) (s : State) : Outcome :=
  request x 0x38 (fun s => orBadReference (s.resolve ref) fun c => answer (windowReport s c) s) s

end Sys2Proof.Machine
end

