-- ==== Sys2Proof/Machine/Links.lean ====
section
/-! DEFINITION. Contribution links: taking a received frame (R43 to R51), announced lists (R13), path timeouts
(R53), PORT_SET (R58) and PORT_QUERY (R59). -/

namespace Sys2Proof.Machine

/-! ### Reading a received frame -/

/-- The group bit of an Ethernet address: bit 0 of its first byte (IEEE 802, log 14). -/
def isGroup (a : BitVec 48) : Bool := a.getLsbD 40

/-- An address of six bytes. -/
def addressOf (bs : List Byte) : BitVec 48 := BitVec.ofNat 48 (ofBe (bs.take 6))

/-- A type field that opens an 802.1Q tag (R44). -/
def isTagType (n : Nat) : Bool := n == 0x8100 || n == 0x88A8

/-- R44: the tag control values that open a frame after its source address, in order, and the bytes
from the type field at which counting stops. -/
def scanTags : List Byte → List (BitVec 16) × List Byte
  | a :: b :: c :: d :: rest =>
    if isTagType (ofBe [a, b]) then
      (BitVec.ofNat 16 (ofBe [c, d]) :: (scanTags rest).1, (scanTags rest).2)
    else ([], a :: b :: c :: d :: rest)
  | bs => ([], bs)

/-- The tags a tag mode allows (R44). -/
def TagMode.limit : TagMode → Nat
  | .none => 0
  | .one => 1
  | .two => 2

/-- A VCT frame as the port reads it (R46, section 11.1.1). -/
structure VctIn where
  audio : Bool
  repair : Bool
  restart : Bool
  domain : Byte
  key : BitVec 16
  tag : Nat
  channels : Nat
  frame : FrameNo
  entries : Nat
  payload : List Byte
  address : BitVec 48
  tags : List (BitVec 16)
  deriving DecidableEq, Repr

/-- Where the port tests leave a frame (section 3.2). -/
inductive RxVerdict where
  | ignored
  | malformed
  | tagDiscard
  | notVct
  | wrongDomain
  | vct (f : VctIn)
  deriving DecidableEq, Repr

/-- R46: the payload length agrees with the bytes carried; a frame of 64 bytes may be padded (log 15). -/
def payloadAgrees (len carried frameBytes : Nat) : Bool :=
  len == carried || (frameBytes == 64 && decide (len ≤ carried))

/-- R46: the tests of the VCT header and payload. `len` is the payload length field. -/
def vctWellFormed (version kind channels len entries carried frameBytes : Nat) : Bool :=
  version == 1 && payloadAgrees len carried frameBytes &&
  ((kind == 1 && (channels == 1 || channels == 2) && len == 288 * channels) ||
   (kind == 2 && len == 3 * entries))

/-- Byte `i` of a header. -/
def headerByte (bs : List Byte) (i : Nat) : Byte := bs[i]?.getD 0

/-- R46, R47: a frame whose EtherType matched is read as a VCT frame; `bs` starts at its header. -/
def readVct (pt : Port) (bs : List Byte) (frameBytes : Nat) (address : BitVec 48)
    (tags : List (BitVec 16)) : RxVerdict :=
  let len := ofBe ((bs.drop 12).take 2)
  let entries := (headerByte bs 14).toNat
  let kind := (headerByte bs 1).toNat
  let channels := (headerByte bs 7).toNat
  let domain := headerByte bs 3
  if bs.length < 16 then .malformed
  else if !vctWellFormed (headerByte bs 0).toNat kind channels len entries (bs.length - 16) frameBytes then
    .malformed
  else if pt.domain.any fun d => d != domain then .wrongDomain
  else .vct
    { audio := kind == 1
      repair := (headerByte bs 2).getLsbD 0
      restart := (headerByte bs 2).getLsbD 1
      domain := domain
      key := BitVec.ofNat 16 (ofBe ((bs.drop 4).take 2))
      tag := (headerByte bs 6).toNat
      channels := channels
      frame := BitVec.ofNat 32 (ofBe ((bs.drop 8).take 4))
      entries := entries
      payload := (bs.drop 16).take len
      address := address
      tags := tags }

/-- R43 to R47: the port tests, in order. The frame's length counts its 4-byte check sequence. -/
def readFrame (pt : Port) (rx : RxFrame) : RxVerdict :=
  let size := rx.bytes.length + 4
  let dst := addressOf rx.bytes
  let src := addressOf (rx.bytes.drop 6)
  let scanned := scanTags (rx.bytes.drop 12)
  if !rx.fcsOk || decide (size < 64) || decide (1518 + 4 * pt.tagMode.limit < size) then .malformed
  else if dst != pt.address && !isGroup dst then .ignored
  else if isGroup src then .malformed
  else if pt.tagMode.limit < scanned.1.length then .tagDiscard
  else if ofBe (scanned.2.take 2) != pt.etherType.toNat then .notVct
  else readVct pt (scanned.2.drop 2) size src scanned.1

/-- The samples of an AUDIO payload: sample periods in order, in each channel 0 then channel 1
(section 11.1.2). -/
def samplesOf (channels : Nat) (payload : List Byte) : List FrameSamples :=
  (List.range channels).map fun ch => Vector.ofFn fun i : Fin 96 =>
    BitVec.ofNat 24 (ofBe ((payload.drop (3 * (i.val * channels + ch))).take 3))

/-- The entries of an ANNOUNCE payload: tag, kind byte, channel count (section 11.1.2). -/
def announceEntries : List Byte → List (Nat × Nat × Nat)
  | t :: k :: c :: rest => (t.toNat, k.toNat, c.toNat) :: announceEntries rest
  | _ => []

/-- R13: one entry against the list built so far: the list after it, and whether it counts MALFORMED. -/
def judgeEntry (l : List Announced) (e : Nat × Nat × Nat) : List Announced × Bool :=
  match kindOf e.2.1 with
  | none => (l, true)
  | some k =>
    if e.1 = 255 || !(e.2.2 == 1 || e.2.2 == 2) then (l, true)
    else if l.any fun x => x.tag == e.1 then (l, true)
    else if l.length < Config.circuitsPerVenue then (l ++ [⟨e.1, k, e.2.2⟩], false)
    else (l, false)

/-- R13: the new announced list, and how many entries count MALFORMED. -/
def buildAnnounced (es : List (Nat × Nat × Nat)) : List Announced × Nat :=
  es.foldl (fun acc e =>
    ((judgeEntry acc.1 e).1, if (judgeEntry acc.1 e).2 then acc.2 + 1 else acc.2)) ([], 0)

/-! ### Taking a frame -/

/-- R49: the path of a venue bound to a port. -/
def Venue.pathOn (v : Venue) (p : Fin 4) : Option PathId :=
  if v.pathA.port = some p then some .a
  else if v.pathB.port = some p && v.pathB.state != .absent then some .b else none

/-- R50: a path after a valid frame on it. -/
def Path.refresh (x : Path) (b : BlockCount) (f : VctIn) : Path :=
  { x with state := .up, lastArrival := some b, reply := some ⟨f.address, f.tags, f.domain⟩ }

/-- R7, R90: a HOLDOVER venue one of whose paths came UP is ACTIVE again. -/
def Venue.leaveHoldover (v : Venue) : Venue :=
  if v.state = .holdover then
    { v with state := .active, holdoverElapsed := 0, holdoverSince := none,
             timebase := v.timebase.leaveHoldover }
  else v

namespace State

/-- R48: the open venue that holds a key. -/
def venueOfKey (s : State) (key : BitVec 16) : Option (Fin 24) :=
  allVenues.find? fun v => (s.venue v).isOpen && (s.venue v).key == key

/-- R13: an announce frame replaces the announced list and sets the age to 0. -/
def announce (s : State) (v : Fin 24) (p : Fin 4) (f : VctIn) : State :=
  let built := buildAnnounced (announceEntries f.payload)
  (s.modVenue v fun ve => { ve with announced := built.1, announceAge := some 0 }).reports v
    (List.replicate built.2 ⟨.malformed, none, none, some p⟩)

/-- R51: a valid frame is handed on by its kind and the venue's state. -/
def handOn (s : State) (v : Fin 24) (p : Fin 4) (f : VctIn) : State :=
  if f.audio then
    let a : Arrival := ⟨p, f.tag, f.channels, f.frame, f.repair, f.restart, samplesOf f.channels f.payload⟩
    if (s.venue v).seated then s.arrive v a else s.arriveWaiting v a
  else s.announce v p f

/-- R49: the report of a frame on a port that is none of its venue's paths (log 18). -/
def wrongPath (s : State) (v : Fin 24) (p : Fin 4) (f : VctIn) : State :=
  s.report v
    { kind := .wrongPath
      circuit := if f.audio then s.tagged v f.tag else none
      frame := if f.audio then some f.frame else none
      port := some p }

/-- R48 to R51: a frame that passed the port tests. -/
def takeVct (s : State) (p : Fin 4) (f : VctIn) : State :=
  match s.venueOfKey f.key with
  | none => s.modPort p fun pt => { pt with unknownKey := satInc pt.unknownKey }
  | some v =>
    let s := s.modPort p fun pt => { pt with taken := satInc pt.taken }
    match (s.venue v).pathOn p with
    | none => s.wrongPath v p f
    | some path =>
      (s.modVenue v fun ve =>
        (ve.setPath path ((ve.path path).refresh s.blockCount f)).leaveHoldover).handOn v p f

/-- R43: a port that is enabled, with its link up, takes a frame whose reception it saw whole. R57 does not say what
becomes of a frame whose reception straddles a change of the link state: the model judges the link state at the end of
the reception alone (log 6). -/
def receive (s : State) (p : Fin 4) (rx : RxFrame) : State :=
  if s.resetLow || !(s.port p).enable || !(s.port p).linkUp || !rx.fresh then s
  else match readFrame (s.port p) rx with
    | .ignored => s
    | .malformed => s.modPort p fun pt => { pt with malformed := satInc pt.malformed }
    | .tagDiscard => s.modPort p fun pt => { pt with tagDiscards := satInc pt.tagDiscards }
    | .notVct => s.modPort p fun pt => { pt with notVct := satInc pt.notVct }
    | .wrongDomain => s.modPort p fun pt => { pt with wrongDomain := satInc pt.wrongDomain }
    | .vct f => s.takeVct p f

end State

/-- FRAME_RECEIVED (R43). -/
def execFrameReceived (p : Fin 4) (rx : RxFrame) (s : State) : Outcome := .next (s.receive p rx)

/-! ### Path timeouts -/

/-- R53: a path is silent for the path timeout of its venue. -/
def Path.silent (x : Path) (timeout : Nat) (b : BlockCount) : Bool :=
  x.state == .up &&
  match x.lastArrival with
  | none => false
  | some l => decide (timeout ≤ (b - l).toNat)

/-- R53: the timeout of a path will be found expired at the present block count. -/
def State.pathSilent (s : State) (v : Fin 24) (p : PathId) : Bool :=
  (s.venue v).isOpen && ((s.venue v).path p).silent (s.venue v).settings.pathTimeout s.blockCount

/-- R53: the path goes DOWN and is reported, and an ACTIVE venue left pathless enters HOLDOVER. -/
def State.dropPath (s : State) (v : Fin 24) (p : PathId) : State :=
  let x := (s.venue v).path p
  ((s.modVenue v fun ve => ve.setPath p { x with state := .down }).report v
    ⟨.pathDown, none, none, x.port⟩).holdoverIfPathless v

/-- R53: the judgement of one path at a block boundary. -/
def State.pathTimeout (s : State) (v : Fin 24) (p : PathId) : State :=
  if s.pathSilent v p then s.dropPath v p else s

/-! ### Commands -/

/-- The domain filter a request gives. -/
def domainOr (old : Option Byte) : Option DomainArg → Option Byte
  | some .off => none
  | some (.value d) => some (BitVec.ofNat 8 d)
  | some (.badFlag _) => old
  | none => old

/-- R58 item 2: the values PORT_SET cannot take. -/
def portValueBad (a : PortSetArgs) : Bool :=
  (a.etherType.any fun e => decide (e.toNat < 0x0600) || isTagType e.toNat) ||
  !codeOk tagModeOf a.tagMode ||
  (match a.domain with | some (.value d) => decide (255 < d) | _ => false) ||
  (a.address.any isGroup)

/-- R58: the settings an accepted PORT_SET stores; turning the enable off drops the queue (R56). -/
def Port.configure (pt : Port) (a : PortSetArgs) : Port :=
  let on := codeOr flagOf pt.enable a.enable
  let pt' := if pt.enable && !on then pt.dropQueue else pt
  { pt' with
    enable := on
    address := a.address.getD pt.address
    etherType := a.etherType.getD pt.etherType
    tagMode := codeOr tagModeOf pt.tagMode a.tagMode
    domain := domainOr pt.domain a.domain }

/-- A port's settings as reported (R58, R59). -/
def portSettings (pt : Port) : List Byte :=
  flagByte pt.enable ++ be 6 pt.address.toNat ++ u16 pt.etherType.toNat ++ u8 (tagModeCode pt.tagMode) ++
  maybe 2 (fun d => u16 d.toNat) pt.domain

/-- R58. -/
def portSet (port : Nat) (a : PortSetArgs) (s : State) : Answer :=
  orBadReference (inTable 4 port) fun p =>
  refuseIf (portValueBad a) .badValue <|
  refuseIf (codeOr flagOf (s.port p).enable a.enable && a.address.getD (s.port p).address == 0) .badValue <|
  refuseIf (!codeOk flagOf a.enable ||
    (match a.domain with | some (.badFlag _) => true | _ => false)) .badValue <|
  let t := s.modPort p fun pt => pt.configure a
  .ok {} (portSettings (t.port p)) t

/-- PORT_SET (R58). -/
def execPortSet (x : Transfer) (port : Nat) (a : PortSetArgs) (s : State) : Outcome :=
  request x 0x30 (portSet port a) s

/-- The open venues with a path on a port, in ascending venue index (R59). -/
def State.boundPaths (s : State) (p : Fin 4) : List (Fin 24 × PathId) :=
  allVenues.filterMap fun v =>
    if (s.venue v).isOpen then ((s.venue v).pathOn p).map fun q => (v, q) else none

/-- The body of PORT_QUERY (R59). -/
def portReport (s : State) (p : Fin 4) : List Byte :=
  let pt := s.port p
  portSettings pt ++ flagByte pt.linkUp ++
  u16 pt.taken ++ u16 pt.notVct ++ u16 pt.tagDiscards ++ u16 pt.wrongDomain ++ u16 pt.unknownKey ++
  u16 pt.malformed ++ u16 pt.sent ++ u16 pt.dropped ++
  u8 pt.queue.length ++
  counted (fun b => u8 b.1.val ++ u8 (pathCode b.2) ++ u8 (pathStateCode ((s.venue b.1).path b.2).state))
    (s.boundPaths p)

/-- The eight counters at 0 (R42, R59). -/
def Port.clearCounters (pt : Port) : Port :=
  { pt with taken := 0, notVct := 0, tagDiscards := 0, wrongDomain := 0, unknownKey := 0,
            malformed := 0, sent := 0, dropped := 0 }

/-- R59. -/
def portQuery (port clear : Nat) (s : State) : Answer :=
  orBadReference (inTable 4 port) fun p =>
  match flagOf clear with
  | none => .refuse .badValue
  | some c => .ok {} (portReport s p) (if c then s.modPort p Port.clearCounters else s)

/-- PORT_QUERY (R59). -/
def execPortQuery (x : Transfer) (port clear : Nat) (s : State) : Outcome :=
  request x 0x31 (portQuery port clear) s

end Sys2Proof.Machine
end

