-- ==== Sys2Proof/Machine/Boundary.lean ====
section
/-! DEFINITION. The block boundary (R76): its works, the order in which they are taken, and the events that fall
within them. The spec lets separate works of a boundary be taken in any order among themselves and
among other events before the next boundary; the command carries the order, and works left for later
stand in `due` (log 1, log 2, log 3). -/

namespace Sys2Proof.Machine

/-- The two paths of every venue. -/
def allPaths : List (Fin 24 × PathId) := allVenues.flatMap fun v => [(v, .a), (v, .b)]

/-- The works of the boundary with this block count, in the model's own order (log 1). -/
def worksOf (count : BlockCount) : List Work :=
  allPaths.map (fun q => .pathTimeout q.1 q.2) ++
  allVenues.map .holdoverCount ++ allVenues.map .announceAge ++ allVenues.map .venueStep ++
  allCircuits.map .holdoverCountdown ++ allVenues.map .requestPass ++ [.foldbackStep] ++
  (if count.toNat % Config.degradeWindow = 0 then [.windowRestart] else [])

namespace State

/-- One work taken whole. -/
def takeWork (s : State) : Work → State
  | .pathTimeout v p => s.pathTimeout v p
  | .holdoverCount v => s.holdoverCount v
  | .announceAge v => s.announceAge v
  | .venueStep v => s.venueStep v
  | .holdoverCountdown c => s.holdoverCountdown c
  | .requestPass v => s.requestPass v
  | .foldbackStep => s.foldbackStep
  | .windowRestart => s.windowRestart

/-- Works taken one after another. -/
def takeWorks (s : State) (ws : List Work) : State := ws.foldl takeWork s

/-- The works a boundary before this one left over, taken in their order before this one begins. -/
def finishDue (s : State) : State := ({ s with due := [] }).takeWorks s.due

/-- The block itself begins: the count (R76), the buses (R120), the return block (R131), the key lines. -/
def beginBlock (s : State) (a : BoundaryArgs) : State :=
  ({ s with reference := { s.reference with blockCount := s.blockCount + 1 },
            returnBlock := returnBlockOf a.ti, keyLow := a.keyLow }).turnover

end State

/-- The works of a boundary that its command asks to be taken before all others. -/
def firstWorks (count : BlockCount) (a : BoundaryArgs) : List Work :=
  a.first.dedup.filter fun w => (worksOf count).contains w

/-- The works a boundary takes at its own event, in order. -/
def worksNow (count : BlockCount) (a : BoundaryArgs) : List Work :=
  firstWorks count a ++ (worksOf count).filter fun w => !(firstWorks count a).contains w && !a.later.contains w

/-- The works a boundary leaves for after its event. -/
def worksLater (count : BlockCount) (a : BoundaryArgs) : List Work :=
  (worksOf count).filter fun w => !(firstWorks count a).contains w && a.later.contains w

/-- R76: the block boundary. -/
def State.boundary (s : State) (a : BoundaryArgs) : State :=
  let t := s.finishDue.beginBlock a
  ({ t with due := worksLater t.blockCount a }).takeWorks (worksNow t.blockCount a)

/-- BLOCK_BOUNDARY (R76). There is none while RESET_N is low. -/
def execBlockBoundary (a : BoundaryArgs) (s : State) : Outcome :=
  .next (if s.resetLow then s else s.boundary a)

/-- The oldest work left over, if any, is taken: what `step` does on an empty queue (log 2). -/
def State.idle (s : State) : State :=
  match s.due with
  | [] => s
  | w :: ws => ({ s with due := ws }).takeWork w

/-! ### Events within a work -/

/-- A work left over is taken, when the event named falls within it; else nothing happens (log 3). -/
def State.takeDue (s : State) (w : Work) (happens : Bool) : State :=
  if s.due.contains w && happens then ({ s with due := s.due.erase w }).takeWork w else s

/-- The margin sample of this venue step brings n to 256 (R82). -/
def State.intervalDue (s : State) (v : Fin 24) : Bool :=
  let ve := ((s.stageAdvance v).venue v).takeMargin
  (s.venue v).seated && ve.state == .active && ve.timebase.count == Config.intervalBlocks

/-- INTERVAL_UPDATE (R87): the venue step that makes it. -/
def execIntervalUpdate (v : Fin 24) (s : State) : Outcome :=
  .next (s.takeDue (.venueStep v) (s.intervalDue v))

/-- The scheduler countdown of this venue step reaches 0 (R94). -/
def State.schedulerDue (s : State) (v : Fin 24) : Bool :=
  let ve := ((s.stageAdvance v).venue v).takeMargin.completeInterval
  (s.venue v).seated && ve.seated && ve.timebase.active && decide (ve.timebase.countdown ≤ 1)

/-- SCHEDULER_STEP (R94): the venue step that makes it. -/
def execSchedulerStep (v : Fin 24) (s : State) : Outcome :=
  .next (s.takeDue (.venueStep v) (s.schedulerDue v))

/-- The circuit's fade ends in the venue step of its venue (R29). -/
def State.fadeDue (s : State) (c : Fin 128) (v : Fin 24) : Bool :=
  (s.venue v).seated && (s.venue v).circuits.contains c && (s.circuit c).state == .closing &&
  decide ((s.circuit c).fade ≤ 1)

/-- FADE_END (R29): the venue step that makes it. -/
def execFadeEnd (c : Fin 128) (s : State) : Outcome :=
  .next (match (s.circuit c).venue with
    | none => s
    | some v => s.takeDue (.venueStep v) (s.fadeDue c v))

/-- TERMINAL_COUNT (R27): the countdown that makes it. -/
def execTerminalCount (c : Fin 128) (s : State) : Outcome :=
  .next (s.takeDue (.holdoverCountdown c) (s.terminates c))

/-- VENUE_LOSS_EXPIRY (R8). -/
def execVenueLossExpiry (v : Fin 24) (s : State) : Outcome :=
  .next (s.takeDue (.holdoverCount v) (s.lossExpires v))

/-- ANNOUNCE_EXPIRY (R14). -/
def execAnnounceExpiry (v : Fin 24) (s : State) : Outcome :=
  .next (s.takeDue (.announceAge v) (s.announceExpires v))

/-- PATH_TIMEOUT (R53). -/
def execPathTimeout (v : Fin 24) (p : PathId) (s : State) : Outcome :=
  .next (s.takeDue (.pathTimeout v p) (s.pathSilent v p))

/-- The request pass judges a first request of this entry (R105). -/
def State.allowanceDue (s : State) (v : Fin 24) (c : Fin 128) (n : FrameNo) : Bool :=
  let ve := s.venue v
  ve.state == .active && ve.timebase.phase.isSome && decide (0 < ve.settings.attempts) &&
  ve.recovery.any fun e => e.circuit == c && e.frame == n && e.firstDue ve.settings.allowance s.blockCount

/-- REORDER_ALLOWANCE_EXPIRY (R105): the request pass that judges the entry. -/
def execReorderAllowanceExpiry (v : Fin 24) (c : Fin 128) (n : FrameNo) (s : State) : Outcome :=
  .next (s.takeDue (.requestPass v) (s.allowanceDue v c n))

/-- The source's software key runs out at this foldback step (R134). -/
def State.keyRunsOut (s : State) (n : Fin 16) : Bool := (s.source n).softKey && (s.source n).remaining == 1

/-- SOFTWARE_KEY_EXPIRY (R134): the foldback step that makes it. -/
def execSoftwareKeyExpiry (n : Fin 16) (s : State) : Outcome :=
  .next (s.takeDue .foldbackStep (s.keyRunsOut n))

/-- The lane's gap ends at this foldback step (R138). -/
def State.gapEnds (s : State) (v : Fin 24) : Bool :=
  match (s.venue v).lane.state with
  | .gap g => decide (g ≤ 1)
  | .idle | .held _ => false

/-- GAP_END (R138): the foldback step that makes it. -/
def execGapEnd (v : Fin 24) (s : State) : Outcome := .next (s.takeDue .foldbackStep (s.gapEnds v))

/-- DEGRADE_WINDOW_RESTART (R153). -/
def execDegradeWindowRestart (s : State) : Outcome := .next (s.takeDue .windowRestart true)

end Sys2Proof.Machine
end

