-- ==== Sys2Proof/Machine/Pins.lean ====
section
/-! DEFINITION. The part's output pins (R120, R156, R160, R171, section 11.3), as functions of the state: no rule lets a pin
lag behind the records that drive it (log 20, log 27). -/

namespace Sys2Proof.Machine

/-- How an output is driven between two events. -/
inductive Drive where
  /-- Driven low. -/
  | low
  /-- Not driven: in its high-impedance state. -/
  | highImpedance
  /-- Open drain, released. -/
  | released
  /-- Open drain, sinking. -/
  | asserted
  /-- Running from the gallery clock. -/
  | galleryClock
  /-- Carrying the samples of the block in progress. -/
  | samples
  /-- Carrying the bytes of the transaction in progress. -/
  | transaction
  /-- As the interface's own protocol drives it within an event. -/
  | byProtocol
  deriving DecidableEq, Repr

/-- The outputs of section 11.3. -/
structure Pins where
  atn : Drive
  toData : Drive
  toBclk : Drive
  toFs : Drive
  mdc : Drive
  spiMiso : Drive
  /-- The link ports that have a frame to send. -/
  sending : Vector Bool 4
  deriving DecidableEq, Repr

namespace State

/-- R171: the outputs while RESET_N is low. -/
def pinsInReset : Pins where
  atn := .released
  toData := .low
  toBclk := .low
  toFs := .low
  mdc := .low
  spiMiso := .highImpedance
  sending := Vector.replicate 4 false

/-- R156, R160, R171: the outputs while RESET_N is high. SPI_MISO is driven only while SPI_CS_N is low (`selected`), with
the bytes that `misoByte` gives, and MDC only to manage the transceivers (R57). -/
def pinsRunning (s : State) (selected : Bool) : Pins where
  atn := if s.attention then .asserted else .released
  toData := .samples
  toBclk := .galleryClock
  toFs := .galleryClock
  mdc := .byProtocol
  spiMiso := if selected then .transaction else .highImpedance
  sending := Vector.ofFn fun p : Fin 4 => !(s.port p).queue.isEmpty

/-- The outputs of the part (R171), with the level of its input SPI_CS_N: `selected` while it is low. -/
def pins (s : State) (selected : Bool) : Pins := if s.resetLow then pinsInReset else s.pinsRunning selected

/-- The bytes a RESPONSE transaction clocks out before its zeros (R162). -/
def responseBytes (s : State) : List Byte :=
  match s.control.held with
  | none => Response.absent.bytes
  | some r => r.bytes

/-- The bytes that the part drives after the kind byte of a transaction, before its zeros: the response (R162), the status
byte (R163), or none (R160). -/
def transactionBytes (s : State) (kind : Byte) : List Byte :=
  if kind = 2 then s.responseBytes else if kind = 3 then [s.statusByte] else []

/-- R160: the byte that SPI_MISO carries in byte `j` of a transaction of a kind: zeros during the kind byte. -/
def misoByte (s : State) (kind : Byte) : Nat → Byte
  | 0 => 0
  | j + 1 => (s.transactionBytes kind)[j]?.getD 0

/-- The bytes that SPI_MISO carries over the kind byte and `n` bytes after it. -/
def misoBytes (s : State) (kind : Byte) (n : Nat) : List Byte := (List.range (n + 1)).map (s.misoByte kind)

/-- The slot of a bus position: slot s of bus n has index 32n + s (R120). -/
def busSlot (bus : Fin 4) (position : Fin 32) : Fin 128 := ⟨32 * bus.val + position.val, by omega⟩

/-- R120, R171: the sample that a bus carries in one of its positions at gallery sample `j` of the block in progress: that of
the slot's emitting block, and 0 while RESET_N is low. -/
def busSample (s : State) (bus : Fin 4) (position : Fin 32) (j : Fin 48) : Sample :=
  if s.resetLow then 0 else (s.slot (busSlot bus position)).emitting[j]

end State

end Sys2Proof.Machine
end

