-- ==== Sys2Proof/Machine/Control.lean ====
section
/-! DEFINITION. The control port's own transactions (R160, R162, R163), the device commands (R166, R167), and
hardware reset with its release (R165). -/

namespace Sys2Proof.Machine

/-- The body of IDENTIFY (R166). -/
def identity : List Byte :=
  u8 Config.familyCode ++ u16 Config.partCode ++ u8 (Config.revisionLessOne.val + 1) ++
  u8 4 ++ u8 24 ++ u8 128 ++ u8 Config.circuitsPerVenue ++ u16 Config.poolUnits ++ u8 128 ++
  u8 Config.stackDepth ++ u8 16 ++ u8 24 ++ u8 Config.recoveryDepth ++ u16 256

/-- IDENTIFY (R166). -/
def execIdentify (x : Transfer) (s : State) : Outcome := request x 0x01 (answer identity) s

/-- R42: a port at DEVICE_CLEAR: settings and link state kept, counters 0, queue emptied uncounted. -/
def Port.deviceClear (pt : Port) : Port := { pt.clearCounters with queue := [] }

/-- R167: every block at its DEVICE_CLEAR values, the control port holding nothing. The gallery
reference, the port settings, the return block and what lies outside the part are kept. -/
def State.deviceClear (s : State) : State :=
  { State.reset with
    resetLow := s.resetLow
    reference := s.reference
    ports := s.ports.map Port.deviceClear
    returnBlock := s.returnBlock
    keyLow := s.keyLow
    due := s.due
    freeCount := s.freeCount
    pending := s.pending }

/-- DEVICE_CLEAR (R167). -/
def execDeviceClear (x : Transfer) (s : State) : Outcome :=
  request x 0x02 (fun s => .ok {} (blockBytes s.blockCount) s.deviceClear) s

/-- HARDWARE_RESET (R165): RESET_N falls; every block at its hardware-reset values. What lies outside the
part stays: the pin levels, the waiting commands. -/
def State.hardwareReset (s : State) : State :=
  { State.reset with
    resetLow := true
    keyLow := s.keyLow
    freeCount := s.freeCount
    pending := s.pending }

/-- HARDWARE_RESET (R165). -/
def execHardwareReset (s : State) : Outcome := .next s.hardwareReset

/-- RESET_RELEASE (R165): RESET_N rises. -/
def execResetRelease (s : State) : Outcome := .next { s with resetLow := false }

/-- A transaction of the control port is taken: not while RESET_N is low, nor when RESET_N was low at some moment since
its chip select fell (R165). -/
def State.takes (s : State) (cutByReset : Bool) : Bool := !(s.resetLow || cutByReset)

/-- R162: the held response is consumed when every byte of it has been clocked out. -/
def State.clockResponse (s : State) (n : Nat) : State :=
  { s with control :=
    { s.control with held := if s.responseBytes.length ≤ n then none else s.control.held,
                     spiOut := s.misoBytes 2 n } }

/-- RESPONSE transaction (R162): `n` whole bytes clocked after the kind byte. -/
def execResponseTransaction (cutByReset : Bool) (n : Nat) (s : State) : Outcome :=
  .next (if s.takes cutByReset then s.clockResponse n else s)

/-- R163: the status byte is clocked out, and read in full clears the two latches. -/
def State.clockStatus (s : State) (bits : Nat) : State :=
  { s with control :=
    { s.control with responseLost := s.control.responseLost && decide (bits < 8),
                     malformed := s.control.malformed && decide (bits < 8),
                     spiOut := s.misoBytes 3 (bits / 8) } }

/-- STATUS transaction (R163): `bits` bits clocked after the kind byte. -/
def execStatusTransaction (cutByReset : Bool) (bits : Nat) (s : State) : Outcome :=
  .next (if s.takes cutByReset then s.clockStatus bits else s)

/-- R160: a malformed transaction latches its flag and does nothing else. The part drives zeros in its `n` whole bytes. -/
def State.latchMalformed (s : State) (n : Nat) : State :=
  { s with control := { s.control with malformed := true, spiOut := List.replicate n 0 } }

end Sys2Proof.Machine
end

