-- ==== Sys2Proof/Machine/Reference.lean ====
section
/-! DEFINITION. The gallery reference: WCK edges (R77, R78), its loss and its return, and REFERENCE_QUERY (R79).
Intervals are in picoseconds (log 16). -/

namespace Sys2Proof.Machine

/-- R78: an interval lies within ±1% of the nominal period of 1/48,000 s. -/
def edgeInRange (ps : Nat) : Bool := decide (990000000000 ≤ 48000 * ps) && decide (48000 * ps ≤ 1010000000000)

/-- An edge's interval from the previous edge is in range; the first edge of all has none. -/
def intervalInRange : Option Nat → Bool
  | none => false
  | some ps => edgeInRange ps

/-- R77: four nominal periods or more without an edge. -/
def edgeSilent : Option Nat → Bool
  | none => false
  | some ps => decide (4000000000000 ≤ 48000 * ps)

/-- R78: the reference becomes WCK. -/
def Reference.qualify (r : Reference) : Reference :=
  { r with state := .wck, qualification := 0, strayEdges := 0 }

/-- R78: an edge judged while the reference is FREE-RUN. -/
def Reference.judgeEdge (r : Reference) (interval : Option Nat) : Reference :=
  if intervalInRange interval then
    if Config.qualifyEdges ≤ r.qualification + 1 then r.qualify
    else { r with qualification := r.qualification + 1 }
  else { r with qualification := 0 }

/-- R77: the entry into FREE-RUN from WCK, with the loss reported to health (R155). -/
def State.loseReference (s : State) : State :=
  { s with reference := { s.reference with state := .freeRun, qualification := 0, strayEdges := 0 },
           refLoss := true }

/-- R77: an edge while the reference is WCK. -/
def State.followEdge (s : State) (interval : Option Nat) : State :=
  if intervalInRange interval then { s with reference := { s.reference with strayEdges := 0 } }
  else if edgeSilent interval || decide (Config.strayLimit ≤ s.reference.strayEdges + 1) then s.loseReference
  else { s with reference := { s.reference with strayEdges := s.reference.strayEdges + 1 } }

/-- A WCK edge in either reference state. -/
def State.edge (s : State) (interval : Option Nat) : State :=
  match s.reference.state with
  | .freeRun => { s with reference := s.reference.judgeEdge interval }
  | .wck => s.followEdge interval

/-- WCK_EDGE (R77, R78). Nothing is judged while RESET_N is low. -/
def execWckEdge (interval : Option Nat) (s : State) : Outcome :=
  .next (if s.resetLow then s else s.edge interval)

/-- The edge that would make the count 48 may come (R78). -/
def State.qualifies (s : State) : Bool :=
  !s.resetLow && s.reference.state == .freeRun && decide (Config.qualifyEdges ≤ s.reference.qualification + 1)

/-- REFERENCE_QUALIFIED (R78): the edge that would make the count 48. -/
def execReferenceQualified (s : State) : Outcome :=
  .next (if s.qualifies then { s with reference := s.reference.qualify } else s)

/-- What a loss needs to have come before it (R77): for the fourth stray edge, three stray edges. -/
def LossCause.possible (c : LossCause) (strayEdges : Nat) : Bool :=
  match c with
  | .strayEdge => decide (Config.strayLimit ≤ strayEdges + 1)
  | .silence => true

/-- The reference can be lost by this cause at this event. -/
def State.loses (s : State) (c : LossCause) : Bool :=
  !s.resetLow && s.reference.state == .wck && LossCause.possible c s.reference.strayEdges

/-- REFERENCE_LOSS (R77). -/
def execReferenceLoss (c : LossCause) (s : State) : Outcome :=
  .next (if s.loses c then s.loseReference else s)

/-- The body of REFERENCE_QUERY (R79). -/
def referenceReport (s : State) : List Byte :=
  u8 (refStateCode s.reference.state) ++
  u8 (match s.reference.state with | .wck => 0 | .freeRun => s.reference.qualification) ++
  blockBytes s.blockCount ++ flagByte s.refLoss

/-- REFERENCE_QUERY (R79). -/
def execReferenceQuery (x : Transfer) (s : State) : Outcome :=
  request x 0x40 (fun s => answer (referenceReport s) s) s

end Sys2Proof.Machine
end

