-- ==== Sys2Proof/Machine/Requests.lean ====
section
/-! DEFINITION. Request messages as bytes: a message is judged by R161 steps 1 to 3, and one that fits its
command runs as that command (log 24). -/

namespace Sys2Proof.Machine

/-- A request read from its message runs as the command it spells. -/
def runRequest (i : Instr) (s : State) : Outcome :=
  match i with
  | .identify x => execIdentify x s
  | .deviceClear x => execDeviceClear x s
  | .venueOpen x a => execVenueOpen x a s
  | .venueSet x venue a => execVenueSet x venue a s
  | .venueRetire x venue option => execVenueRetire x venue option s
  | .venueRetireForce x venue => execVenueRetireForce x venue s
  | .venueQuery x venue => execVenueQuery x venue s
  | .circuitOpen x a => execCircuitOpen x a s
  | .circuitSet x a ref => execCircuitSet x a ref s
  | .circuitTrim x delta ref => execCircuitTrim x delta ref s
  | .circuitRearm x ref => execCircuitRearm x ref s
  | .circuitRetire x ref option => execCircuitRetire x ref option s
  | .circuitFind x ref => execCircuitFind x ref s
  | .circuitQuery x ref clear => execCircuitQuery x ref clear s
  | .portSet x port a => execPortSet x port a s
  | .portQuery x port clear => execPortQuery x port clear s
  | .windowQuery x ref => execWindowQuery x ref s
  | .referenceQuery x => execReferenceQuery x s
  | .venueRate x venue mode a => execVenueRate x venue mode a s
  | .venueRateStepped x venue a => execVenueRateStepped x venue a s
  | .timebaseCapture x venue => execTimebaseCapture x venue s
  | .recoveryQuery x venue => execRecoveryQuery x venue s
  | .slotAssign x slot source => execSlotAssign x slot source s
  | .slotPunch x slot source => execSlotPunch x slot source s
  | .slotRelease x slot => execSlotRelease x slot s
  | .slotQuery x slot => execSlotQuery x slot s
  | .muteModify x bus mask mode => execMuteModify x bus mask mode s
  | .sourceSet x source lineEnable => execSourceSet x source lineEnable s
  | .sourceKey x source duration => execSourceKey x source duration s
  | .sourceUnkey x source => execSourceUnkey x source s
  | .targetModify x source mask mode => execTargetModify x source mask mode s
  | .laneSet x venue a => execLaneSet x venue a s
  | .laneQuery x venue => execLaneQuery x venue s
  | .arbiterMode x mode => execArbiterMode x mode s
  | .alarmEnable x a => execAlarmEnable x a s
  | .attentionRead x clear => execAttentionRead x clear s
  | .healthRead x venue clear => execHealthRead x venue clear s
  | .unknownCommandRequest _ _ _ _ => .next s
  | .responseTransaction _ _ => .next s
  | .statusTransaction _ _ => .next s
  | .malformedTransaction _ _ => .next s
  | .hardwareReset => .next s
  | .frameReceived _ _ => .next s
  | .transmitComplete _ => .next s
  | .linkStateChange _ _ => .next s
  | .wckEdge _ => .next s
  | .referenceQualified => .next s
  | .referenceLoss _ => .next s
  | .blockBoundary _ => .next s
  | .intervalUpdate _ => .next s
  | .schedulerStep _ => .next s
  | .fadeEnd _ => .next s
  | .terminalCount _ => .next s
  | .venueLossExpiry _ => .next s
  | .announceExpiry _ => .next s
  | .pathTimeout _ _ => .next s
  | .reorderAllowanceExpiry _ _ _ => .next s
  | .softwareKeyExpiry _ => .next s
  | .gapEnd _ => .next s
  | .degradeWindowRestart => .next s
  | .resetRelease => .next s

/-- A request message taken as bytes (R161). -/
def rawRequest (x : Transfer) (code : Byte) (bodyLength : BitVec 16) (body : List Byte) (s : State) : Outcome :=
  match readRequest x code bodyLength body with
  | .badLength => request x code (fun _ => .refuse .badLength) s
  | .badCommand => request x code (fun _ => .refuse .badCommand) s
  | .fits i => runRequest i s

/-- A request message that the table's other rows do not name (R161): refused at steps 1 to 3, or, where
its bytes spell a command after all, run as it (log 24). -/
def execUnknownCommandRequest (x : Transfer) (code : Byte) (bodyLength : BitVec 16) (body : List Byte)
    (s : State) : Outcome := rawRequest x code bodyLength body s

/-- The bytes of a transaction, judged by R160. Bytes that spell a transaction of one of the three kinds
are taken as it (log 24). -/
def execMalformedTransaction (cutByReset : Bool) (bytes : List Byte) (s : State) : Outcome :=
  if !s.takes cutByReset then .next s
  else match bytes with
    | [] => .next (s.latchMalformed bytes.length)
    | kind :: rest =>
      if kind = 1 then
        match rest with
        | tag :: code :: hi :: lo :: body =>
          rawRequest ⟨tag, cutByReset⟩ code (BitVec.ofNat 16 (ofBe [hi, lo])) body s
        | _ => .next (s.latchMalformed bytes.length)
      else if kind = 2 then .next (s.clockResponse rest.length)
      else if kind = 3 then .next (s.clockStatus (8 * rest.length))
      else .next (s.latchMalformed bytes.length)

end Sys2Proof.Machine
end

