-- ==== Sys2Proof/Machine/Dispatch.lean ====
section
/-! DEFINITION. Dispatch: one arm per command, each one direct call of its meaning. -/

namespace Sys2Proof.Machine

def exec (i : Instr) (s : State) : Host.Outcome State Fault Refusal :=
  match i with
  | .identify x => Sys2Proof.Machine.execIdentify x s
  | .deviceClear x => Sys2Proof.Machine.execDeviceClear x s
  | .venueOpen x a => Sys2Proof.Machine.execVenueOpen x a s
  | .venueSet x venue a => Sys2Proof.Machine.execVenueSet x venue a s
  | .venueRetire x venue option => Sys2Proof.Machine.execVenueRetire x venue option s
  | .venueRetireForce x venue => Sys2Proof.Machine.execVenueRetireForce x venue s
  | .venueQuery x venue => Sys2Proof.Machine.execVenueQuery x venue s
  | .circuitOpen x a => Sys2Proof.Machine.execCircuitOpen x a s
  | .circuitSet x a ref => Sys2Proof.Machine.execCircuitSet x a ref s
  | .circuitTrim x delta ref => Sys2Proof.Machine.execCircuitTrim x delta ref s
  | .circuitRearm x ref => Sys2Proof.Machine.execCircuitRearm x ref s
  | .circuitRetire x ref option => Sys2Proof.Machine.execCircuitRetire x ref option s
  | .circuitFind x ref => Sys2Proof.Machine.execCircuitFind x ref s
  | .circuitQuery x ref clear => Sys2Proof.Machine.execCircuitQuery x ref clear s
  | .portSet x port a => Sys2Proof.Machine.execPortSet x port a s
  | .portQuery x port clear => Sys2Proof.Machine.execPortQuery x port clear s
  | .windowQuery x ref => Sys2Proof.Machine.execWindowQuery x ref s
  | .referenceQuery x => Sys2Proof.Machine.execReferenceQuery x s
  | .venueRate x venue mode a => Sys2Proof.Machine.execVenueRate x venue mode a s
  | .venueRateStepped x venue a => Sys2Proof.Machine.execVenueRateStepped x venue a s
  | .timebaseCapture x venue => Sys2Proof.Machine.execTimebaseCapture x venue s
  | .recoveryQuery x venue => Sys2Proof.Machine.execRecoveryQuery x venue s
  | .slotAssign x slot source => Sys2Proof.Machine.execSlotAssign x slot source s
  | .slotPunch x slot source => Sys2Proof.Machine.execSlotPunch x slot source s
  | .slotRelease x slot => Sys2Proof.Machine.execSlotRelease x slot s
  | .slotQuery x slot => Sys2Proof.Machine.execSlotQuery x slot s
  | .muteModify x bus mask mode => Sys2Proof.Machine.execMuteModify x bus mask mode s
  | .sourceSet x source lineEnable => Sys2Proof.Machine.execSourceSet x source lineEnable s
  | .sourceKey x source duration => Sys2Proof.Machine.execSourceKey x source duration s
  | .sourceUnkey x source => Sys2Proof.Machine.execSourceUnkey x source s
  | .targetModify x source mask mode => Sys2Proof.Machine.execTargetModify x source mask mode s
  | .laneSet x venue a => Sys2Proof.Machine.execLaneSet x venue a s
  | .laneQuery x venue => Sys2Proof.Machine.execLaneQuery x venue s
  | .arbiterMode x mode => Sys2Proof.Machine.execArbiterMode x mode s
  | .alarmEnable x a => Sys2Proof.Machine.execAlarmEnable x a s
  | .attentionRead x clear => Sys2Proof.Machine.execAttentionRead x clear s
  | .healthRead x venue clear => Sys2Proof.Machine.execHealthRead x venue clear s
  | .unknownCommandRequest x code bodyLength body => Sys2Proof.Machine.execUnknownCommandRequest x code bodyLength body s
  | .responseTransaction cutByReset bytes => Sys2Proof.Machine.execResponseTransaction cutByReset bytes s
  | .statusTransaction cutByReset bits => Sys2Proof.Machine.execStatusTransaction cutByReset bits s
  | .malformedTransaction cutByReset bytes => Sys2Proof.Machine.execMalformedTransaction cutByReset bytes s
  | .hardwareReset => Sys2Proof.Machine.execHardwareReset s
  | .frameReceived port rx => Sys2Proof.Machine.execFrameReceived port rx s
  | .transmitComplete port => Sys2Proof.Machine.execTransmitComplete port s
  | .linkStateChange port up => Sys2Proof.Machine.execLinkStateChange port up s
  | .wckEdge interval => Sys2Proof.Machine.execWckEdge interval s
  | .referenceQualified => Sys2Proof.Machine.execReferenceQualified s
  | .referenceLoss cause => Sys2Proof.Machine.execReferenceLoss cause s
  | .blockBoundary a => Sys2Proof.Machine.execBlockBoundary a s
  | .intervalUpdate v => Sys2Proof.Machine.execIntervalUpdate v s
  | .schedulerStep v => Sys2Proof.Machine.execSchedulerStep v s
  | .fadeEnd c => Sys2Proof.Machine.execFadeEnd c s
  | .terminalCount c => Sys2Proof.Machine.execTerminalCount c s
  | .venueLossExpiry v => Sys2Proof.Machine.execVenueLossExpiry v s
  | .announceExpiry v => Sys2Proof.Machine.execAnnounceExpiry v s
  | .pathTimeout v p => Sys2Proof.Machine.execPathTimeout v p s
  | .reorderAllowanceExpiry v c frame => Sys2Proof.Machine.execReorderAllowanceExpiry v c frame s
  | .softwareKeyExpiry source => Sys2Proof.Machine.execSoftwareKeyExpiry source s
  | .gapEnd v => Sys2Proof.Machine.execGapEnd v s
  | .degradeWindowRestart => Sys2Proof.Machine.execDegradeWindowRestart s
  | .resetRelease => Sys2Proof.Machine.execResetRelease s

end Sys2Proof.Machine
end

