-- ==== Sys2Proof/Safety.lean ====
section
/-! DEFINITION. What holds of the part between any two events, in the terms the statements use: one predicate
for each law of the spec, and when a request is taken by the control port. Each is a predicate on one
state; none is assumed by a meaning. -/

namespace Sys2Proof.Machine

/-- The control port takes the request (R165): RESET_N is high, and has been since the chip select fell. -/
def Taken (x : Transfer) (s : State) : Prop := s.resetLow = false ∧ x.cutByReset = false

/-- A window is in canonical form (cell indices strictly rising), and every frame it holds stands in the
cell of its number, N mod W (R60). -/
def Circuit.WindowLaw (x : Circuit) : Prop :=
  cellsRising x.cells ∧ ∀ y ∈ x.cells, y.index = x.cellIndex y.frame

/-- R60 for every circuit. -/
def WindowLaw (s : State) : Prop := ∀ c, (s.circuit c).WindowLaw

/-- The pool units a circuit record accounts for: none when it is FREE (R22). -/
def Circuit.charge (x : Circuit) : Nat := if x.state = .free then 0 else x.units

/-- R22: the free count and the units of every non-FREE circuit make 32,768. -/
def PoolLaw (s : State) : Prop :=
  s.poolFree + (allCircuits.map fun c => (s.circuit c).charge).sum = 32768

/-- R80: the bounds of the rates of one venue, and of the rate asked for. -/
def Timebase.RateLaw (t : Timebase) : Prop :=
  (-1073741 ≤ t.rhoP ∧ t.rhoP ≤ 1073741) ∧ (-1048576 ≤ t.rhoT ∧ t.rhoT ≤ 1048576) ∧
  (-1073741 ≤ t.rhoEff ∧ t.rhoEff ≤ 1073741) ∧ (-1073741 ≤ t.rhoCmd ∧ t.rhoCmd ≤ 1073741)

/-- R80 for every venue. -/
def RateLaw (s : State) : Prop := ∀ v, (s.venue v).timebase.RateLaw

/-- R26: an open circuit's holdover count lies within 0 to H, is 0 exactly when it is LOST, and stands at
H while it is ARMED or RUNNING; H is at least 1. -/
def Circuit.HoldLaw (x : Circuit) : Prop :=
  x.state ≠ .free → 1 ≤ x.holdInit ∧ x.hold ≤ x.holdInit ∧ (x.hold = 0 ↔ x.state = .lost) ∧
    (x.state = .armed ∨ x.state = .running → x.hold = x.holdInit)

/-- R26 for every circuit. -/
def HoldLaw (s : State) : Prop := ∀ c, (s.circuit c).HoldLaw

/-- R10: every non-FREE circuit stands once in the list of its venue and in no other, and FREE circuits
and FREE venues stand in none. -/
def ListLaw (s : State) : Prop :=
  (∀ v, (s.venue v).circuits.Nodup) ∧
  (∀ v c, c ∈ (s.venue v).circuits ↔ (s.circuit c).state ≠ .free ∧ (s.circuit c).venue = some v) ∧
  (∀ v, (s.venue v).state = .free → (s.venue v).circuits = [])

/-- R2: no two open venues share a key, and no open venue has key 0. -/
def KeyLaw (s : State) : Prop :=
  (∀ u v, (s.venue u).isOpen = true → (s.venue v).isOpen = true → (s.venue u).key = (s.venue v).key → u = v) ∧
  (∀ v, (s.venue v).isOpen = true → (s.venue v).key ≠ 0)

/-- A source of a slot names a non-FREE circuit and one of its channels (R121). -/
def State.sourceLives (s : State) (x : SlotSource) : Prop :=
  (s.circuit x.circuit).state ≠ .free ∧ x.channel < (s.circuit x.circuit).channels

/-- R121 for every slot. -/
def SlotLaw (s : State) : Prop :=
  ∀ i, (∀ x, (s.slot i).source = some x → s.sourceLives x) ∧
    (∀ x ∈ (s.slot i).stack, s.sourceLives x) ∧ (s.slot i).stack.length ≤ 4

/-- A lane's state stands with its enable and with the sources (R135, R138). -/
def State.LaneOk (s : State) (v : Fin 24) : Prop :=
  match (s.venue v).lane.state with
  | .idle => True
  | .held n => (s.venue v).lane.enable = true ∧ s.asks v n = true
  | .gap g => (s.venue v).lane.enable = true ∧ 1 ≤ g ∧ g ≤ 2

/-- R132, R135: target sets name open venues only, an enabled lane is that of an open venue, a holder is
a keyed source that targets the venue, and a disabled lane is IDLE. -/
def LaneLaw (s : State) : Prop :=
  (∀ n v, (s.source n).targets.getLsbD v.val = true → (s.venue v).isOpen = true) ∧
  (∀ v, (s.venue v).lane.enable = true → (s.venue v).isOpen = true) ∧ (∀ v, s.LaneOk v)

/-- R4, R33: a venue's settings lie in their ranges, R against the T in force, and every circuit of its list has a window
of one of the four sizes that admits the T. -/
def SettingsLaw (s : State) : Prop :=
  ∀ v, 480 ≤ (s.venue v).settings.target ∧ (s.venue v).settings.target ≤ 48768 ∧
    1 ≤ (s.venue v).settings.budget ∧ (s.venue v).settings.budget ≤ 250 ∧
    (s.venue v).settings.budget ≤ max 1 ((s.venue v).settings.target / 96 - 1) ∧
    (s.venue v).settings.allowance ≤ 20 ∧ (s.venue v).settings.attempts ≤ 2 ∧
    10 ≤ (s.venue v).settings.pathTimeout ∧ (s.venue v).settings.pathTimeout ≤ 1000 ∧
    1 ≤ (s.venue v).settings.lossTime ∧ (s.venue v).settings.lossTime ≤ 60 ∧
    ∀ c ∈ (s.venue v).circuits, (s.circuit c).window ∈ [64, 128, 256, 512] ∧
      (s.venue v).settings.target ≤ ((s.circuit c).window - 4) * 96

/-- R98, R99: the entries of a recovery queue stand in queue order without repeats, each for a circuit of the venue's
list and a frame ahead of Nr and behind the circuit's newest frame. -/
def State.QueueOk (s : State) (v : Fin 24) (nr : FrameNo) : Prop :=
  (s.venue v).recovery.Pairwise (fun x y => dist x.frame nr < dist y.frame nr ∨
    (x.frame = y.frame ∧ x.circuit < y.circuit)) ∧
  ∀ e ∈ (s.venue v).recovery, e.circuit ∈ (s.venue v).circuits ∧ 1 ≤ dist e.frame nr ∧
    ∃ m, (s.circuit e.circuit).newest = some m ∧ dist e.frame nr < dist m nr

/-- R60, R98: a seated venue has a read phase, every frame held for it stands less than a window ahead of Nr, and
its recovery queue is in order, empty unless the venue is ACTIVE; a venue that is not seated has no read phase,
empty windows and an empty queue. -/
def PlaceLaw (s : State) : Prop :=
  ∀ v, ((s.venue v).state ≠ .active → (s.venue v).recovery = []) ∧
    match (s.venue v).timebase.phase with
    | none => (s.venue v).seated = false ∧
        ∀ c ∈ (s.venue v).circuits, (s.circuit c).cells = [] ∧ (s.circuit c).newest = none
    | some ph => (s.venue v).seated = true ∧ s.QueueOk v ph.nr ∧
        ∀ c ∈ (s.venue v).circuits, ∀ y ∈ (s.circuit c).cells,
          0 ≤ dist y.frame ph.nr ∧ dist y.frame ph.nr < (s.circuit c).window

/-- The queues and lists of the part keep to their depths (R10, R13, R56, R98). -/
def CapacityLaw (s : State) : Prop :=
  (∀ v, (s.venue v).recovery.length ≤ 32 ∧ (s.venue v).circuits.length ≤ 8 ∧
    (s.venue v).announced.length ≤ 8) ∧
  (∀ p, (s.port p).queue.length ≤ 128)

/-! ### Frames, as the statements about FRAME_RECEIVED speak of them -/

/-- A link port that takes frames: out of reset, enabled, its link up (R43). -/
def Listening (s : State) (p : Fin 4) : Prop :=
  s.resetLow = false ∧ (s.port p).enable = true ∧ (s.port p).linkUp = true

/-- The bytes of a frame in the order of section 3.2: the two addresses, its tags (type 0x88A8 where the flag
is set, else 0x8100), its type field, and what follows. -/
def wireFrame (dst src : BitVec 48) (tags : List (Bool × BitVec 16)) (etherType : BitVec 16)
    (rest : List Byte) : List Byte :=
  be 6 dst.toNat ++ be 6 src.toNat ++
    tags.flatMap (fun t => be 2 (if t.1 then 0x88A8 else 0x8100) ++ be 2 t.2.toNat) ++
    be 2 etherType.toNat ++ rest

/-- The 16 bytes of a VCT header (section 11.1.1). -/
def wireVct (version kind flags domain : Byte) (key : BitVec 16) (tag channels : Byte) (frame : FrameNo)
    (len : BitVec 16) (entries : Byte) : List Byte :=
  [version, kind, flags, domain] ++ be 2 key.toNat ++ [tag, channels] ++ be 4 frame.toNat ++
    be 2 len.toNat ++ [entries, 0]

/-- A frame that passes the port tests as `f` reaches venue `v` on its path `q` (R43 to R49). -/
structure Handed (s : State) (p : Fin 4) (rx : RxFrame) (f : VctIn) (v : Fin 24) (q : PathId) : Prop where
  listening : Listening s p
  fresh : rx.fresh = true
  read : readFrame (s.port p) rx = .vct f
  keys : KeyLaw s
  isOpen : (s.venue v).state ≠ .free
  key : (s.venue v).key = f.key
  twoPorts : (s.venue v).pathA.port ≠ (s.venue v).pathB.port
  port : ((s.venue v).path q).port = some p
  bound : ((s.venue v).path q).state ≠ .absent

/-- An AUDIO frame, REPAIR or not, that names circuit `c` of venue `v` (R62). -/
structure Names (s : State) (f : VctIn) (v : Fin 24) (c : Fin 128) : Prop where
  audio : f.audio = true
  tag : s.tagged v f.tag = some c
  alive : (s.circuit c).state ≠ .lost
  channels : f.channels = (s.circuit c).channels

/-- R51: a venue once a valid frame has come over its path `q`: the path is UP, and HOLDOVER is left (R7, R90). -/
def heardVenue (ve : Venue) (q : PathId) (x : Path) : Venue :=
  if ve.state = .holdover then
    { ve.setPath q x with
      state := .active, holdoverElapsed := 0, holdoverSince := none
      timebase := { ve.timebase with loop := .acquiring, lockRun := 0, unlockRun := 0, sum := 0, count := 0 } }
  else ve.setPath q x

/-- A path once a frame has come over it (R50). -/
def heardPath (s : State) (x : Path) (f : VctIn) : Path :=
  { port := x.port, state := .up, lastArrival := some s.reference.blockCount,
    reply := some ⟨f.address, f.tags, f.domain⟩ }

/-! ### Slots, as the statements about freed circuits speak of them -/

/-- R128: slot `y` is slot `x` without its references to the circuits of `cs`: the stack entries that name one are gone, the
others keep their order, and a current source that names one is now the top of what is left, or NONE. -/
def Slot.Dropped (x : Slot) (cs : List (Fin 128)) (y : Slot) : Prop :=
  (∀ z, x.source = some z → z.circuit ∈ cs →
    y.source = (x.stack.filter fun e => decide (e.circuit ∉ cs)).head? ∧
    y.stack = (x.stack.filter fun e => decide (e.circuit ∉ cs)).tail) ∧
  ((∀ z, x.source = some z → z.circuit ∉ cs) →
    y.source = x.source ∧ y.stack = x.stack.filter fun e => decide (e.circuit ∉ cs)) ∧
  y.muted = x.muted ∧ y.emitting = x.emitting

/-- R128: how many current sources and stack entries of the slot table name a circuit of `cs`. -/
def State.referencesTo (s : State) (cs : List (Fin 128)) : Nat :=
  ((List.finRange 128).map fun i =>
    (((s.slot i).source.toList ++ (s.slot i).stack).filter fun e => decide (e.circuit ∈ cs)).length).sum

/-- R29, R118: the circuits of a venue whose fade ends in its next venue step. -/
def State.fadesEnding (s : State) (v : Fin 24) : List (Fin 128) :=
  (s.venue v).circuits.filter fun c => decide ((s.circuit c).state = .closing) && decide ((s.circuit c).fade ≤ 1)

/-! ### Samples, as the statements about playout speak of them -/

/-- R114, R116: what channel `ch` of a circuit contributes at offset `k` of frame `n`: a sample of the cell that holds
the frame; or, when it is missing, 0, or for a CROWD circuit that has played a frame, its conceal store halved for every
frame since, down to 0 at depth 24. -/
def Circuit.Draws (x : Circuit) (ch : Nat) (n : FrameNo) (k : Nat) (a : Int) : Prop :=
  (∃ (cell : Cell) (xs : FrameSamples) (h : k < 96), x.held n = some cell ∧ cell.chans[ch]? = some xs ∧
    a = (xs[k]).toInt) ∨
  (x.held n = none ∧ (x.kind ≠ .crowd ∨ x.lastPresent = none) ∧ a = 0) ∨
  (x.held n = none ∧ x.kind = .crowd ∧ ∃ (last : FrameNo) (xs : FrameSamples) (d : Nat) (h : k < 96),
    x.lastPresent = some last ∧ dist n last = d ∧ x.conceal[ch]? = some xs ∧
    a = if d ≤ 23 then (xs[k]).toInt / 2 ^ d else 0)

end Sys2Proof.Machine
end

