-- ==== Sys2Proof/Certificates/Slice0/Obligations.lean ====
section
/-! DEFINITION. The statements for the provers: what the commands and events of the part do, by the spec's
numbered rules, and the laws that every step keeps. -/

open Sys2Proof Sys2Proof.Machine

/-! ### The queue and the request -/

/-- The command at the front of the queue is the one that a step takes, on the state with the queue's rest. On an empty
queue a step takes the oldest work that the block boundary left over, and with none left the block idles (the model's, log 2). -/
def Obligations.StepTakesFrontCommand : Prop :=
  (∀ (c : Instr) (rest : List Instr) (s : State),
    step { s with pending := c :: rest } = exec c { s with pending := rest }) ∧
  (∀ (w : Work) (ws : List Work) (s : State), s.pending = [] → s.due = w :: ws →
    step s = .next (State.takeWork { s with due := ws } w)) ∧
  (∀ s : State, s.pending = [] → s.due = [] → step s = .next s)

/-- R161: whatever bytes a request message holds, the part builds one response, with the host tag and
command code as received (bytes that spell a command run as it, log 24). R164: a result other than OK carries no flags and an empty body, and has changed
nothing but the control port, where an unread response is replaced and the loss latched. R161: a body of more than 252 bytes, or of another length
than its length field says, is answered BAD_LENGTH; a message of the right length whose code names no command, BAD_COMMAND. -/
def Obligations.EveryRequestHoldsOneResponse : Prop :=
  (∀ (x : Transfer) (code : Byte) (len : BitVec 16) (body : List Byte) (s : State), Taken x s →
     ∃ t r f b, exec (.unknownCommandRequest x code len body) s = .next t ∧
       t.control.held = some ⟨x.hostTag, code, r, f, b⟩ ∧ r ≠ .none ∧
       (r ≠ .ok → f = {} ∧ b = [] ∧
         t = { s with control :=
           { held := some ⟨x.hostTag, code, r, {}, []⟩
             responseLost := s.control.responseLost || s.control.held.isSome
             malformed := s.control.malformed
             spiOut := [0] } })) ∧
  (∀ (x : Transfer) (code : Byte) (len : BitVec 16) (body : List Byte) (s : State), Taken x s →
     ((252 < body.length ∨ len.toNat ≠ body.length) →
       exec (.unknownCommandRequest x code len body) s = .next (s.hold x code .badLength {} [])) ∧
     (body.length ≤ 252 → len.toNat = body.length →
       code.toNat ∉ [0x01, 0x02, 0x10, 0x11, 0x12, 0x13, 0x20, 0x21, 0x22, 0x23, 0x24, 0x25, 0x26, 0x30,
         0x31, 0x38, 0x40, 0x41, 0x42, 0x48, 0x50, 0x51, 0x52, 0x53, 0x54, 0x60, 0x61, 0x62, 0x63, 0x64,
         0x65, 0x66, 0x70, 0x71, 0x72] →
       exec (.unknownCommandRequest x code len body) s = .next (s.hold x code .badCommand {} [])))

/-- Every well-formed request, written as R169 lays it out (with the model's choices of log 9), is read back as
itself, with every operand at every value the layout admits; and taken as raw bytes it does what the
command does (the model's choice of log 24). -/
def Obligations.WrittenRequestReadsBack : Prop :=
  ∀ (i : Instr) (x : Transfer) (code : Nat) (body : List Byte), i.wellFormed = true →
    i.transfer = some x → writeRequest i = some (code, body) →
    readRequest x (BitVec.ofNat 8 code) (BitVec.ofNat 16 body.length) body = .fits i ∧
    ∀ s, exec (.unknownCommandRequest x (BitVec.ofNat 8 code) (BitVec.ofNat 16 body.length) body) s = exec i s

/-! ### Reset and the device commands -/

/-- R165 with the hardware-reset column of every chapter: RESET_N falling puts every block at its reset
values, and its rise changes nothing but the level itself. R171, R120, R156: while it is low no output is driven but low, ATN_N is
released, SPI_MISO high-impedance and every bus carries zeros; once it is high the bus clocks run, each bus position carries
its slot's emitting block, ATN_N follows the attention condition, and SPI_MISO is driven only while SPI_CS_N is low. R167: DEVICE_CLEAR returns every block to its reset values, but keeps the
port settings and link state, the gallery reference and the return block, and holds its own OK response with the block
count. That the waiting commands are kept is the model's choice (log 33). -/
def Obligations.HardwareResetAndDeviceClear : Prop :=
  ((∀ s : State, ∃ t, exec .hardwareReset s = .next t ∧ t.resetLow = true ∧
     t.reference = { state := .freeRun, qualification := 0, strayEdges := 0, blockCount := 0 } ∧
     t.control = { held := none, responseLost := false, malformed := false, spiOut := [] } ∧
     (∀ p, t.port p = Port.reset) ∧ (∀ v, t.venue v = Venue.free) ∧ (∀ c, t.circuit c = Circuit.free) ∧
     t.poolFree = 32768 ∧ (∀ i, t.slot i = Slot.reset) ∧ (∀ n, t.source n = Source.reset) ∧
     t.arbiter = .fixed ∧ (∀ n : Fin 32, t.returnBlock[n] = silentBlock) ∧ t.classEnables = 0 ∧
     t.refLoss = false ∧ t.due = [] ∧ t.pending = s.pending ∧
     (∀ selected, t.pins selected =
       ⟨.released, .low, .low, .low, .low, .highImpedance, Vector.replicate 4 false⟩) ∧
     (∀ b i j, t.busSample b i j = 0)) ∧
   (∀ s : State, ∃ t, exec .resetRelease s = .next t ∧ t = { s with resetLow := false } ∧
     (∀ selected, (t.pins selected).toBclk = .galleryClock ∧ (t.pins selected).toFs = .galleryClock ∧
       (t.pins selected).toData = .samples ∧
       (t.pins selected).atn = (if s.attention then .asserted else .released) ∧
       (t.pins selected).spiMiso = (if selected then .transaction else .highImpedance)) ∧
     ∀ (b : Fin 4) (i : Fin 32) (j : Fin 48) (n : Fin 128), n.val = 32 * b.val + i.val →
       t.busSample b i j = (s.slot n).emitting[j])) ∧
  (∀ (x : Transfer) (s : State), Taken x s →
     ∃ t, exec (.deviceClear x) s = .next t ∧
       t.control = { held := some ⟨x.hostTag, 0x02, .ok, {}, be 5 s.reference.blockCount.toNat⟩
                     responseLost := false, malformed := false, spiOut := [0] } ∧
       t.reference = s.reference ∧ t.returnBlock = s.returnBlock ∧
       (∀ p, t.port p = { s.port p with
         taken := 0, notVct := 0, tagDiscards := 0, wrongDomain := 0, unknownKey := 0, malformed := 0,
         sent := 0, dropped := 0, queue := [] }) ∧
       (∀ v, t.venue v = Venue.free) ∧ (∀ c, t.circuit c = Circuit.free) ∧ t.poolFree = 32768 ∧
       (∀ i, t.slot i = Slot.reset) ∧ (∀ n, t.source n = Source.reset) ∧ t.arbiter = .fixed ∧
       t.classEnables = 0 ∧ t.refLoss = false ∧ t.resetLow = false ∧ t.pending = s.pending)

/-- R166: the family and part codes, a revision of 1 to 255 (a free value, log 8), and the table sizes,
changing nothing. -/
def Obligations.IdentifyReportsThePart : Prop :=
  ∃ rev : Nat, 1 ≤ rev ∧ rev ≤ 255 ∧ ∀ (x : Transfer) (s : State), Taken x s →
    exec (.identify x) s = .next (s.hold x 0x01 .ok {}
      [0x3C, 0x61, 0x24, BitVec.ofNat 8 rev, 4, 24, 128, 8, 0x80, 0x00, 128, 4, 16, 24, 32, 0x01, 0x00])

/-! ### Queries -/

/-- R19, R75, R97, R112, R126, R146: a query whose index or reference names a record answers OK with that
record's report, and changes nothing but the control port; one that names none is refused. -/
def Obligations.QueriesAnswerAndChangeNothing : Prop :=
  ∀ (x : Transfer) (s : State), Taken x s →
    (∀ v : Fin 24, exec (.venueQuery x v.val) s = .next (s.hold x 0x13 .ok {} (venueReport s v))) ∧
    (∀ v : Fin 24, exec (.laneQuery x v.val) s = .next (s.hold x 0x65 .ok {} (laneReport s v))) ∧
    (∀ i : Fin 128, exec (.slotQuery x i.val) s = .next (s.hold x 0x53 .ok {} (slotQueryReport s i))) ∧
    (∀ v : Fin 24, exec (.timebaseCapture x v.val) s = .next
      (if (s.venue v).state = .free then s.hold x 0x42 .badReference {} []
       else s.hold x 0x42 .ok {} (timebaseReport (s.venue v) s.blockCount))) ∧
    (∀ v : Fin 24, exec (.recoveryQuery x v.val) s = .next
      (if (s.venue v).state = .free then s.hold x 0x48 .badReference {} []
       else s.hold x 0x48 .ok {} (recoveryReport s v))) ∧
    (∀ r c, s.resolve r = some c →
      exec (.windowQuery x r) s = .next (s.hold x 0x38 .ok {} (windowReport s c))) ∧
    (∀ r, s.resolve r = none → exec (.windowQuery x r) s = .next (s.hold x 0x38 .badReference {} [])) ∧
    (∀ v, 24 ≤ v → exec (.venueQuery x v) s = .next (s.hold x 0x13 .badReference {} []) ∧
      exec (.laneQuery x v) s = .next (s.hold x 0x65 .badReference {} []) ∧
      exec (.timebaseCapture x v) s = .next (s.hold x 0x42 .badReference {} []) ∧
      exec (.recoveryQuery x v) s = .next (s.hold x 0x48 .badReference {} [])) ∧
    (∀ i, 128 ≤ i → exec (.slotQuery x i) s = .next (s.hold x 0x53 .badReference {} []))

/-- R19, R41, R59, R75, R97, R112, R126, R146, R158, R159, with R92, R123 and R141 to R144: which fields the report of each
query and of each command that answers a record carries, in order, each in its width; none, unset or absent as a 0 byte and zeros, or as
255. The layout where section 11.2 leaves it open is the model's choice (log 9, log 35, log 36). -/
def Obligations.ReportsCarryTheirFields : Prop :=
  ∀ (s : State) (flag : Bool → List Byte) (seq : Option (BitVec 32) → List Byte)
      (index : {n : Nat} → Option (Fin n) → List Byte) (rate : Int → List Byte),
    (∀ b, flag b = [if b then 1 else 0]) →
    (∀ n, seq n = match n with | none => [0, 0, 0, 0, 0] | some k => 1 :: be 4 k.toNat) →
    (∀ (n : Nat) (i : Option (Fin n)), index i = match i with | none => [255] | some k => be 1 k.val) →
    (∀ r, rate r = be 4 (r % 4294967296).toNat) →
    (∀ v : Fin 24, venueReport s v =
      be 1 (venueStateCode (s.venue v).state) ++ be 2 (s.venue v).key.toNat ++
      be 2 (s.venue v).settings.target ++ be 1 (s.venue v).settings.budget ++
      be 1 (s.venue v).settings.allowance ++ be 1 (s.venue v).settings.attempts ++
      be 2 (s.venue v).settings.pathTimeout ++ be 2 (s.venue v).settings.lossTime ++
      [(s.venue v).pathA, (s.venue v).pathB].flatMap (fun p => index p.port ++ be 1 (pathStateCode p.state) ++
        (match p.reply with | none => List.replicate 7 0 | some r => 1 :: be 6 r.address.toNat) ++
        (match p.lastArrival with
          | none => [0, 0, 0] | some l => 1 :: be 2 (min 65535 (s.reference.blockCount - l).toNat))) ++
      be 1 (s.venue v).circuits.length ++ (s.venue v).circuits.flatMap (fun c => be 1 c.val ++
        be 1 ((s.circuit c).tag.getD 0) ++ be 1 (circuitStateCode (s.circuit c).state)) ++
      be 1 (s.venue v).announced.length ++ (s.venue v).announced.flatMap (fun e => be 1 e.tag ++
        be 1 (kindCode e.kind) ++ be 1 e.channels) ++
      (match (s.venue v).announceAge with | none => [0, 0, 0] | some n => 1 :: be 2 n) ++
      be 2 (s.venue v).holdoverElapsed ++ be 1 (s.venue v).aheadStreak ++ be 1 (s.venue v).lateStreak ++
      seq (s.venue v).newest) ∧
    (∀ c : Fin 128, circuitReport s c =
      be 1 c.val ++ index (s.circuit c).venue ++ be 1 (s.ordinal c) ++ be 1 ((s.circuit c).tag.getD 0) ++
      be 1 (kindCode (s.circuit c).kind) ++ be 1 (s.circuit c).channels ++ be 2 (s.circuit c).window ++
      be 1 (circuitStateCode (s.circuit c).state) ++ be 2 (s.circuit c).level ++ be 2 (s.circuit c).holdInit ++
      flag (s.circuit c).autoRearm ++ be 1 (s.circuit c).fadeLength ++ be 2 (s.circuit c).hold ++
      be 1 (if (s.circuit c).state = .closing then (s.circuit c).fade else 0) ++ seq (s.circuit c).newest ++
      seq (s.circuit c).lastPresent ++ flag (s.circuit c).lossLatched ++
      [(s.circuit c).placed, (s.circuit c).late, (s.circuit c).duplicate, (s.circuit c).concealed,
        (s.circuit c).masked, s.poolFree].flatMap (be 2)) ∧
    (∀ (c : Fin 128) (nr : Option FrameNo), nr = (match (s.circuit c).venue with
        | none => none | some v => (s.venue v).timebase.phase.map fun ph => ph.nr) → windowReport s c =
      be 1 c.val ++ index (s.circuit c).venue ++ be 1 (s.ordinal c) ++ be 2 (s.circuit c).window ++
      be 1 (s.circuit c).channels ++ be 1 (circuitStateCode (s.circuit c).state) ++
      be 2 (s.circuit c).cells.length ++ seq (s.circuit c).newest ++ seq (s.circuit c).lastPresent ++ seq nr ++
      (match nr with
        | none => [0]
        | some r => be 1 (((List.range 16).map fun i => r + BitVec.ofNat 32 i).filter fun n =>
            !(s.circuit c).present n).length ++
          (((List.range 16).map fun i => r + BitVec.ofNat 32 i).filter fun n =>
            !(s.circuit c).present n).flatMap fun n => be 4 n.toNat)) ∧
    (∀ (v : Fin 24) (t : Timebase), t = (s.venue v).timebase →
      rateReport t = rate t.rhoP ++ rate t.rhoT ++ rate t.rhoEff ++ flag t.active ++ rate t.rhoCmd ++ be 2 t.step ++
        be 1 t.settle ++ be 1 t.countdown ++ flag t.frozen ∧
      timebaseReport (s.venue v) s.reference.blockCount = be 1 (venueStateCode (s.venue v).state) ++
        (match t.phase with
          | none => List.replicate 10 0
          | some ph => 1 :: be 4 ph.nr.toNat ++ be 1 ph.k ++ be 4 ph.f.toNat) ++
        rate t.rhoP ++ rate t.rhoT ++ rate t.rhoEff ++ be 1 (match t.loop with | .acquiring => 0 | .locked => 1) ++
        be 1 t.lockRun ++ be 1 t.unlockRun ++ rate t.sum ++ be 1 t.count ++ flag t.frozen ++ flag t.active ++
        rate t.rhoCmd ++ be 2 t.step ++ be 1 t.settle ++ be 1 t.countdown ++ be 2 (s.venue v).settings.target ++
        be 5 s.reference.blockCount.toNat) ∧
    (∀ (v : Fin 24) (ph : Phase), (s.venue v).timebase.phase = some ph → recoveryReport s v =
      be 1 (venueStateCode (s.venue v).state) ++ 1 :: be 4 ph.nr.toNat ++ be 1 (s.venue v).settings.budget ++
      be 1 (s.venue v).settings.allowance ++ be 1 (s.venue v).settings.attempts ++
      be 1 (s.venue v).recovery.length ++ (s.venue v).recovery.flatMap fun e => be 1 e.circuit.val ++
        be 1 ((s.circuit e.circuit).tag.getD 0) ++ be 4 e.frame.toNat ++
        be 2 (Machine.dist e.frame ph.nr).toNat ++ be 5 e.createdAt.toNat ++ be 1 e.attempts ++ seq e.nq) ∧
    (∀ (i : Fin 128) (one : SlotSource → List Byte), (∀ y, one y = be 1 y.circuit.val ++ be 1 y.channel) →
      slotReport (s.slot i) = (match (s.slot i).source with | none => [255, 0] | some y => one y) ++
        be 1 (s.slot i).stack.length ++ (s.slot i).stack.flatMap one ++ flag (s.slot i).muted) ∧
    (∀ (i : Fin 128) (one : SlotSource → List Byte), (∀ y, one y = be 1 y.circuit.val ++ be 1 y.channel ++
        index (s.circuit y.circuit).venue ++ be 1 ((s.circuit y.circuit).tag.getD 0) ++
        be 1 (kindCode (s.circuit y.circuit).kind) ++ be 1 (circuitStateCode (s.circuit y.circuit).state)) →
      slotQueryReport s i = be 1 i.val ++ be 1 (i.val / 32) ++ be 1 (i.val % 32) ++ flag (s.slot i).muted ++
        (match (s.slot i).source with | none => [255, 0, 0, 0, 0, 0] | some y => one y) ++
        be 1 (s.slot i).stack.length ++ (s.slot i).stack.flatMap one) ∧
    (∀ v : Fin 24, (s.venue v).state ≠ .free → laneReport s v = flag (s.venue v).lane.enable ++
      index (s.venue v).lane.cleanSlot ++ be 1 (s.venue v).lane.duck ++
      (match (s.venue v).lane.state with | .idle => [0] | .held n => 1 :: be 1 n.val | .gap g => 2 :: be 1 g) ++
      index (s.venue v).lane.lastHolder ++ be 2 (s.venue v).lane.sequence.toNat ++
      be 1 (s.waiting v).length ++ (s.waiting v).flatMap fun n => be 1 n.val) ∧
    (∀ v : Fin 24, (s.venue v).state = .free → laneReport s v = [0, 255, 3, 0, 255, 0, 0, 0]) ∧
    (∀ n : Fin 16, sourceReport s n = be 3 (s.source n).targets.toNat ++ flag (s.source n).lineEnable ++
      flag (s.source n).lineSample ++ flag (s.source n).softKey ++ be 2 (s.source n).remaining ++
      flag ((s.source n).lineEnable && (s.source n).lineSample || (s.source n).softKey) ++
      be 1 ((List.finRange 24).filter fun v => (s.venue v).lane.state == .held n).length ++
      ((List.finRange 24).filter fun v => (s.venue v).lane.state == .held n).flatMap fun v => be 1 v.val) ∧
    (∀ v : Fin 24, (s.venue v).state ≠ .free → healthReport s v =
      (List.finRange 15).flatMap (fun k => be 2 (s.venue v).health.counters[k]) ++
      be 2 (s.venue v).health.repaired ++ be 2 (s.venue v).health.filledByPath ++
      (match (s.venue v).health.capture with
        | none => List.replicate 14 0
        | some c => 1 :: be 1 c.kind.index.val ++ index c.circuit ++ seq c.frame ++ index c.port ++
            be 5 c.block.toNat) ++
      flag (s.venue v).health.overflow ++ be 2 (s.venue v).health.windowCount ++
      be 2 (s.venue v).health.threshold ++ flag (s.venue v).health.degraded ++ flag (s.venue v).health.pathDown ++
      be 1 ((s.venue v).circuits.filter fun c => (s.circuit c).lossLatched).length ++
      ((s.venue v).circuits.filter fun c => (s.circuit c).lossLatched).flatMap (fun c => be 1 c.val) ++
      be 2 (s.venue v).health.captureEnable.toNat ++ be 2 (s.venue v).health.rateEnable.toNat) ∧
    (∃ (pending : BitVec 24) (items : Fin 24 → BitVec 8), attentionReport s =
        flag s.attention ++ be 1 s.classEnables.toNat ++ be 3 pending.toNat ++
        ((List.finRange 24).filter fun v => (s.venue v).isOpen).flatMap (fun v => [items v]) ++ flag s.refLoss ∧
      (∀ v, (s.venue v).state ≠ .free →
        (items v).getLsbD 0 = (s.venue v).health.capture.isSome ∧
        (items v).getLsbD 1 = (s.venue v).health.degraded ∧ (items v).getLsbD 2 = (s.venue v).health.pathDown ∧
        ((items v).getLsbD 3 = true ↔ ∃ c ∈ (s.venue v).circuits, (s.circuit c).lossLatched = true) ∧
        (items v).toNat < 16) ∧
      (∀ v, pending.getLsbD v.val = true ↔ (s.venue v).state ≠ .free ∧
        ∃ k : Fin 4, (items v).getLsbD k.val = true ∧ s.classEnables.getLsbD k.val = true) ∧
      (s.attention = true ↔ (∃ v : Fin 24, pending.getLsbD v.val = true) ∨
        (s.refLoss = true ∧ s.classEnables.getLsbD 4 = true))) ∧
    (∀ p : Fin 4, portSettings (s.port p) = flag (s.port p).enable ++ be 6 (s.port p).address.toNat ++
        be 2 (s.port p).etherType.toNat ++
        be 1 (match (s.port p).tagMode with | .none => 0 | .one => 1 | .two => 2) ++
        (match (s.port p).domain with | none => [0, 0, 0] | some d => 1 :: be 2 d.toNat) ∧
      ∃ bound : List (Fin 24 × PathId), portReport s p = portSettings (s.port p) ++ flag (s.port p).linkUp ++
        [(s.port p).taken, (s.port p).notVct, (s.port p).tagDiscards, (s.port p).wrongDomain,
          (s.port p).unknownKey, (s.port p).malformed, (s.port p).sent, (s.port p).dropped].flatMap (be 2) ++
        be 1 (s.port p).queue.length ++ be 1 bound.length ++ bound.flatMap (fun b => be 1 b.1.val ++
          [if b.2 = .a then 0 else 1] ++ be 1 (pathStateCode ((s.venue b.1).path b.2).state)) ∧
        bound.Pairwise (fun x y => x.1 < y.1) ∧
        ∀ v q, (s.venue v).pathA.port ≠ (s.venue v).pathB.port → ((v, q) ∈ bound ↔ (s.venue v).state ≠ .free ∧
          ((s.venue v).path q).port = some p ∧ (q = .b → (s.venue v).pathB.state ≠ .absent))) ∧
    [venueStateCode .free, venueStateCode .waiting, venueStateCode .active, venueStateCode .holdover,
      circuitStateCode .free, circuitStateCode .armed, circuitStateCode .running, circuitStateCode .concealing,
      circuitStateCode .lost, circuitStateCode .closing, pathStateCode .absent, pathStateCode .down,
      pathStateCode .up, kindCode .commentary, kindCode .crowd, kindCode .coord] =
      [0, 1, 2, 3, 0, 1, 2, 3, 4, 5, 0, 1, 2, 1, 2, 3]

/-- R79: the reference state, the qualification count (0 in WCK), the 40-bit block count and the
reference-loss flag, changing nothing. -/
def Obligations.ReferenceQueryReports : Prop :=
  ∀ (x : Transfer) (s : State), Taken x s →
    exec (.referenceQuery x) s = .next (s.hold x 0x40 .ok {}
      ((match s.reference.state with
        | .freeRun => [0x00, BitVec.ofNat 8 s.reference.qualification]
        | .wck => [0x01, 0x00]) ++
        be 5 s.reference.blockCount.toNat ++ [if s.refLoss then 0x01 else 0x00]))

/-- R31, R32: a circuit in the list of its venue is found by each of the three reference forms, and the
response carries its index, venue, ordinal, tag, kind, channel count and state; a reference that resolves
to none is refused. R30, R41, R59: CIRCUIT_QUERY and PORT_QUERY report the record; with the clear option their counters, and
nothing else, are then set to 0; a reference that names none is refused. R170: so is a clear code above 1, with BAD_VALUE once the reference is
resolved (section 11.2.3, its place among the checks is log 13). -/
def Obligations.CircuitFindAndRecordReads : Prop :=
  (∀ (x : Transfer) (s : State), Taken x s →
     (∀ (v : Fin 24) (c : Fin 128) (tag ord : Nat), ListLaw s →
       (s.venue v).circuits[ord]? = some c → (s.circuit c).tag = some tag → tag ≤ 254 →
       (∀ d ∈ (s.venue v).circuits, (s.circuit d).tag = some tag → d = c) →
       ∀ r ∈ [CircuitRef.absolute c.val, .venueRelative v.val ord, .keyed v.val tag],
         exec (.circuitFind x r) s = .next (s.hold x 0x25 .ok {}
           (be 1 c.val ++ be 1 v.val ++ be 1 ord ++ be 1 tag ++ be 1 (kindCode (s.circuit c).kind) ++
             be 1 (s.circuit c).channels ++ be 1 (circuitStateCode (s.circuit c).state)))) ∧
     (∀ r, s.resolve r = none → exec (.circuitFind x r) s = .next (s.hold x 0x25 .badReference {} []))) ∧
  (∀ (x : Transfer) (s : State), Taken x s →
     (∀ r c, s.resolve r = some c →
       exec (.circuitQuery x r 0) s = .next (s.hold x 0x26 .ok {} (circuitReport s c)) ∧
       exec (.circuitQuery x r 1) s = .next ((s.setCircuit c { s.circuit c with
         placed := 0, late := 0, duplicate := 0, concealed := 0, masked := 0 }).hold x 0x26 .ok {}
           (circuitReport s c)) ∧
       ∀ k, 2 ≤ k → exec (.circuitQuery x r k) s = .next (s.hold x 0x26 .badValue {} [])) ∧
     (∀ p : Fin 4,
       exec (.portQuery x p.val 0) s = .next (s.hold x 0x31 .ok {} (portReport s p)) ∧
       exec (.portQuery x p.val 1) s = .next ((s.setPort p { s.port p with
         taken := 0, notVct := 0, tagDiscards := 0, wrongDomain := 0, unknownKey := 0, malformed := 0,
         sent := 0, dropped := 0 }).hold x 0x31 .ok {} (portReport s p)) ∧
       ∀ k, 2 ≤ k → exec (.portQuery x p.val k) s = .next (s.hold x 0x31 .badValue {} [])) ∧
     (∀ r k, s.resolve r = none → exec (.circuitQuery x r k) s = .next (s.hold x 0x26 .badReference {} [])) ∧
     (∀ p k, 4 ≤ p → exec (.portQuery x p k) s = .next (s.hold x 0x31 .badReference {} [])))

/-- R158: ATTENTION_READ reports the attention state; with the clear option the reference-loss flag, and
nothing else, is then cleared. R170: a clear code above 1 is refused BAD_VALUE (section 11.2.3 and log 13). R159: HEALTH_READ reports the record. With the clear option
the seventeen counters, the capture with its
overflow flag, DEGRADED, PATH_DOWN and the loss-latched flag of every circuit of the list are cleared, and
everything else stays; for a FREE venue the clear option changes nothing. R157, R153: ALARM_ENABLE stores the class enables and one venue's sets
and threshold, the threshold clamped; a new threshold latches DEGRADED when the window count already stands at it. -/
def Obligations.HealthCommandsReadAndStore : Prop :=
  ((∀ (x : Transfer) (s : State) (v : Fin 24), Taken x s →
     exec (.healthRead x v.val 0) s = .next (s.hold x 0x72 .ok {} (healthReport s v)) ∧
     ((s.venue v).state = .free →
       exec (.healthRead x v.val 1) s = .next (s.hold x 0x72 .ok {} (healthReport s v))) ∧
     ((s.venue v).state ≠ .free → ∃ t : State, exec (.healthRead x v.val 1) s =
         .next (t.hold x 0x72 .ok {} (healthReport s v)) ∧
       t.venue v = { s.venue v with health := { (s.venue v).health with
         counters := Vector.replicate 15 0, repaired := 0, filledByPath := 0, capture := none,
         overflow := false, degraded := false, pathDown := false } } ∧
       (∀ w, w ≠ v → t.venue w = s.venue w) ∧
       (∀ c, t.circuit c = if c ∈ (s.venue v).circuits then { s.circuit c with lossLatched := false }
         else s.circuit c) ∧
       t = { s with venues := t.venues, circuits := t.circuits }) ∧
     (∀ k, 24 ≤ k → exec (.healthRead x k 0) s = .next (s.hold x 0x72 .badReference {} []))) ∧
   (∀ (x : Transfer) (s : State), Taken x s →
      exec (.attentionRead x 0) s = .next (s.hold x 0x71 .ok {} (attentionReport s)) ∧
      exec (.attentionRead x 1) s = .next (({ s with refLoss := false }).hold x 0x71 .ok {} (attentionReport s)) ∧
      (∀ k, 2 ≤ k → exec (.attentionRead x k) s = .next (s.hold x 0x71 .badValue {} [])))) ∧
  (∀ (x : Transfer) (s : State) (a : AlarmArgs), Taken x s →
     ((∃ n, a.venue = some n ∧ (24 ≤ n ∨ ∃ v : Fin 24, n = v.val ∧ (s.venue v).state = .free)) ∨
         (a.venue = none ∧ (a.captureEnable ≠ none ∨ a.rateEnable ≠ none ∨ a.threshold ≠ none)) →
       exec (.alarmEnable x a) s = .next (s.hold x 0x70 .badReference {} [])) ∧
     ((∀ c, a.classes = some c → c.toNat < 32) → a.venue = none → a.captureEnable = none →
       a.rateEnable = none → a.threshold = none →
       exec (.alarmEnable x a) s = .next (({ s with classEnables :=
           (match a.classes with | none => s.classEnables | some c => c.setWidth 5) }).hold x 0x70 .ok {}
         (be 1 (match a.classes with | none => s.classEnables.toNat | some c => c.toNat)))) ∧
     (∀ v : Fin 24, a.venue = some v.val → (s.venue v).state ≠ .free →
       ((∃ c, a.classes = some c ∧ 32 ≤ c.toNat) ∨ (∃ m, a.captureEnable = some m ∧ 32768 ≤ m.toNat) ∨
           (∃ m, a.rateEnable = some m ∧ 32768 ≤ m.toNat) →
         exec (.alarmEnable x a) s = .next (s.hold x 0x70 .badValue {} [])) ∧
       ((∀ c, a.classes = some c → c.toNat < 32) → (∀ m, a.captureEnable = some m → m.toNat < 32768) →
         (∀ m, a.rateEnable = some m → m.toNat < 32768) → ∃ (h : Health) (f : Flags) (cs : BitVec 5),
         exec (.alarmEnable x a) s = .next (({ s.setVenue v { s.venue v with health := h } with
             classEnables := cs }).hold x 0x70 .ok f
           (be 1 cs.toNat ++ be 2 h.captureEnable.toNat ++ be 2 h.rateEnable.toNat ++ be 2 h.threshold ++
             be 2 h.windowCount)) ∧
         cs = (match a.classes with | none => s.classEnables | some c => c.setWidth 5) ∧
         h.captureEnable = (match a.captureEnable with
           | none => (s.venue v).health.captureEnable | some m => m.setWidth 15) ∧
         h.rateEnable = (match a.rateEnable with
           | none => (s.venue v).health.rateEnable | some m => m.setWidth 15) ∧
         h.threshold = (match a.threshold with
           | none => (s.venue v).health.threshold | some k => max 1 (min 65535 k)) ∧
         (h.degraded = true ↔ (s.venue v).health.degraded = true ∨
           (a.threshold ≠ none ∧ h.threshold ≤ (s.venue v).health.windowCount)) ∧
         h = { (s.venue v).health with
               captureEnable := h.captureEnable, rateEnable := h.rateEnable, threshold := h.threshold, degraded := h.degraded })))

/-! ### Venue records -/

/-- R15, R4: VENUE_OPEN takes the lowest FREE record and sets it up WAITING, its paths DOWN or ABSENT, its
settings defaulted and clamped, its rates at the initial rate; everything else stays. -/
def Obligations.VenueOpenSetsUpLowestFreeRecord : Prop :=
  ∀ (x : Transfer) (a : VenueOpenArgs) (s : State) (v : Fin 24) (pa : Fin 4) (pb : Option (Fin 4)),
    Taken x s → a.key ≠ 0 → a.portA = some pa.val → a.portB = pb.map (fun p => p.val) → pb ≠ some pa →
    (∀ w, (s.venue w).state ≠ .free → (s.venue w).key ≠ a.key) →
    (s.venue v).state = .free → (∀ w, w < v → (s.venue w).state ≠ .free) →
    ∃ (f : Flags) (body : List Byte) (ve : Venue),
      exec (.venueOpen x a) s = .next ((s.setVenue v ve).hold x 0x10 .ok f body) ∧
      body.head? = some (BitVec.ofNat 8 v.val) ∧
      ve.state = .waiting ∧ ve.key = a.key ∧
      ve.pathA = { port := some pa, state := .down, lastArrival := none, reply := none } ∧
      ve.pathB = { port := pb, state := if pb.isSome then .down else .absent,
                   lastArrival := none, reply := none } ∧
      ve.settings.target = max 480 (min 48768 (a.target.getD 4800)) ∧
      ve.settings.budget = max 1 (min (min 250 (max 1 (ve.settings.target / 96 - 1))) (a.budget.getD 40)) ∧
      ve.settings.allowance = min 20 (a.allowance.getD 3) ∧
      ve.settings.attempts = min 2 (a.attempts.getD 1) ∧
      ve.settings.pathTimeout = max 10 (min 1000 (a.pathTimeout.getD 100)) ∧
      ve.settings.lossTime = max 1 (min 60 (a.lossTime.getD 10)) ∧
      ve.timebase.rhoP = max (-1073741) (min 1073741 (a.rate.getD 0)) ∧ ve.timebase.rhoT = 0 ∧
      ve.timebase.rhoEff = ve.timebase.rhoP ∧ ve.timebase.phase = none ∧ ve.timebase.active = false ∧
      ve.timebase.step = 4096 ∧ ve.timebase.settle = 16 ∧ ve.timebase.frozen = false ∧
      ve.circuits = [] ∧ ve.announced = [] ∧ ve.announceAge = none ∧ ve.holdoverElapsed = 0 ∧
      ve.newest = none ∧ ve.aheadStreak = 0 ∧ ve.lateStreak = 0 ∧ ve.recovery = [] ∧
      ve.lane = Lane.reset ∧ ve.health = Health.reset

/-- R16 with R4: VENUE_SET that gives no port stores the settings it gives, clamped, T first and R against
the T stored, and leaves the rest of the venue and of the part. `tMax` is the highest T that the windows of
the venue's circuits admit. -/
def Obligations.VenueSetStoresSettings : Prop :=
  ∀ (x : Transfer) (a : VenueSetArgs) (s : State) (v : Fin 24) (tMax : Nat),
    Taken x s → (s.venue v).state ≠ .free → a.portA = none → a.portB = none → a.key ≠ some 0 →
    (s.venue v).pathA.port ≠ (s.venue v).pathB.port →
    (∀ k, a.key = some k → ∀ w, w ≠ v → (s.venue w).state ≠ .free → (s.venue w).key ≠ k) →
    (((s.venue v).circuits = [] ∧ tMax = 48768) ∨
      ((∃ c ∈ (s.venue v).circuits, tMax = min 48768 (((s.circuit c).window - 4) * 96)) ∧
        ∀ c ∈ (s.venue v).circuits, tMax ≤ ((s.circuit c).window - 4) * 96)) →
    ∃ (f : Flags) (body : List Byte) (st : Settings),
      exec (.venueSet x v.val a) s = .next ((s.setVenue v { s.venue v with
        key := a.key.getD (s.venue v).key, settings := st }).hold x 0x11 .ok f body) ∧
      st.target = (match a.target with
        | none => (s.venue v).settings.target
        | some t => max 480 (min tMax t)) ∧
      st.budget = (match a.budget, a.target with
        | some r, _ => max 1 (min (min 250 (max 1 (st.target / 96 - 1))) r)
        | none, some _ => max 1 (min (min 250 (max 1 (st.target / 96 - 1))) (s.venue v).settings.budget)
        | none, none => (s.venue v).settings.budget) ∧
      st.allowance = (match a.allowance with | none => (s.venue v).settings.allowance | some n => min 20 n) ∧
      st.attempts = (match a.attempts with | none => (s.venue v).settings.attempts | some n => min 2 n) ∧
      st.pathTimeout = (match a.pathTimeout with
        | none => (s.venue v).settings.pathTimeout | some n => max 10 (min 1000 n)) ∧
      st.lossTime = (match a.lossTime with
        | none => (s.venue v).settings.lossTime | some n => max 1 (min 60 n))

/-- R6, R16, R89, R108: VENUE_SET that gives ports binds each path whose port changes DOWN on the new port with nothing learned,
or makes path B ABSENT, and leaves a path whose port does not change as it is. A change that leaves an ACTIVE venue with no
path UP brings HOLDOVER: its trim and interval are discarded and its recovery queue is flushed, every entry counted
CANCELLED, but no PATH_DOWN is reported. Otherwise nothing else changes. -/
def Obligations.VenueSetRebindsPaths : Prop :=
  ∀ (x : Transfer) (s : State) (v : Fin 24) (ga gb : Option (Option Nat)) (pa : Fin 4) (pb : Option (Fin 4))
      (na nb : Path) (a : VenueSetArgs) (lost : Prop),
    Taken x s → (s.venue v).state ≠ .free →
    (ga = some (some pa.val) ∨ ga = none ∧ (s.venue v).pathA.port = some pa) →
    (gb = some (pb.map fun p => p.val) ∨ gb = none ∧ (s.venue v).pathB.port = pb) → pb ≠ some pa →
    a = { key := none, portA := ga, portB := gb, target := none, budget := none, allowance := none,
          attempts := none, pathTimeout := none, lossTime := none } →
    na = (if (s.venue v).pathA.port = some pa then (s.venue v).pathA
      else { port := some pa, state := .down, lastArrival := none, reply := none }) →
    nb = (if (s.venue v).pathB.port = pb then (s.venue v).pathB
      else { port := pb, state := if pb.isSome then .down else .absent, lastArrival := none, reply := none }) →
    (lost ↔ (s.venue v).state = .active ∧ (na ≠ (s.venue v).pathA ∨ nb ≠ (s.venue v).pathB) ∧ na.state ≠ .up ∧
      nb.state ≠ .up) →
    ∃ (t : State) (body : List Byte), exec (.venueSet x v.val a) s = .next (t.hold x 0x11 .ok {} body) ∧
      (¬ lost → t = s.setVenue v { s.venue v with pathA := na, pathB := nb }) ∧
      (lost → (t.venue v).state = .holdover ∧ (t.venue v).holdoverElapsed = 0 ∧
        (t.venue v).holdoverSince = some s.reference.blockCount ∧
        (t.venue v).pathA = na ∧ (t.venue v).pathB = nb ∧
        (t.venue v).recovery = [] ∧
        (t.venue v).timebase = { (s.venue v).timebase with
          rhoT := 0, rhoEff := max (-1073741) (min 1073741 (s.venue v).timebase.rhoP), sum := 0, count := 0 } ∧
        ((s.venue v).health.counter .cancelled ≤ 65535 → (t.venue v).health.counter .cancelled =
          min 65535 ((s.venue v).health.counter .cancelled + (s.venue v).recovery.length)) ∧
        (t.venue v).health.pathDown = (s.venue v).health.pathDown ∧
        (∀ w, w ≠ v → t.venue w = s.venue w) ∧ t = { s with venues := t.venues })

/-- R17: VENUE_RETIRE without FORCE of a venue with an empty circuit list returns its record to FREE and takes
it out of every target set, and nothing else changes; with any circuit in the list it is refused IN_USE. R18, R39, R128: VENUE_RETIRE with FORCE frees every circuit of the list: each slot loses its
references to them and falls back to what is left of its stack, the response counts the references removed, their pool units
are back, and the venue returns straight to FREE; all else but the target sets stays. -/
def Obligations.VenueRetireFreesRecord : Prop :=
  (∀ (x : Transfer) (s : State) (v : Fin 24), Taken x s → (s.venue v).state ≠ .free →
     ((s.venue v).circuits = [] → ∃ t : State,
       exec (.venueRetire x v.val 0) s = .next (t.hold x 0x12 .ok {} [0, 0, 0]) ∧
       t.venue v = Venue.free ∧ (∀ w, w ≠ v → t.venue w = s.venue w) ∧
       (∀ n, t.source n = { s.source n with targets := (t.source n).targets }) ∧
       (∀ n (w : Fin 24), (t.source n).targets.getLsbD w.val =
         (decide (w ≠ v) && (s.source n).targets.getLsbD w.val)) ∧
       t = { s with venues := t.venues, sources := t.sources }) ∧
     ((s.venue v).circuits ≠ [] →
       exec (.venueRetire x v.val 0) s = .next (s.hold x 0x12 .inUse {} []))) ∧
  (∀ (x : Transfer) (s : State) (v : Fin 24), Taken x s → ListLaw s → (s.venue v).state ≠ .free →
     ∃ t : State, exec (.venueRetireForce x v.val) s = .next (t.hold x 0x12 .ok {}
         (be 1 (s.venue v).circuits.length ++ be 2 (s.referencesTo (s.venue v).circuits))) ∧
       t.venue v = Venue.free ∧ (∀ w, w ≠ v → t.venue w = s.venue w) ∧
       (∀ c, t.circuit c = if c ∈ (s.venue v).circuits then Circuit.free else s.circuit c) ∧
       t.poolFree = s.poolFree + ((s.venue v).circuits.map fun c => (s.circuit c).channels * (s.circuit c).window).sum ∧
       (∀ i, ∀ y ∈ (t.slot i).source.toList ++ (t.slot i).stack, y.circuit ∉ (s.venue v).circuits) ∧
       (∀ i, (s.slot i).Dropped (s.venue v).circuits (t.slot i) ∧ (t.slot i).staged = (s.slot i).staged) ∧
       (∀ n, t.source n = { s.source n with targets := (t.source n).targets }) ∧
       (∀ n (w : Fin 24), (t.source n).targets.getLsbD w.val =
         (decide (w ≠ v) && (s.source n).targets.getLsbD w.val)) ∧
       t = { s with venues := t.venues, circuits := t.circuits, slots := t.slots, poolFree := t.poolFree,
                    sources := t.sources })

/-! ### Circuit records and the cell pool -/

/-- R33, R34, R21, R22: an accepted CIRCUIT_OPEN takes the lowest FREE record and c × W units, appends the
index to the venue's list, and sets the record up ARMED with an empty window and h = H. -/
def Obligations.CircuitOpenTakesRecordAndUnits : Prop :=
  ∀ (x : Transfer) (a : CircuitOpenArgs) (s : State) (v : Fin 24) (c : Fin 128) (kind : CircuitKind)
    (ch : Nat) (auto : Bool),
    Taken x s → (s.venue v).state ≠ .free → a.venue = v.val → a.tag ≠ 255 → (ch = 1 ∨ ch = 2) →
    a.window ∈ [64, 128, 256, 512] → (s.venue v).settings.target ≤ (a.window - 4) * 96 →
    (a.form = .direct (kindCode kind) ch ∨ (a.form = .fromAnnouncement ∧
      (s.venue v).announced.find? (fun e => e.tag == a.tag) = some ⟨a.tag, kind, ch⟩)) →
    a.autoRearm = (if auto then some 1 else none) →
    (∀ d ∈ (s.venue v).circuits, (s.circuit d).tag ≠ some a.tag) →
    (s.venue v).circuits.length < 8 → ch * a.window ≤ s.poolFree →
    (s.circuit c).state = .free → (∀ d, d < c → (s.circuit d).state ≠ .free) →
    ∃ (f : Flags) (y : Circuit),
      exec (.circuitOpen x a) s = .next
        (((({ s with poolFree := s.poolFree - ch * a.window }).setCircuit c y).setVenue v
          { s.venue v with circuits := (s.venue v).circuits ++ [c] }).hold x 0x20 .ok f
          (be 1 c.val ++ be 1 (s.venue v).circuits.length ++ be 2 y.level ++ be 2 y.holdInit ++
            be 2 (s.poolFree - ch * a.window))) ∧
      y.state = .armed ∧ y.venue = some v ∧ y.tag = some a.tag ∧ y.kind = kind ∧ y.channels = ch ∧
      y.window = a.window ∧ y.level = min 16383 (a.level.getD 4096) ∧
      y.holdInit = (match a.hold with
        | some h => max 1 (min 65535 h)
        | none => match kind with | .commentary => 2000 | .crowd => 4000 | .coord => 1000) ∧
      y.hold = y.holdInit ∧ y.autoRearm = auto ∧ y.fadeLength = 20 ∧ y.cells = [] ∧ y.newest = none ∧
      y.lastPresent = none ∧ y.lossLatched = false ∧
      [y.placed, y.late, y.duplicate, y.concealed, y.masked] = [0, 0, 0, 0, 0] ∧
      (f.clamped = true ↔ (∃ l, a.level = some l ∧ 16383 < l) ∨
        (∃ h, a.hold = some h ∧ (h = 0 ∨ 65535 < h)))

/-- R2, R15, R33: VENUE_OPEN and CIRCUIT_OPEN are refused with the first result that applies, in the order of
their checks, and a refused request changes nothing but the control port. R16, R17, R18: VENUE_SET and VENUE_RETIRE are refused BAD_REFERENCE for no
open venue, VENUE_SET BAD_VALUE for key 0, a port above 3 or the same port twice and DUPLICATE_KEY for the key of another open venue.
R122: a command that sets a slot's source is refused BAD_REFERENCE for a slot above 127, a reference that
does not resolve or a channel not below the circuit's count, and BAD_STATE for a CLOSING circuit. R170: a retire option or a source flag of 2 or
more is refused BAD_VALUE after those checks (section 11.2.3 and log 13). -/
def Obligations.RefusalsInOrderOfChecks : Prop :=
  ((∀ (x : Transfer) (a : VenueOpenArgs) (s : State), Taken x s →
      ((a.key = 0 ∨ a.portA = none ∨ (∃ p, a.portA = some p ∧ 3 < p) ∨ (∃ p, a.portB = some p ∧ 3 < p) ∨
          a.portA = a.portB) →
        exec (.venueOpen x a) s = .next (s.hold x 0x10 .badValue {} [])) ∧
      (∀ (pa : Fin 4) (pb : Option (Fin 4)), a.key ≠ 0 → a.portA = some pa.val →
        a.portB = pb.map (fun p => p.val) → pb ≠ some pa →
        ((∃ w, (s.venue w).state ≠ .free ∧ (s.venue w).key = a.key) →
          exec (.venueOpen x a) s = .next (s.hold x 0x10 .duplicateKey {} [])) ∧
        ((∀ w, (s.venue w).state ≠ .free ∧ (s.venue w).key ≠ a.key) →
          exec (.venueOpen x a) s = .next (s.hold x 0x10 .noCapacity {} [])))) ∧
   (∀ (x : Transfer) (a : CircuitOpenArgs) (s : State), Taken x s →
      (24 ≤ a.venue → exec (.circuitOpen x a) s = .next (s.hold x 0x20 .badReference {} [])) ∧
      (∀ v : Fin 24, a.venue = v.val →
        ((s.venue v).state = .free →
          exec (.circuitOpen x a) s = .next (s.hold x 0x20 .badReference {} [])) ∧
        ((s.venue v).state ≠ .free →
          (a.form = .fromAnnouncement → (∀ e ∈ (s.venue v).announced, e.tag ≠ a.tag) →
            exec (.circuitOpen x a) s = .next (s.hold x 0x20 .notAnnounced {} [])) ∧
          (∀ kind ch, a.form = .direct kind ch →
            ((a.tag = 255 ∨ kind ∉ [1, 2, 3] ∨ ch ∉ [1, 2] ∨ a.window ∉ [64, 128, 256, 512] ∨
                (a.window - 4) * 96 < (s.venue v).settings.target) →
              exec (.circuitOpen x a) s = .next (s.hold x 0x20 .badValue {} [])) ∧
            (a.tag ≠ 255 → kind ∈ [1, 2, 3] → ch ∈ [1, 2] → a.window ∈ [64, 128, 256, 512] →
                (s.venue v).settings.target ≤ (a.window - 4) * 96 →
              ((∃ d ∈ (s.venue v).circuits, (s.circuit d).tag = some a.tag) →
                exec (.circuitOpen x a) s = .next (s.hold x 0x20 .duplicateKey {} [])) ∧
              ((∀ d ∈ (s.venue v).circuits, (s.circuit d).tag ≠ some a.tag) →
                (8 ≤ (s.venue v).circuits.length ∨ s.poolFree < ch * a.window ∨
                  ∀ d, (s.circuit d).state ≠ .free) →
                exec (.circuitOpen x a) s = .next (s.hold x 0x20 .noCapacity {} [])))))))) ∧
  (∀ (x : Transfer) (s : State), Taken x s →
     (∀ (n : Nat) (src : SourceArg), 128 ≤ n →
       exec (.slotAssign x n src) s = .next (s.hold x 0x50 .badReference {} []) ∧
       exec (.slotPunch x n src) s = .next (s.hold x 0x51 .badReference {} []) ∧
       exec (.slotRelease x n) s = .next (s.hold x 0x52 .badReference {} [])) ∧
     (∀ (i : Fin 128) (r : CircuitRef) (ch : Nat),
       (s.resolve r = none ∨ (∃ c, s.resolve r = some c ∧ (s.circuit c).channels ≤ ch) →
         exec (.slotAssign x i.val (.channel r ch)) s = .next (s.hold x 0x50 .badReference {} []) ∧
         exec (.slotPunch x i.val (.channel r ch)) s = .next (s.hold x 0x51 .badReference {} [])) ∧
       (∀ c, s.resolve r = some c → ch < (s.circuit c).channels → (s.circuit c).state = .closing →
         exec (.slotAssign x i.val (.channel r ch)) s = .next (s.hold x 0x50 .badState {} []) ∧
         exec (.slotPunch x i.val (.channel r ch)) s = .next (s.hold x 0x51 .badState {} [])) ∧
       (∀ flag, s.resolve r = none ∨ (∃ c, s.resolve r = some c ∧ (s.circuit c).channels ≤ ch) →
         exec (.slotAssign x i.val (.badFlag flag r ch)) s = .next (s.hold x 0x50 .badReference {} []) ∧
         exec (.slotPunch x i.val (.badFlag flag r ch)) s = .next (s.hold x 0x51 .badReference {} [])) ∧
       (∀ flag c, s.resolve r = some c → ch < (s.circuit c).channels →
         exec (.slotAssign x i.val (.badFlag flag r ch)) s = .next (s.hold x 0x50
           (if (s.circuit c).state = .closing then .badState else .badValue) {} []) ∧
         exec (.slotPunch x i.val (.badFlag flag r ch)) s = .next (s.hold x 0x51
           (if (s.circuit c).state = .closing then .badState else .badValue) {} [])))) ∧
  (∀ (x : Transfer) (a : VenueSetArgs) (s : State), Taken x s →
      (∀ n, (24 ≤ n ∨ ∃ v : Fin 24, n = v.val ∧ (s.venue v).state = .free) →
        exec (.venueSet x n a) s = .next (s.hold x 0x11 .badReference {} []) ∧
        (∀ option, exec (.venueRetire x n option) s = .next (s.hold x 0x12 .badReference {} [])) ∧
        exec (.venueRetireForce x n) s = .next (s.hold x 0x12 .badReference {} [])) ∧
      (∀ v : Fin 24, (s.venue v).state ≠ .free →
        ((a.key = some 0 ∨ a.portA = some none ∨ (∃ p, a.portA = some (some p) ∧ 3 < p) ∨
            (∃ p, a.portB = some (some p) ∧ 3 < p) ∨
            (∃ p, a.portA = some (some p) ∧ a.portB = some (some p)) ∨
            (∃ p : Fin 4, a.portA = some (some p.val) ∧ a.portB = none ∧ (s.venue v).pathB.port = some p) ∨
            (∃ p : Fin 4, a.portB = some (some p.val) ∧ a.portA = none ∧ (s.venue v).pathA.port = some p)) →
          exec (.venueSet x v.val a) s = .next (s.hold x 0x11 .badValue {} [])) ∧
        (∀ k w, a.portA = none → a.portB = none → (s.venue v).pathA.port ≠ (s.venue v).pathB.port →
          a.key = some k → k ≠ 0 → w ≠ v → (s.venue w).state ≠ .free → (s.venue w).key = k →
          exec (.venueSet x v.val a) s = .next (s.hold x 0x11 .duplicateKey {} [])) ∧
        (∀ option, 2 ≤ option → exec (.venueRetire x v.val option) s =
          .next (s.hold x 0x12 (if (s.venue v).circuits = [] then .badValue else .inUse) {} []))))

/-- R35: CIRCUIT_SET clamps and stores the settings it gives and adjusts h to a new H by the circuit's state;
CLOSING is refused BAD_STATE, and a reference that does not resolve BAD_REFERENCE. R36: CIRCUIT_TRIM adds the delta, clamped to ±16,383 (CLAMPED), to the level and stores the sum saturated
to 0 to 16,383 (SATURATED); CLOSING is refused BAD_STATE. Nothing else of the circuit changes. R37: CIRCUIT_REARM makes a LOST circuit ARMED with h = H, reloads h of a CONCEALING one, leaves an ARMED or
RUNNING one as it is, and is refused BAD_STATE in CLOSING. The loss-latched flag stays. -/
def Obligations.CircuitSettingsFollowCommands : Prop :=
  (∀ (x : Transfer) (a : CircuitSetArgs) (r : CircuitRef) (s : State), Taken x s →
     (s.resolve r = none → exec (.circuitSet x a r) s = .next (s.hold x 0x21 .badReference {} [])) ∧
     (∀ c, s.resolve r = some c →
       ((s.circuit c).state = .closing →
         exec (.circuitSet x a r) s = .next (s.hold x 0x21 .badState {} [])) ∧
       ((s.circuit c).state ≠ .closing → (∀ k, a.autoRearm = some k → k ≤ 1) →
         ∃ (f : Flags) (y : Circuit),
           exec (.circuitSet x a r) s = .next ((s.setCircuit c y).hold x 0x21 .ok f
             (be 2 y.level ++ be 2 y.holdInit ++ [if y.autoRearm then 1 else 0] ++ be 1 y.fadeLength)) ∧
           y = { s.circuit c with level := y.level, holdInit := y.holdInit, hold := y.hold,
                                  autoRearm := y.autoRearm, fadeLength := y.fadeLength } ∧
           y.level = (match a.level with | none => (s.circuit c).level | some l => min 16383 l) ∧
           y.holdInit = (match a.hold with
             | none => (s.circuit c).holdInit | some h => max 1 (min 65535 h)) ∧
           y.hold = (match a.hold, (s.circuit c).state with
             | some _, .armed | some _, .running => y.holdInit
             | some _, .concealing => min (s.circuit c).hold y.holdInit
             | _, _ => (s.circuit c).hold) ∧
           y.autoRearm = (match a.autoRearm with | none => (s.circuit c).autoRearm | some k => k == 1) ∧
           y.fadeLength = (match a.fade with | none => (s.circuit c).fadeLength | some k => min 255 k) ∧
           (f.clamped = true ↔ (∃ l, a.level = some l ∧ 16383 < l) ∨
             (∃ h, a.hold = some h ∧ (h = 0 ∨ 65535 < h)) ∨ (∃ k, a.fade = some k ∧ 255 < k)) ∧
           f = { clamped := f.clamped }))) ∧
  (∀ (x : Transfer) (d : Int) (r : CircuitRef) (s : State), Taken x s →
     (s.resolve r = none → exec (.circuitTrim x d r) s = .next (s.hold x 0x22 .badReference {} [])) ∧
     (∀ c, s.resolve r = some c →
       ((s.circuit c).state = .closing →
         exec (.circuitTrim x d r) s = .next (s.hold x 0x22 .badState {} [])) ∧
       ((s.circuit c).state ≠ .closing → ∃ (delta : Int) (level : Nat),
         exec (.circuitTrim x d r) s = .next ((s.setCircuit c { s.circuit c with level := level }).hold x 0x22
           .ok { clamped := decide (d < -16383 ∨ 16383 < d)
                 saturated := decide ((s.circuit c).level + delta < 0 ∨ 16383 < (s.circuit c).level + delta) }
           (be 2 level)) ∧
         ((d < -16383 ∧ delta = -16383) ∨ (-16383 ≤ d ∧ d ≤ 16383 ∧ delta = d) ∨ (16383 < d ∧ delta = 16383)) ∧
         (((s.circuit c).level + delta < 0 ∧ level = 0) ∨ (16383 < (s.circuit c).level + delta ∧ level = 16383) ∨
           (0 ≤ (s.circuit c).level + delta ∧ (s.circuit c).level + delta ≤ 16383 ∧
             (level : Int) = (s.circuit c).level + delta))))) ∧
  (∀ (x : Transfer) (r : CircuitRef) (s : State), Taken x s →
     (s.resolve r = none → exec (.circuitRearm x r) s = .next (s.hold x 0x23 .badReference {} [])) ∧
     (∀ c, s.resolve r = some c →
       ((s.circuit c).state = .closing → exec (.circuitRearm x r) s = .next (s.hold x 0x23 .badState {} [])) ∧
       ((s.circuit c).state = .lost → exec (.circuitRearm x r) s = .next ((s.setCircuit c
         { s.circuit c with state := .armed, hold := (s.circuit c).holdInit }).hold x 0x23 .ok {}
           (1 :: be 2 (s.circuit c).holdInit))) ∧
       ((s.circuit c).state = .concealing → exec (.circuitRearm x r) s = .next ((s.setCircuit c
         { s.circuit c with hold := (s.circuit c).holdInit }).hold x 0x23 .ok {}
           (3 :: be 2 (s.circuit c).holdInit))) ∧
       ((s.circuit c).state = .armed → exec (.circuitRearm x r) s =
         .next (s.hold x 0x23 .ok {} (1 :: be 2 (s.circuit c).hold))) ∧
       ((s.circuit c).state = .running → exec (.circuitRearm x r) s =
         .next (s.hold x 0x23 .ok {} (2 :: be 2 (s.circuit c).hold)))))

/-- R38, R39, R128: CIRCUIT_RETIRE with FADE of a RUNNING or CONCEALING circuit with F ≥ 1 makes it CLOSING with r = F
and keeps everything else; of a CLOSING circuit it is refused; in every other case, and with IMMEDIATE in every
state, the circuit is freed: its record is FREE, its units are back, it stands in no list and no
recovery entry, each slot loses its references to it and falls back to what is left of its stack, and the response counts
the references removed. A seated venue left without circuits is WAITING (R12), without its read phase and its walk; otherwise
the venue's record stays, and so does everything else. -/
def Obligations.CircuitRetireFreesOrFades : Prop :=
  ∀ (x : Transfer) (r : CircuitRef) (s : State) (c : Fin 128), Taken x s → s.resolve r = some c →
    ((s.circuit c).state = .closing →
      exec (.circuitRetire x r 1) s = .next (s.hold x 0x24 .badState {} [])) ∧
    (((s.circuit c).state = .running ∨ (s.circuit c).state = .concealing) → 1 ≤ (s.circuit c).fadeLength →
      exec (.circuitRetire x r 1) s = .next ((s.setCircuit c { s.circuit c with
        state := .closing, fade := (s.circuit c).fadeLength }).hold x 0x24 .ok {}
          (be 1 (s.circuit c).fadeLength))) ∧
    (∀ (option : Nat) (v : Fin 24), ListLaw s → (s.circuit c).venue = some v →
      (option = 0 ∨ (option = 1 ∧ ((s.circuit c).state = .armed ∨ (s.circuit c).state = .lost ∨
        ((s.circuit c).state ≠ .closing ∧ (s.circuit c).fadeLength = 0)))) →
      ∃ t : State, exec (.circuitRetire x r option) s =
          .next (t.hold x 0x24 .ok {} (be 2 (s.referencesTo [c]) ++ be 2 t.poolFree)) ∧
        t.circuit c = Circuit.free ∧
        (t.venue v).circuits = (s.venue v).circuits.filter (fun d => d != c) ∧
        (∀ e ∈ (t.venue v).recovery, e.circuit ≠ c) ∧
        (∀ i, ∀ y ∈ (t.slot i).source.toList ++ (t.slot i).stack, y.circuit ≠ c) ∧
        (∀ i, (s.slot i).Dropped [c] (t.slot i) ∧ (t.slot i).staged = (s.slot i).staged) ∧
        t.poolFree = s.poolFree + (s.circuit c).channels * (s.circuit c).window ∧
        (∀ d, d ≠ c → t.circuit d = s.circuit d) ∧ (∀ w, w ≠ v → t.venue w = s.venue w) ∧
        (t.venue v).state = (if (s.venue v).circuits = [c] ∧
            ((s.venue v).state = .active ∨ (s.venue v).state = .holdover) then .waiting
          else (s.venue v).state) ∧
        (¬ ((s.venue v).circuits = [c] ∧ ((s.venue v).state = .active ∨ (s.venue v).state = .holdover)) →
          t.venue v = { s.venue v with
            circuits := (s.venue v).circuits.filter (fun d => d != c)
            recovery := (s.venue v).recovery.filter fun e => e.circuit != c }) ∧
        ((s.venue v).circuits = [c] → ((s.venue v).state = .active ∨ (s.venue v).state = .holdover) →
          t.venue v = { s.venue v with
            state := .waiting, circuits := [], recovery := [], newest := none, aheadStreak := 0, lateStreak := 0
            holdoverElapsed := 0, holdoverSince := none, health := (t.venue v).health
            timebase := { (s.venue v).timebase with
              phase := none, rhoT := 0, rhoEff := (s.venue v).timebase.rhoP, loop := .acquiring, sum := 0, count := 0
              lockRun := 0, unlockRun := 0, active := false, countdown := (t.venue v).timebase.countdown } }) ∧
        t = { s with venues := t.venues, circuits := t.circuits, slots := t.slots, poolFree := t.poolFree })

/-! ### Port settings and venue rates -/

/-- R58, R56, R170: PORT_SET stores the settings it gives and leaves the others, after its two refusals; a port
turned off drops its queue, each frame counted as transmit dropped. That the group bit of a station address is bit 40 is the model's
(log 14); that a domain flag of 2 or more is refused with the other values is section 11.2.3 and log 13. -/
def Obligations.PortSetStoresSettings : Prop :=
  ∀ (x : Transfer) (a : PortSetArgs) (s : State), Taken x s →
    (∀ n, 4 ≤ n → exec (.portSet x n a) s = .next (s.hold x 0x30 .badReference {} [])) ∧
    (∀ p : Fin 4,
      ((∃ e, a.etherType = some e ∧ (e.toNat < 0x0600 ∨ e = 0x8100 ∨ e = 0x88A8)) ∨
          (∃ m, a.tagMode = some m ∧ 2 < m) ∨ (∃ d, a.domain = some (.value d) ∧ 255 < d) ∨ (∃ k, a.domain = some (.badFlag k)) ∨
          (∃ m, a.address = some m ∧ m.getLsbD 40 = true) ∨
          (((a.enable = none ∧ (s.port p).enable = true) ∨ a.enable = some 1) ∧
            a.address.getD (s.port p).address = 0) →
        exec (.portSet x p.val a) s = .next (s.hold x 0x30 .badValue {} [])) ∧
      ((∀ e, a.etherType = some e → 0x0600 ≤ e.toNat ∧ e ≠ 0x8100 ∧ e ≠ 0x88A8) →
        (∀ m, a.tagMode = some m → m ≤ 2) → (∀ d, a.domain = some d → d = .off ∨ ∃ k ≤ 255, d = .value k) →
        (∀ m, a.address = some m → m.getLsbD 40 = false) → (∀ k, a.enable = some k → k ≤ 1) →
        (((a.enable = none ∧ (s.port p).enable = true) ∨ a.enable = some 1) →
          a.address.getD (s.port p).address ≠ 0) →
        ∃ y : Port,
          exec (.portSet x p.val a) s = .next ((s.setPort p y).hold x 0x30 .ok {} (portSettings y)) ∧
          y.enable = (match a.enable with | none => (s.port p).enable | some k => k == 1) ∧
          y.address = a.address.getD (s.port p).address ∧
          y.etherType = a.etherType.getD (s.port p).etherType ∧
          y.tagMode = (match a.tagMode with
            | none => (s.port p).tagMode | some 0 => .none | some 1 => .one | some _ => .two) ∧
          y.domain = (match a.domain with
            | some .off => none
            | some (.value d) => some (BitVec.ofNat 8 d)
            | _ => (s.port p).domain) ∧
          (((s.port p).enable = false ∨ y.enable = true) →
            y.queue = (s.port p).queue ∧ y.dropped = (s.port p).dropped) ∧
          ((s.port p).enable = true → y.enable = false →
            y.queue = [] ∧ y.dropped = min 65535 ((s.port p).dropped + (s.port p).queue.length)) ∧
          y = { s.port p with enable := y.enable, address := y.address, etherType := y.etherType,
                              tagMode := y.tagMode, domain := y.domain, queue := y.queue, dropped := y.dropped }))

/-- R92: VENUE_RATE is refused BAD_REFERENCE for no open venue, BAD_VALUE for a rate with no mode; an
accepted one stores σ, z and the rate-frozen setting, and with IMMEDIATE sets ρ_p at once and cancels a walk;
Σ, n, the runs and the loop state are left. R170: a mode code of 2 or more is refused BAD_VALUE, also with no rate given (section 11.2.3 and log
13). R93: VENUE_RATE with STEPPED of a seated venue starts or replaces a walk toward the clamped target, or
goes idle when ρ_p stands there already; ρ_p and ρ_eff stay. A WAITING venue is refused BAD_STATE. -/
def Obligations.VenueRateSetsRates : Prop :=
  (∀ (x : Transfer) (a : RateArgs) (mode : Option Nat) (s : State), Taken x s → mode ≠ some 1 →
     (∀ n, (24 ≤ n ∨ ∃ v : Fin 24, n = v.val ∧ (s.venue v).state = .free) →
       exec (.venueRate x n mode a) s = .next (s.hold x 0x41 .badReference {} [])) ∧
     (∀ v : Fin 24, (s.venue v).state ≠ .free →
       ((∃ k, mode = some k ∧ 2 ≤ k) ∨ (mode = none ∧ a.rate ≠ none) →
         exec (.venueRate x v.val mode a) s = .next (s.hold x 0x41 .badValue {} [])) ∧
       ((mode = some 0 ∨ (mode = none ∧ a.rate = none)) → (∀ k, a.frozen = some k → k ≤ 2) →
         ∃ (t : Timebase),
           exec (.venueRate x v.val mode a) s =
             .next ((s.setVenue v { s.venue v with timebase := t }).hold x 0x41 .ok
               { clamped := decide ((∃ r, a.rate = some r ∧ (r < -1073741 ∨ 1073741 < r)) ∨
                   (∃ k, a.step = some k ∧ (k = 0 ∨ 65535 < k)) ∨
                   (∃ k, a.settle = some k ∧ (k = 0 ∨ 127 < k))) } (rateReport t)) ∧
           t.step = (match a.step with
             | none => (s.venue v).timebase.step | some k => max 1 (min 65535 k)) ∧
           t.settle = (match a.settle with
             | none => (s.venue v).timebase.settle | some k => max 1 (min 127 k)) ∧
           t.frozen = (match a.frozen with
             | some 1 => true | some 2 => false | _ => (s.venue v).timebase.frozen) ∧
           (∀ r, a.rate = some r → t.rhoCmd = max (-1073741) (min 1073741 r) ∧ t.rhoP = t.rhoCmd ∧
             t.rhoEff = max (-1073741) (min 1073741 (t.rhoP + (s.venue v).timebase.rhoT)) ∧ t.active = false ∧
             t.countdown = (if (s.venue v).timebase.active then 0 else (s.venue v).timebase.countdown)) ∧
           (a.rate = none → t.rhoCmd = (s.venue v).timebase.rhoCmd ∧ t.rhoP = (s.venue v).timebase.rhoP ∧
             t.rhoEff = (s.venue v).timebase.rhoEff ∧ t.active = (s.venue v).timebase.active ∧
             t.countdown = (s.venue v).timebase.countdown) ∧
           t = { (s.venue v).timebase with
                 step := t.step, settle := t.settle, frozen := t.frozen, rhoCmd := t.rhoCmd, rhoP := t.rhoP,
                 rhoEff := t.rhoEff, active := t.active, countdown := t.countdown }))) ∧
  (∀ (x : Transfer) (s : State) (v : Fin 24) (r : Int) (step settle frozen : Option Nat), Taken x s →
     (∀ k, frozen = some k → k ≤ 2) →
     ((s.venue v).state = .free → exec (.venueRateStepped x v.val ⟨some r, step, settle, frozen⟩) s =
       .next (s.hold x 0x41 .badReference {} [])) ∧
     ((s.venue v).state = .waiting → exec (.venueRateStepped x v.val ⟨some r, step, settle, frozen⟩) s =
       .next (s.hold x 0x41 .badState {} [])) ∧
     ((s.venue v).state = .active ∨ (s.venue v).state = .holdover → ∃ (f : Flags) (t : Timebase),
       exec (.venueRateStepped x v.val ⟨some r, step, settle, frozen⟩) s =
         .next ((s.setVenue v { s.venue v with timebase := t }).hold x 0x41 .ok f (rateReport t)) ∧
       t.rhoCmd = max (-1073741) (min 1073741 r) ∧
       t.step = (match step with | none => (s.venue v).timebase.step | some k => max 1 (min 65535 k)) ∧
       t.settle = (match settle with | none => (s.venue v).timebase.settle | some k => max 1 (min 127 k)) ∧
       (t.rhoCmd ≠ (s.venue v).timebase.rhoP → t.active = true ∧ t.countdown = t.settle) ∧
       (t.rhoCmd = (s.venue v).timebase.rhoP → t.active = false ∧ t.countdown = 0) ∧
       t = { (s.venue v).timebase with
             step := t.step, settle := t.settle, frozen := t.frozen, rhoCmd := t.rhoCmd, active := t.active, countdown := t.countdown }))

/-! ### Output slots -/

/-- R123, R125: SLOT_ASSIGN replaces the current source, NONE included, and nothing else; SLOT_RELEASE brings
the top of the stack back as the current source, or NONE with EMPTY. -/
def Obligations.SlotAssignAndRelease : Prop :=
  ∀ (x : Transfer) (s : State) (i : Fin 128), Taken x s →
    exec (.slotAssign x i.val .silence) s =
      .next ((s.setSlot i { s.slot i with source := none }).hold x 0x50 .ok {}
        (slotReport { s.slot i with source := none })) ∧
    (∀ r c ch, s.resolve r = some c → ch < (s.circuit c).channels → (s.circuit c).state ≠ .closing →
      exec (.slotAssign x i.val (.channel r ch)) s =
        .next ((s.setSlot i { s.slot i with source := some ⟨c, ch⟩ }).hold x 0x50 .ok {}
          (slotReport { s.slot i with source := some ⟨c, ch⟩ }))) ∧
    ((s.slot i).stack = [] → exec (.slotRelease x i.val) s =
      .next ((s.setSlot i { s.slot i with source := none }).hold x 0x52 .ok { empty := true }
        (slotReport { s.slot i with source := none }))) ∧
    (∀ top rest, (s.slot i).stack = top :: rest → exec (.slotRelease x i.val) s =
      .next ((s.setSlot i { s.slot i with source := some top, stack := rest }).hold x 0x52 .ok {}
        (slotReport { s.slot i with source := some top, stack := rest })))

/-- R124: SLOT_PUNCH pushes the old current source onto the stack and sets the new one; a full stack loses its
bottom entry, which the response carries with DISPLACED; over NONE nothing is pushed. That the displaced entry stands last in the response, as two bytes, is the
model's choice (log 9). -/
def Obligations.SlotPunchPushesOldSource : Prop :=
  ∀ (x : Transfer) (s : State) (i : Fin 128) (arg : SourceArg) (src : Option SlotSource), Taken x s →
    ((arg = .silence ∧ src = none) ∨ (∃ r c ch, arg = .channel r ch ∧ s.resolve r = some c ∧
      ch < (s.circuit c).channels ∧ (s.circuit c).state ≠ .closing ∧ src = some ⟨c, ch⟩)) →
    ((s.slot i).source = none → (s.slot i).stack.length ≤ 4 → exec (.slotPunch x i.val arg) s =
      .next ((s.setSlot i { s.slot i with source := src }).hold x 0x51 .ok {}
        (slotReport { s.slot i with source := src }))) ∧
    (∀ old, (s.slot i).source = some old → (s.slot i).stack.length ≤ 3 → exec (.slotPunch x i.val arg) s =
      .next ((s.setSlot i { s.slot i with source := src, stack := old :: (s.slot i).stack }).hold x 0x51 .ok {}
        (slotReport { s.slot i with source := src, stack := old :: (s.slot i).stack }))) ∧
    (∀ old e1 e2 e3 e4, (s.slot i).source = some old → (s.slot i).stack = [e1, e2, e3, e4] →
      exec (.slotPunch x i.val arg) s =
        .next ((s.setSlot i { s.slot i with source := src, stack := [old, e1, e2, e3] }).hold x 0x51 .ok
          { displaced := true }
          (slotReport { s.slot i with source := src, stack := [old, e1, e2, e3] } ++
            (be 1 e4.circuit.val ++ be 1 e4.channel))))

/-- R127: MUTE_MODIFY changes the mute flags of one bus by its mode and nothing else, and answers the bus's 32
flags; it is refused for a bus above 3, and for a mode that is none of the three. That bit s of a mask stands for slot s of the bus, and that the flags are answered as
one mask of 4 bytes, is the model's choice (log 35). -/
def Obligations.MuteModifyChangesOneBus : Prop :=
  ∀ (x : Transfer) (s : State) (mask : BitVec 32), Taken x s →
    (∀ n m, 4 ≤ n → exec (.muteModify x n mask m) s = .next (s.hold x 0x54 .badReference {} [])) ∧
    (∀ (n : Fin 4) m, 3 ≤ m → exec (.muteModify x n.val mask m) s = .next (s.hold x 0x54 .badValue {} [])) ∧
    (∀ (n : Fin 4) (m : Nat), m ≤ 2 → ∃ (t : State) (flags : BitVec 32),
      exec (.muteModify x n.val mask m) s = .next (t.hold x 0x54 .ok {} (be 4 flags.toNat)) ∧
      (∀ i, t.slot i = { s.slot i with muted := (t.slot i).muted }) ∧
      (∀ i : Fin 128, i.val / 32 ≠ n.val → (t.slot i).muted = (s.slot i).muted) ∧
      (∀ i : Fin 128, i.val / 32 = n.val →
        (t.slot i).muted = (if m = 0 then mask.getLsbD (i.val % 32)
          else if m = 1 then ((s.slot i).muted || mask.getLsbD (i.val % 32))
          else ((s.slot i).muted && !mask.getLsbD (i.val % 32))) ∧
        flags.getLsbD (i.val % 32) = (t.slot i).muted) ∧
      t = { s with slots := t.slots })

/-! ### Foldback and talkback commands -/

/-- R141 to R144, R136, R137: a source command changes its source and answers its report. At the same event a lane
that the source holds and no longer asks for goes to GAP for two blocks, and an enabled IDLE lane that it
begins to ask for arbitrates, and goes to it where no other source asks. No other lane changes. R144: TARGET_MODIFY under REPLACE and SET drops the positions of its mask that name FREE venues and then
carries CLAMPED; a mode that is none of the three is refused. R141 to R144: a source index above 15 is refused. That bit n of a venue
mask stands for venue n is the model's choice (log 35). -/
def Obligations.SourceCommandsChangeTheirSource : Prop :=
  (∀ (x : Transfer) (s : State) (n : Fin 16) (c : Instr) (code : Byte) (f : Flags) (y : Source), Taken x s →
     ((c = .sourceSet x n.val none ∧ code = 0x60 ∧ f = {} ∧ y = s.source n) ∨
      (∃ e ≤ 1, c = .sourceSet x n.val (some e) ∧ code = 0x60 ∧ f = {} ∧
         y = { s.source n with lineEnable := e == 1 }) ∨
      (∃ d, c = .sourceKey x n.val d ∧ code = 0x61 ∧ f = {} ∧
         y = { s.source n with softKey := true, remaining := d }) ∨
      (c = .sourceUnkey x n.val ∧ (s.source n).softKey = true ∧ code = 0x62 ∧ f = {} ∧
         y = { s.source n with softKey := false, remaining := 0 }) ∨
      (c = .sourceUnkey x n.val ∧ (s.source n).softKey = false ∧ code = 0x62 ∧ f = {} ∧ y = s.source n) ∨
      (∃ m : BitVec 24, (∀ v : Fin 24, m.getLsbD v.val = true → (s.venue v).state ≠ .free) ∧ code = 0x63 ∧
         f = {} ∧ c = .targetModify x n.val m 0 ∧ y = { s.source n with targets := m }) ∨
      (∃ m : BitVec 24, (∀ v : Fin 24, m.getLsbD v.val = true → (s.venue v).state ≠ .free) ∧ code = 0x63 ∧
         f = {} ∧ c = .targetModify x n.val m 1 ∧ y = { s.source n with targets := (s.source n).targets ||| m }) ∨
      (∃ m : BitVec 24, code = 0x63 ∧ f = {} ∧ c = .targetModify x n.val m 2 ∧
         y = { s.source n with targets := (s.source n).targets &&& ~~~m })) →
     ∃ t : State, exec c s = .next (t.hold x code .ok f (sourceReport t n)) ∧
       t = { s.setSource n y with venues := t.venues } ∧
       (∀ v, t.venue v = { s.venue v with lane := (t.venue v).lane }) ∧
       (∀ v, (t.venue v).lane =
         if (s.source n).wants v = true ∧ y.wants v = false ∧ (s.venue v).lane.state = .held n then
           { (s.venue v).lane with state := .gap 2 }
         else if (s.source n).wants v = false ∧ y.wants v = true ∧ (s.venue v).lane.enable = true ∧
             (s.venue v).lane.state = .idle then
           (t.venue v).lane
         else (s.venue v).lane) ∧
       (∀ v, (s.source n).wants v = false → y.wants v = true → (s.venue v).lane.enable = true →
         (s.venue v).lane.state = .idle → (∀ k, k ≠ n → (s.source k).wants v = false) →
         (t.venue v).lane = { (s.venue v).lane with state := .held n, lastHolder := some n })) ∧
  (∀ (x : Transfer) (s : State) (n : Fin 16) (m : BitVec 24), Taken x s →
     (∀ mode, 3 ≤ mode → exec (.targetModify x n.val m mode) s = .next (s.hold x 0x63 .badValue {} [])) ∧
     (∀ k, 16 ≤ k →
       (∀ e, exec (.sourceSet x k e) s = .next (s.hold x 0x60 .badReference {} [])) ∧
       (∀ d, exec (.sourceKey x k d) s = .next (s.hold x 0x61 .badReference {} [])) ∧
       exec (.sourceUnkey x k) s = .next (s.hold x 0x62 .badReference {} []) ∧
       ∀ mode, exec (.targetModify x k m mode) s = .next (s.hold x 0x63 .badReference {} [])) ∧
     (∀ (v : Fin 24) (mode : Nat), m.getLsbD v.val = true → (s.venue v).state = .free → mode ≤ 1 →
       ∃ t : State, exec (.targetModify x n.val m mode) s =
           .next (t.hold x 0x63 .ok { clamped := true } (sourceReport t n)) ∧
         ∀ w : Fin 24, (t.source n).targets.getLsbD w.val =
           ((m.getLsbD w.val && (s.venue w).isOpen) || (mode == 1 && (s.source n).targets.getLsbD w.val))))

/-- R145, R136: LANE_SET stores the settings it gives. Turning the enable on clears the half-frame buffer and
arbitrates; turning it off makes the lane IDLE and clears the buffer; sequence and last holder are kept. R147: ARBITER_MODE stores the mode, 0 FIXED or 1 ROTATING, and answers it; any other value is refused
BAD_VALUE. No lane changes. -/
def Obligations.LaneSetAndArbiterMode : Prop :=
  (∀ (x : Transfer) (s : State) (a : LaneSetArgs), Taken x s →
     (∀ n, (24 ≤ n ∨ ∃ v : Fin 24, n = v.val ∧ (s.venue v).state = .free) →
       exec (.laneSet x n a) s = .next (s.hold x 0x64 .badReference {} [])) ∧
     (∀ v : Fin 24, (s.venue v).state ≠ .free →
       ((∃ k, a.cleanSlot = some (some k) ∧ (k < 16 ∨ 31 < k)) →
         exec (.laneSet x v.val a) s = .next (s.hold x 0x64 .badValue {} [])) ∧
       ((∀ k, a.cleanSlot = some (some k) → 16 ≤ k ∧ k ≤ 31) → (∀ k, a.enable = some k → k ≤ 1) →
         ∃ (t : State) (l : Lane),
           exec (.laneSet x v.val a) s = .next (t.hold x 0x64 .ok
             { clamped := decide (∃ d, a.duck = some d ∧ 15 < d) } (laneReport t v)) ∧
           t = s.setVenue v { s.venue v with lane := l } ∧
           l.enable = (match a.enable with | none => (s.venue v).lane.enable | some k => k == 1) ∧
           l.cleanSlot.map (fun k => k.val) = (match a.cleanSlot with
             | none => (s.venue v).lane.cleanSlot.map (fun k => k.val) | some k => k) ∧
           l.duck = (match a.duck with | none => (s.venue v).lane.duck | some d => min 15 d) ∧
           l.sequence = (s.venue v).lane.sequence ∧
           (l.enable = (s.venue v).lane.enable → l.state = (s.venue v).lane.state ∧
             l.half = (s.venue v).lane.half ∧ l.lastHolder = (s.venue v).lane.lastHolder) ∧
           (l.enable = false → (s.venue v).lane.enable = true → l.state = .idle ∧ l.half = silentBlock ∧
             l.lastHolder = (s.venue v).lane.lastHolder) ∧
           (l.enable = true → (s.venue v).lane.enable = false → l.half = silentBlock ∧
             (∀ n : Fin 16, (s.source n).wants v = true → (∀ k, k ≠ n → (s.source k).wants v = false) →
               l.state = .held n ∧ l.lastHolder = some n) ∧
             ((∀ n, (s.source n).wants v = false) → l.state = .idle ∧
               l.lastHolder = (s.venue v).lane.lastHolder))))) ∧
  (∀ (x : Transfer) (s : State), Taken x s →
     exec (.arbiterMode x 0) s = .next (({ s with arbiter := .fixed }).hold x 0x66 .ok {} [0]) ∧
     exec (.arbiterMode x 1) s = .next (({ s with arbiter := .rotating }).hold x 0x66 .ok {} [1]) ∧
     (∀ m, 2 ≤ m → exec (.arbiterMode x m) s = .next (s.hold x 0x66 .badValue {} [])))

/-- R136, R138: the lane goes to the first asking source in priority order, which under FIXED begins at TS0 and under ROTATING
after the last holder and wraps, the last holder coming last: at the end of a gap, when LANE_SET turns the lane on, and when SOURCE_KEY makes a
source ask for an enabled IDLE lane. A gap's end acts as the work in which it falls (the model's, log 3). -/
def Obligations.LaneGoesToFirstInPriority : Prop :=
  ∀ (s : State) (v : Fin 24) (rank : Fin 16 → Nat),
    (∀ k, rank k = match s.arbiter, (s.venue v).lane.lastHolder with
      | .rotating, some n => (k.val + 15 - n.val) % 16
      | _, _ => k.val) →
    (∀ (asks : Fin 16 → Prop) (m : Fin 16), .foldbackStep ∈ s.due → (s.venue v).lane.state = .gap 1 →
      (∀ k, asks k ↔ (s.source k).targets.getLsbD v.val = true ∧
        ((s.source k).lineEnable = true ∧ s.keyLow.getLsbD k.val = true ∨
          (s.source k).softKey = true ∧ (s.source k).remaining ≠ 1)) →
      asks m → (∀ k, asks k → rank m ≤ rank k) →
      ∃ t : State, exec (.gapEnd v) s = .next t ∧ (t.venue v).lane.state = .held m ∧
        (t.venue v).lane.lastHolder = some m) ∧
    (∀ (x : Transfer) (m : Fin 16), Taken x s → (s.venue v).state ≠ .free → (s.venue v).lane.enable = false →
      (s.source m).wants v = true → (∀ k, (s.source k).wants v = true → rank m ≤ rank k) →
      ∃ t : State, exec (.laneSet x v.val ⟨some 1, none, none⟩) s = .next t ∧
        (t.venue v).lane.state = .held m ∧ (t.venue v).lane.lastHolder = some m) ∧
    (∀ (x : Transfer) (n m : Fin 16) (d : Nat), Taken x s → (s.venue v).lane.enable = true →
      (s.venue v).lane.state = .idle → (s.source n).wants v = false → (s.source n).targets.getLsbD v.val = true →
      (m = n ∨ (s.source m).wants v = true) →
      (∀ k, k = n ∨ (s.source k).wants v = true → rank m ≤ rank k) →
      ∃ t : State, exec (.sourceKey x n.val d) s = .next t ∧
        (t.venue v).lane.state = .held m ∧ (t.venue v).lane.lastHolder = some m)

/-! ### The port's own transactions -/

/-- R162, R163, R160: RESPONSE clocks out the held response and consumes it once every byte is out, or
answers NONE; STATUS clocks out the status byte and, when complete, clears the two latches; a transaction
of no kind latches its flag and drives zeros. Zeros stand in the kind byte of every transaction, and SPI_MISO is driven only
while SPI_CS_N is low. Nothing outside the control port changes. What `spiOut` holds is the model's record of the bytes
driven, the kind byte's among them (log 25). -/
def Obligations.ControlPortTransactions : Prop :=
  ∀ s : State, s.resetLow = false →
    ((s.pins false).spiMiso = .highImpedance ∧ (s.pins true).spiMiso = .transaction) ∧
    (∀ kind : Byte, s.misoByte kind 0 = 0 ∧ (kind ≠ 2 → kind ≠ 3 → ∀ j, s.misoByte kind j = 0)) ∧
    (∀ (t : State) n j, exec (.responseTransaction false n) s = .next t → j ≤ n →
      t.control.spiOut[j]? = some (s.misoByte 2 j)) ∧
    (∀ (t : State) n j, exec (.statusTransaction false n) s = .next t → j ≤ n / 8 →
      t.control.spiOut[j]? = some (s.misoByte 3 j)) ∧
    (∀ n, s.control.held = none → exec (.responseTransaction false n) s = .next { s with control :=
      { s.control with spiOut := 0 :: ([0, 0, 10, 0, 0, 0] : List Byte).take n ++ List.replicate (n - 6) 0 } }) ∧
    (∀ (r : Response) n, s.control.held = some r → n < 6 + r.body.length →
      exec (.responseTransaction false n) s =
        .next { s with control := { s.control with spiOut := 0 :: r.bytes.take n } }) ∧
    (∀ (r : Response) n, s.control.held = some r → 6 + r.body.length ≤ n →
      exec (.responseTransaction false n) s = .next { s with control :=
        { s.control with held := none, spiOut := 0 :: r.bytes ++ List.replicate (n - (6 + r.body.length)) 0 } }) ∧
    (∀ n, n < 8 → exec (.statusTransaction false n) s = .next { s with control := { s.control with spiOut := [0] } }) ∧
    (∀ n, 8 ≤ n → ∃ b : Byte, exec (.statusTransaction false n) s = .next { s with control :=
        { s.control with responseLost := false, malformed := false,
                         spiOut := 0 :: b :: List.replicate (n / 8 - 1) 0 } } ∧
      b.getLsbD 0 = s.control.held.isSome ∧ b.getLsbD 1 = s.control.responseLost ∧
      b.getLsbD 2 = s.control.malformed ∧ b.getLsbD 3 = s.attention ∧ b.toNat < 16) ∧
    (∀ bs, bs = [] ∨ (∃ k rest, bs = k :: rest ∧ k ≠ 1 ∧ k ≠ 2 ∧ k ≠ 3) ∨
        (∃ rest : List Byte, bs = 1 :: rest ∧ rest.length < 4) →
      exec (.malformedTransaction false bs) s = .next { s with control :=
        { s.control with malformed := true, spiOut := List.replicate bs.length 0 } }) ∧
    (∀ t : State, t.resetLow = true → ∀ n bs,
      exec (.responseTransaction false n) t = .next t ∧ exec (.statusTransaction false n) t = .next t ∧
      exec (.malformedTransaction false bs) t = .next t)

/-! ### Received frames -/

/-- R43 to R48: what the port tests make of a received frame, in their order: not taken at all, MALFORMED,
not for this port, tag discard, not VCT, MALFORMED as a VCT frame, wrong domain, unknown key; and what a
frame that passes them says, field by field (section 11.1.1). The FCS verdict and `fresh` are operands of the
command (the model's, log 5 and log 6); that the group bit of an address is bit 40, and that padding stands only in a frame of
exactly 64 bytes, is the model's reading (log 14 and log 15). -/
def Obligations.PortTestsCount : Prop :=
  ∀ (s : State) (p : Fin 4) (dst src : BitVec 48) (tags : List (Bool × BitVec 16)) (ty : BitVec 16)
      (rest : List Byte) (fcsOk : Bool) (size limit : Nat) (pt : Port) (rx : RxFrame),
    pt = s.port p → limit = (match pt.tagMode with | .none => 0 | .one => 1 | .two => 2) →
    rx = ⟨wireFrame dst src tags ty rest, fcsOk, true⟩ → size = rx.bytes.length + 4 →
    ty ≠ 0x8100 → ty ≠ 0x88A8 → Listening s p →
    (∀ y : RxFrame, y.fresh = false → exec (.frameReceived p y) s = .next s) ∧
    ((fcsOk = false ∨ size < 64 ∨ 1518 + 4 * limit < size) →
      exec (.frameReceived p rx) s = .next (s.setPort p { pt with malformed := min 65535 (pt.malformed + 1) })) ∧
    (fcsOk = true → 64 ≤ size → size ≤ 1518 + 4 * limit →
      (dst ≠ pt.address → dst.getLsbD 40 = false → exec (.frameReceived p rx) s = .next s) ∧
      ((dst = pt.address ∨ dst.getLsbD 40 = true) →
        (src.getLsbD 40 = true → exec (.frameReceived p rx) s =
          .next (s.setPort p { pt with malformed := min 65535 (pt.malformed + 1) })) ∧
        (src.getLsbD 40 = false →
          (limit < tags.length → exec (.frameReceived p rx) s =
            .next (s.setPort p { pt with tagDiscards := min 65535 (pt.tagDiscards + 1) })) ∧
          (tags.length ≤ limit → ty ≠ pt.etherType → exec (.frameReceived p rx) s =
            .next (s.setPort p { pt with notVct := min 65535 (pt.notVct + 1) })) ∧
          (tags.length ≤ limit → ty = pt.etherType →
            ∀ (version kind flags domain : Byte) (key : BitVec 16) (tag channels : Byte) (frame : FrameNo)
              (len : BitVec 16) (entries : Byte) (payload : List Byte),
            rest = wireVct version kind flags domain key tag channels frame len entries ++ payload →
            ((version ≠ 1 ∨ (kind ≠ 1 ∧ kind ≠ 2) ∨
                (kind = 1 ∧ channels ≠ 1 ∧ channels ≠ 2) ∨
                (kind = 1 ∧ len.toNat ≠ 288 * channels.toNat) ∨
                (kind = 2 ∧ len.toNat ≠ 3 * entries.toNat) ∨
                payload.length < len.toNat ∨ (size ≠ 64 ∧ len.toNat ≠ payload.length)) →
              exec (.frameReceived p rx) s =
                .next (s.setPort p { pt with malformed := min 65535 (pt.malformed + 1) })) ∧
            (version = 1 → (len.toNat = payload.length ∨ (size = 64 ∧ len.toNat ≤ payload.length)) →
              ((kind = 1 ∧ (channels = 1 ∨ channels = 2) ∧ len.toNat = 288 * channels.toNat) ∨
                (kind = 2 ∧ len.toNat = 3 * entries.toNat)) →
              ((∃ d, pt.domain = some d ∧ d ≠ domain) → exec (.frameReceived p rx) s =
                .next (s.setPort p { pt with wrongDomain := min 65535 (pt.wrongDomain + 1) })) ∧
              ((∀ d, pt.domain = some d → d = domain) →
                (∀ v, (s.venue v).state ≠ .free → (s.venue v).key ≠ key) → exec (.frameReceived p rx) s =
                  .next (s.setPort p { pt with unknownKey := min 65535 (pt.unknownKey + 1) })) ∧
              ((∀ d, pt.domain = some d → d = domain) → readFrame pt rx = .vct
                { audio := kind == 1, repair := flags.getLsbD 0, restart := flags.getLsbD 1
                  domain := domain, key := key, tag := tag.toNat, channels := channels.toNat, frame := frame
                  entries := entries.toNat, payload := payload.take len.toNat, address := src
                  tags := tags.map fun t => t.2 }))))))

/-- R49: a frame whose venue is not bound to its port is counted WRONG_PATH and does nothing
else. R13, R50, R51, R7, R90: an ANNOUNCE frame on a path of its venue brings the path UP, builds the announced list anew from its entries, sets
the age to 0, and returns a HOLDOVER venue to ACTIVE. An entry of tag 255, of another kind or channel count, or that repeats the
tag of one kept is dropped and reported MALFORMED; a valid one beyond eight is dropped without report. -/
def Obligations.AnnounceAndWrongPath : Prop :=
  ∀ (s : State) (p : Fin 4) (rx : RxFrame) (f : VctIn) (v : Fin 24),
    (Listening s p → rx.fresh = true → readFrame (s.port p) rx = .vct f → KeyLaw s →
      (s.venue v).state ≠ .free → (s.venue v).key = f.key →
      (s.venue v).pathA.port ≠ some p → (s.venue v).pathB.port ≠ some p →
      ∃ (t : State) (h : Health), exec (.frameReceived p rx) s = .next t ∧
        t = (s.setPort p { s.port p with taken := min 65535 ((s.port p).taken + 1) }).setVenue v
          { s.venue v with health := h } ∧
        ∀ k, h.counter k = if k = .wrongPath then min 65535 ((s.venue v).health.counter k + 1)
          else (s.venue v).health.counter k) ∧
    (∀ (q : PathId) (es : List (Byte × Byte × Byte))
        (built : List (Byte × Byte × Byte) → List Announced × Nat), Handed s p rx f v q → f.audio = false →
      f.payload = es.flatMap (fun e => [e.1, e.2.1, e.2.2]) →
      built [] = ([], 0) →
      (∀ l e, built (l ++ [e]) =
        if e.1 = 255 ∨ e.2.1 ∉ [1, 2, 3] ∨ e.2.2 ∉ [1, 2] ∨ (∃ x ∈ (built l).1, x.tag = e.1.toNat)
          then ((built l).1, (built l).2 + 1)
        else if (built l).1.length < 8 then ((built l).1 ++ [⟨e.1.toNat,
          if e.2.1 = 1 then .commentary else if e.2.1 = 2 then .crowd else .coord, e.2.2.toNat⟩], (built l).2)
        else built l) →
      ∃ (ve : Venue), exec (.frameReceived p rx) s = .next
          ((s.setPort p { s.port p with taken := min 65535 ((s.port p).taken + 1) }).setVenue v ve) ∧
        ve = { heardVenue (s.venue v) q (heardPath s ((s.venue v).path q) f) with
          announced := (built es).1, announceAge := some 0, health := ve.health } ∧
        ((built es).2 = 0 → ve.health = (s.venue v).health) ∧
        ((s.venue v).health.counter .malformed ≤ 65535 → ve.health.counter .malformed =
          min 65535 ((s.venue v).health.counter .malformed + (built es).2)) ∧
        (∀ k, k ≠ .malformed → ve.health.counter k = (s.venue v).health.counter k) ∧
        (0 < (built es).2 → (s.venue v).health.captureEnable.getLsbD ErrorKind.malformed.index.val = true →
          (s.venue v).health.capture = none →
          ve.health.capture = some ⟨.malformed, none, none, some p, s.reference.blockCount⟩))

/-- R50, R51, R61, R65, R66, R67, R69, R101: an AUDIO frame at a seated venue that is placeable in its circuit's window and not
present there is stored in its cell, with no gap to hand on and no entry to settle; the newest frames
and streaks follow, the path is UP, and a HOLDOVER venue is ACTIVE again. A REPAIR frame is counted REPAIR_UNMATCHED. Nothing
else changes. -/
def Obligations.PlaceableFrameIsStored : Prop :=
  ∀ (s : State) (p : Fin 4) (rx : RxFrame) (f : VctIn) (v : Fin 24) (q : PathId) (c : Fin 128) (ph : Phase)
      (back : Bool),
    Handed s p rx f v q → Names s f v c → WindowLaw s →
    ((s.venue v).state = .active ∧ back = false ∨ (s.venue v).state = .holdover ∧ back = true) →
    (s.venue v).timebase.phase = some ph → 0 ≤ Machine.dist f.frame ph.nr →
    Machine.dist f.frame ph.nr < (s.circuit c).window → (s.circuit c).present f.frame = false →
    (∀ e ∈ (s.venue v).recovery, e.circuit = c → e.frame ≠ f.frame) →
    ((s.circuit c).newest = none ∨ (s.venue v).settings.attempts = 0 ∨
      ∃ o, (s.circuit c).newest = some o ∧ Machine.dist f.frame o < 2) →
    ∃ (t : State) (x : Circuit) (h : Health), exec (.frameReceived p rx) s = .next t ∧
      t = ((s.setPort p { s.port p with taken := min 65535 ((s.port p).taken + 1) }).setCircuit c x).setVenue v
        { (s.venue v).setPath q (heardPath s ((s.venue v).path q) f) with
          state := .active, aheadStreak := 0, lateStreak := 0, health := h
          newest := some (match (s.venue v).newest with
            | none => f.frame
            | some o => if 0 < Machine.dist f.frame o then f.frame else o)
          holdoverElapsed := if back then 0 else (s.venue v).holdoverElapsed
          holdoverSince := if back then none else (s.venue v).holdoverSince
          timebase := if back then { (s.venue v).timebase with
              loop := .acquiring, lockRun := 0, unlockRun := 0, sum := 0, count := 0 }
            else (s.venue v).timebase } ∧
      x = { s.circuit c with
            cells := x.cells, placed := min 65535 ((s.circuit c).placed + 1)
            newest := some (match (s.circuit c).newest with
              | none => f.frame
              | some o => if 0 < Machine.dist f.frame o then f.frame else o) } ∧
      (f.repair = false → h = (s.venue v).health) ∧
      (∀ k, h.counter k = if k = .repairUnmatched ∧ f.repair = true
        then min 65535 ((s.venue v).health.counter k + 1) else (s.venue v).health.counter k) ∧
      x.held f.frame = some ⟨f.frame.toNat % (s.circuit c).window, f.frame, samplesOf f.channels f.payload⟩ ∧
      ∀ n : FrameNo, n.toNat % (s.circuit c).window ≠ f.frame.toNat % (s.circuit c).window →
        x.held n = (s.circuit c).held n

/-- R68, R69, R100: an AUDIO frame stored beyond the newest frame of its circuit hands the frames skipped to recovery, oldest
first and at most 16: those after the old newest frame, or after Nr when that is later. They are entered in queue
order while the queue holds fewer than 32, each other one is counted QUEUE_FULL, and more than 16 skipped are counted
GAP_OVERFLOW once. A REPAIR frame that settles no entry is counted REPAIR_UNMATCHED. -/
def Obligations.StoredFrameHandsGaps : Prop :=
  ∀ (s : State) (p : Fin 4) (rx : RxFrame) (f : VctIn) (v : Fin 24) (q : PathId) (c : Fin 128) (ph : Phase)
      (o : FrameNo) (first : Nat) (gaps handed entered : List FrameNo),
    Handed s p rx f v q → Names s f v c → (s.venue v).state = .active →
    (s.venue v).timebase.phase = some ph → 0 ≤ Machine.dist f.frame ph.nr →
    Machine.dist f.frame ph.nr < (s.circuit c).window → (s.circuit c).present f.frame = false →
    (∀ e ∈ (s.venue v).recovery, e.circuit = c → e.frame ≠ f.frame) →
    (s.circuit c).newest = some o → 2 ≤ Machine.dist f.frame o → 0 < (s.venue v).settings.attempts →
    (first : Int) = max (Machine.dist o ph.nr) 0 + 1 →
    gaps = (List.range ((Machine.dist f.frame ph.nr).toNat - first)).map (fun i =>
      ph.nr + BitVec.ofNat 32 (first + i)) →
    handed = gaps.take 16 → entered = handed.take (32 - (s.venue v).recovery.length) →
    ∃ t : State, exec (.frameReceived p rx) s = .next t ∧
      (∀ e, e ∈ (t.venue v).recovery ↔ e ∈ (s.venue v).recovery ∨
        ∃ n ∈ entered, e = ⟨c, n, s.reference.blockCount, 0, none⟩) ∧
      (t.venue v).recovery.length = (s.venue v).recovery.length + entered.length ∧
      (s.QueueOk v ph.nr → t.QueueOk v ph.nr) ∧
      (t.circuit c).held f.frame =
        some ⟨f.frame.toNat % (s.circuit c).window, f.frame, samplesOf f.channels f.payload⟩ ∧
      (t.circuit c).newest = some f.frame ∧
      ((∀ k, (s.venue v).health.counter k ≤ 65535) → ∀ k, (t.venue v).health.counter k =
        min 65535 ((s.venue v).health.counter k +
          (if k = .gapOverflow ∧ 16 < gaps.length then 1
            else if k = .queueFull then handed.length - entered.length
            else if k = .repairUnmatched ∧ f.repair = true then 1 else 0))) ∧
      (∀ d, d ≠ c → t.circuit d = s.circuit d) ∧ (∀ w, w ≠ v → t.venue w = s.venue w) ∧
      (t.venue v).state = .active ∧ (t.venue v).timebase = (s.venue v).timebase

/-- R69, R101: an AUDIO frame stored for which recovery holds an entry takes the entry out of the queue, and counts
REPAIRED when it carries the REPAIR flag, FILLED_BY_PATH otherwise; no error is counted. -/
def Obligations.StoredFrameSettlesEntry : Prop :=
  ∀ (s : State) (p : Fin 4) (rx : RxFrame) (f : VctIn) (v : Fin 24) (q : PathId) (c : Fin 128) (ph : Phase)
      (e : RecoveryEntry),
    Handed s p rx f v q → Names s f v c → (s.venue v).state = .active →
    (s.venue v).timebase.phase = some ph → 0 ≤ Machine.dist f.frame ph.nr →
    Machine.dist f.frame ph.nr < (s.circuit c).window → (s.circuit c).present f.frame = false →
    e ∈ (s.venue v).recovery → e.circuit = c → e.frame = f.frame →
    (∃ o, (s.circuit c).newest = some o ∧ Machine.dist f.frame o ≤ 1) →
    ∃ t : State, exec (.frameReceived p rx) s = .next t ∧
      (t.venue v).recovery =
        (s.venue v).recovery.filter (fun y => !(decide (y.circuit = c) && decide (y.frame = f.frame))) ∧
      (t.venue v).health = { (s.venue v).health with
        repaired := if f.repair then min 65535 ((s.venue v).health.repaired + 1) else (s.venue v).health.repaired
        filledByPath := if f.repair then (s.venue v).health.filledByPath
          else min 65535 ((s.venue v).health.filledByPath + 1) } ∧
      (t.circuit c).held f.frame =
        some ⟨f.frame.toNat % (s.circuit c).window, f.frame, samplesOf f.channels f.payload⟩ ∧
      (t.circuit c).placed = min 65535 ((s.circuit c).placed + 1) ∧
      (∀ d, d ≠ c → t.circuit d = s.circuit d) ∧ (∀ w, w ≠ v → t.venue w = s.venue w)

/-- R62, R64, R65, R67, R69, R101, R148: an AUDIO frame of an ACTIVE venue that is LATE or AHEAD below its streak's
threshold, or placeable but already present, is discarded: its error kind is counted, and a REPAIR frame REPAIR_UNMATCHED too, the circuit's own
counter and the venue's streaks follow, and nothing else changes but the path and the health record. -/
def Obligations.UnplaceableFrameIsCounted : Prop :=
  ∀ (s : State) (p : Fin 4) (rx : RxFrame) (f : VctIn) (v : Fin 24) (q : PathId) (c : Fin 128) (ph : Phase)
      (k : ErrorKind) (d : Int),
    Handed s p rx f v q → Names s f v c → (s.venue v).state = .active →
    (s.venue v).timebase.phase = some ph → d = Machine.dist f.frame ph.nr →
    (k = .late ∧ d < 0 ∧ f.restart = false ∧ (s.venue v).lateStreak < 63 ∨
      k = .ahead ∧ (s.circuit c).window ≤ d ∧ f.restart = false ∧ (s.venue v).aheadStreak < 7 ∨
      k = .duplicate ∧ 0 ≤ d ∧ d < (s.circuit c).window ∧ (s.circuit c).present f.frame = true) →
    ∃ (t : State) (h : Health), exec (.frameReceived p rx) s = .next t ∧
      t = ((s.setPort p { s.port p with taken := min 65535 ((s.port p).taken + 1) }).setCircuit c
          { s.circuit c with
            late := if k = .late then min 65535 ((s.circuit c).late + 1) else (s.circuit c).late
            duplicate := if k = .duplicate then min 65535 ((s.circuit c).duplicate + 1)
              else (s.circuit c).duplicate }).setVenue v
        { (s.venue v).setPath q (heardPath s ((s.venue v).path q) f) with
          health := h
          aheadStreak := if k = .late then 0 else if k = .ahead then (s.venue v).aheadStreak + 1
            else (s.venue v).aheadStreak
          lateStreak := if k = .ahead then 0 else if k = .late then (s.venue v).lateStreak + 1
            else (s.venue v).lateStreak } ∧
      (∀ j, h.counter j = if j = k ∨ j = .repairUnmatched ∧ f.repair = true then min 65535 ((s.venue v).health.counter j + 1)
        else (s.venue v).health.counter j) ∧
      ((s.venue v).health.capture = none → (s.venue v).health.captureEnable.getLsbD k.index.val = true →
        h.capture = some ⟨k, some c, some f.frame, some p, s.reference.blockCount⟩) ∧
      (f.repair = false → (s.venue v).health.captureEnable.getLsbD k.index.val = false →
        h.capture = (s.venue v).health.capture ∧ h.overflow = (s.venue v).health.overflow) ∧
      h.pathDown = (s.venue v).health.pathDown

/-- R5, R28, R62, R74, R148, R150, R152: an AUDIO frame that finds no circuit, a LOST circuit, or a circuit of another
channel count is discarded, at a WAITING venue or a seated one: it is counted UNKNOWN_CIRCUIT, MASKED or MALFORMED
and reported with its circuit, number and port. The report is counted, taken by an empty capture of its kind's
enable or marked as overflow over a held one, and counted by the monitor, which latches DEGRADED at the threshold. The path
is UP, a HOLDOVER venue is ACTIVE again, and nothing else changes but the masked counter of a LOST circuit (also at a
WAITING venue, where two rules differ: log 10). -/
def Obligations.DiscardedAudioIsReported : Prop :=
  ∀ (s : State) (p : Fin 4) (rx : RxFrame) (f : VctIn) (v : Fin 24) (q : PathId) (k : ErrorKind)
      (oc : Option (Fin 128)),
    Handed s p rx f v q → f.audio = true →
    ((s.venue v).state ≠ .waiting → (s.venue v).timebase.phase ≠ none) →
    (k = .unknownCircuit ∧ oc = none ∧ (∀ c ∈ (s.venue v).circuits, (s.circuit c).tag ≠ some f.tag) ∨
      (∃ c, oc = some c ∧ s.tagged v f.tag = some c ∧
        (k = .masked ∧ (s.circuit c).state = .lost ∨
          k = .malformed ∧ (s.circuit c).state ≠ .lost ∧ f.channels ≠ (s.circuit c).channels))) →
    ∃ (t : State) (h : Health), exec (.frameReceived p rx) s = .next t ∧
      t = { (s.setPort p { s.port p with taken := min 65535 ((s.port p).taken + 1) }).setVenue v
          { heardVenue (s.venue v) q (heardPath s ((s.venue v).path q) f) with health := h } with
            circuits := t.circuits } ∧
      (∀ c, t.circuit c = if k = .masked ∧ oc = some c
        then { s.circuit c with masked := min 65535 ((s.circuit c).masked + 1) } else s.circuit c) ∧
      (∀ j, h.counter j = if j = k then min 65535 ((s.venue v).health.counter j + 1)
        else (s.venue v).health.counter j) ∧
      ((s.venue v).health.captureEnable.getLsbD k.index.val = true →
        ((s.venue v).health.capture = none →
          h.capture = some ⟨k, oc, some f.frame, some p, s.reference.blockCount⟩ ∧
          h.overflow = (s.venue v).health.overflow) ∧
        (∀ old, (s.venue v).health.capture = some old → h.capture = some old ∧ h.overflow = true)) ∧
      ((s.venue v).health.captureEnable.getLsbD k.index.val = false →
        h.capture = (s.venue v).health.capture ∧ h.overflow = (s.venue v).health.overflow) ∧
      ((s.venue v).health.rateEnable.getLsbD k.index.val = true →
        h.windowCount = min 65535 ((s.venue v).health.windowCount + 1) ∧
        (h.degraded = true ↔ (s.venue v).health.degraded = true ∨
          (s.venue v).health.threshold ≤ h.windowCount)) ∧
      ((s.venue v).health.rateEnable.getLsbD k.index.val = false →
        h.windowCount = (s.venue v).health.windowCount ∧ h.degraded = (s.venue v).health.degraded) ∧
      h = { (s.venue v).health with
        counters := h.counters, capture := h.capture, overflow := h.overflow, windowCount := h.windowCount, degraded := h.degraded }

/-- R3, R69, R70, R71, R81, R82, R91: the first suitable frame seats a WAITING venue, and a frame that brings the ahead streak to 8
or the late streak to 64, or is misplaced with RESTART, re-seats an ACTIVE one. The read phase is
set from the frame, every window of the venue's list is emptied, the queue is flushed, the frame is
stored, and a REPAIR frame counted REPAIR_UNMATCHED. A venue seated for the first time no longer takes a venue step left over from the
present boundary. -/
def Obligations.FrameSeatsVenue : Prop :=
  ∀ (s : State) (p : Fin 4) (rx : RxFrame) (f : VctIn) (v : Fin 24) (q : PathId) (c : Fin 128) (first : Bool),
    Handed s p rx f v q → Names s f v c → ListLaw s →
    (first = true ∧ (s.venue v).state = .waiting ∧
        ((s.circuit c).state = .armed ∨ (s.circuit c).state = .running ∨ (s.circuit c).state = .concealing) ∨
      first = false ∧ (s.venue v).state = .active ∧ ∃ ph, (s.venue v).timebase.phase = some ph ∧
        ((Machine.dist f.frame ph.nr < 0 ∧ ((s.venue v).lateStreak = 63 ∨ f.restart = true)) ∨
          ((s.circuit c).window ≤ Machine.dist f.frame ph.nr ∧ 0 ≤ Machine.dist f.frame ph.nr ∧
            ((s.venue v).aheadStreak = 7 ∨ f.restart = true)))) →
    ∃ t : State, exec (.frameReceived p rx) s = .next t ∧
      (t.venue v).state = .active ∧
      (t.venue v).timebase = { (s.venue v).timebase with
        phase := some ⟨f.frame + 1 - BitVec.ofNat 32 (((s.venue v).settings.target + 95) / 96),
          96 * (((s.venue v).settings.target + 95) / 96) - (s.venue v).settings.target, 0⟩
        rhoT := 0, rhoEff := (s.venue v).timebase.rhoP, loop := .acquiring
        sum := 0, count := 0, lockRun := 0, unlockRun := 0 } ∧
      (t.venue v).newest = some f.frame ∧ (t.venue v).aheadStreak = 0 ∧ (t.venue v).lateStreak = 0 ∧
      (t.venue v).recovery = [] ∧ (t.venue v).path q = heardPath s ((s.venue v).path q) f ∧
      (t.circuit c).cells = [⟨f.frame.toNat % (s.circuit c).window, f.frame, samplesOf f.channels f.payload⟩] ∧
      (t.circuit c).newest = some f.frame ∧ (t.circuit c).state = (s.circuit c).state ∧
      (t.circuit c).placed = min 65535 ((s.circuit c).placed + 1) ∧
      (∀ d ∈ (s.venue v).circuits, d ≠ c → (t.circuit d).cells = [] ∧ (t.circuit d).newest = none ∧
        (t.circuit d).state = (s.circuit d).state) ∧
      (first = false → ∀ d ∈ (s.venue v).circuits, (t.circuit d).lastPresent = none) ∧
      ((s.venue v).health.counter .reseat < 65535 → (t.venue v).health.counter .reseat =
        (s.venue v).health.counter .reseat + if first then 0 else 1) ∧
      (∀ d, d ∉ (s.venue v).circuits → t.circuit d = s.circuit d) ∧
      (∀ w, w ≠ v → t.venue w = s.venue w) ∧
      t = { s.setPort p { s.port p with taken := min 65535 ((s.port p).taken + 1) } with
            venues := t.venues, circuits := t.circuits, due := t.due } ∧
      t.due = (if first then s.due.filter (fun w => decide (w ≠ .venueStep v)) else s.due) ∧
      ((s.venue v).health.counter .repairUnmatched ≤ 65535 → (t.venue v).health.counter .repairUnmatched =
        min 65535 ((s.venue v).health.counter .repairUnmatched + if f.repair then 1 else 0))

/-- R56, R57: the head of a transmit queue leaves when it has been sent, counted; a link that goes down
loses the queue, each frame counted as dropped; a link that comes up only says so. That TRANSMIT_COMPLETE on an empty queue does
nothing (log 32), and a link change while RESET_N is low neither (log 4), is the model's. -/
def Obligations.TransmitAndLink : Prop :=
  ∀ (s : State) (p : Fin 4),
    (∀ fr rest, (s.port p).queue = fr :: rest → exec (.transmitComplete p) s = .next (s.setPort p
      { s.port p with queue := rest, sent := min 65535 ((s.port p).sent + 1) })) ∧
    ((s.port p).queue = [] → exec (.transmitComplete p) s = .next s) ∧
    (s.resetLow = false →
      exec (.linkStateChange p true) s = .next (s.setPort p { s.port p with linkUp := true }) ∧
      ((s.port p).linkUp = true → exec (.linkStateChange p false) s = .next (s.setPort p
        { s.port p with linkUp := false, queue := []
                        dropped := min 65535 ((s.port p).dropped + (s.port p).queue.length) })) ∧
      ((s.port p).linkUp = false → exec (.linkStateChange p false) s = .next s)) ∧
    (s.resetLow = true → ∀ up, exec (.linkStateChange p up) s = .next s)

/-! ### The gallery reference and the block boundary -/

/-- R77, R78, R155: in FREE-RUN, 48 in-range edges in a row bring the reference to WCK and any other edge starts the
count again; in WCK, the fourth out-of-range edge in a row, or a silence of four periods, brings it back to
FREE-RUN and latches the loss. `ps` is the time since the last edge in
picoseconds, and `strayEdges` the model's count of such edges (log 16). -/
def Obligations.ReferenceFollowsEdges : Prop :=
  ∀ (s : State) (ps : Nat) (inRange : Prop), s.resetLow = false →
    (inRange ↔ 990000000000 ≤ 48000 * ps ∧ 48000 * ps ≤ 1010000000000) →
    (s.reference.state = .freeRun →
      (inRange → s.reference.qualification < 47 → exec (.wckEdge (some ps)) s = .next { s with reference :=
        { s.reference with qualification := s.reference.qualification + 1 } }) ∧
      (inRange → s.reference.qualification = 47 → exec (.wckEdge (some ps)) s = .next { s with reference :=
        { s.reference with state := .wck, qualification := 0, strayEdges := 0 } }) ∧
      (¬ inRange → exec (.wckEdge (some ps)) s = .next { s with reference :=
        { s.reference with qualification := 0 } }) ∧
      exec (.wckEdge none) s = .next { s with reference := { s.reference with qualification := 0 } } ∧
      (s.reference.qualification = 47 → exec .referenceQualified s = .next { s with reference :=
        { s.reference with state := .wck, qualification := 0, strayEdges := 0 } }) ∧
      (∀ cause, exec (.referenceLoss cause) s = .next s)) ∧
    (s.reference.state = .wck →
      (inRange → exec (.wckEdge (some ps)) s = .next { s with reference :=
        { s.reference with strayEdges := 0 } }) ∧
      (¬ inRange → 48000 * ps < 4000000000000 → s.reference.strayEdges < 3 →
        exec (.wckEdge (some ps)) s = .next { s with reference :=
          { s.reference with strayEdges := s.reference.strayEdges + 1 } }) ∧
      (¬ inRange → 4000000000000 ≤ 48000 * ps ∨ s.reference.strayEdges = 3 →
        exec (.wckEdge (some ps)) s = .next { s with
          reference := { s.reference with state := .freeRun, qualification := 0, strayEdges := 0 }
          refLoss := true }) ∧
      exec (.referenceLoss .silence) s = .next { s with
        reference := { s.reference with state := .freeRun, qualification := 0, strayEdges := 0 }
        refLoss := true } ∧
      (s.reference.strayEdges = 3 → exec (.referenceLoss .strayEdge) s = .next { s with
        reference := { s.reference with state := .freeRun, qualification := 0, strayEdges := 0 }
        refLoss := true }) ∧
      exec .referenceQualified s = .next s)

/-- R76, R120, R131, R134: a block boundary at which no work is left over, and every work of which is left for
later, increments the block count, takes the TI return and the key lines, and turns every bus over to
the block staged one count before, or to silence; a fallback source that waited for it waits no longer (log 37); its works stand waiting, the restart of the degrade windows among
them only at a count that 1,000 divides. That works may be left for later in `due` is the model's form
of the spec's free order (log 1). -/
def Obligations.BlockBoundaryBegins : Prop :=
  ∀ (s : State) (a : BoundaryArgs), s.resetLow = false → s.due = [] → a.first = [] →
    (∀ w ∈ worksOf (s.reference.blockCount + 1), w ∈ a.later) →
    ∃ t : State, exec (.blockBoundary a) s = .next t ∧
      t.reference = { s.reference with blockCount := s.reference.blockCount + 1 } ∧
      t.keyLow = a.keyLow ∧
      (∀ (n : Fin 32) (j : Fin 48), (t.returnBlock[n])[j] =
        match (a.ti[j]).getLast? with | none => 0 | some fr => fr[n]) ∧
      (∀ i, t.slot i = { s.slot i with fellBack := none, emitting :=
        match (s.slot i).staged[s.reference.blockCount.toNat % 2]'(Nat.mod_lt _ (by decide)) with
        | none => silentBlock
        | some st => if st.block = s.reference.blockCount then st.samples else silentBlock }) ∧
      (∀ w, w ∈ t.due ↔ (w = .windowRestart → (s.reference.blockCount + 1).toNat % 1000 = 0)) ∧
      t.due.Nodup ∧
      t = { s with reference := t.reference, returnBlock := t.returnBlock, keyLow := t.keyLow,
                   slots := t.slots, due := t.due }

/-- R76, R82, R26, R53, R104, R133, R153: a block boundary finishes the works left over from the one before, begins the block, leaves the works
of `later` for after, and takes all others one after another, those of `first` before them; each of the block's works is
taken or left exactly once. That the command carries the order is the model's form of the spec's free order (log 1). -/
def Obligations.BoundaryTakesItsWorks : Prop :=
  ∀ (s : State) (a : BoundaryArgs) (rest : State) (n : BlockCount) (now left : List Work), s.resetLow = false →
    rest = s.due.foldl State.takeWork { s with due := [] } → n = rest.reference.blockCount + 1 →
    a.first.Nodup → (∀ w ∈ a.first, w ∈ worksOf n) →
    now = a.first ++ (worksOf n).filter (fun w => decide (w ∉ a.first) && decide (w ∉ a.later)) →
    left = (worksOf n).filter (fun w => decide (w ∉ a.first) && decide (w ∈ a.later)) →
    exec (.blockBoundary a) s = .next (now.foldl State.takeWork { rest.beginBlock a with due := left }) ∧
    n = s.reference.blockCount + 1 ∧ (now ++ left).Nodup ∧
    (∀ w, w ∈ now ++ left ↔ (w = .windowRestart → n.toNat % 1000 = 0))

/-- R8, R14, R26, R53, R82, R104: what the works of a block boundary do where nothing expires. The HOLDOVER count, not at the boundary
of its entry, and the announce age increase by 1 and a CONCEALING circuit's h decreases by 1; a path heard within its
timeout stays; a venue that is not seated takes no step, and one that is not ACTIVE, or asks for no repairs, no request
pass. Each work is taken as the oldest left over (log 2). -/
def Obligations.WorksWhereNothingExpires : Prop :=
  ∀ (s : State) (ws : List Work) (v : Fin 24) (c : Fin 128) (q : PathId), s.pending = [] →
    (s.due = .holdoverCount v :: ws →
      ((s.venue v).state = .holdover → (s.venue v).holdoverSince ≠ some s.reference.blockCount →
        (s.venue v).holdoverElapsed + 1 < 1000 * (s.venue v).settings.lossTime →
        step s = .next (({ s with due := ws }).setVenue v { s.venue v with
          holdoverElapsed := (s.venue v).holdoverElapsed + 1 })) ∧
      ((s.venue v).state ≠ .holdover ∨ (s.venue v).holdoverSince = some s.reference.blockCount →
        step s = .next { s with due := ws })) ∧
    (s.due = .announceAge v :: ws →
      (∀ a, (s.venue v).state ≠ .free → (s.venue v).announceAge = some a → a < 4999 →
        step s = .next (({ s with due := ws }).setVenue v { s.venue v with announceAge := some (a + 1) })) ∧
      ((s.venue v).state = .free ∨ (s.venue v).announceAge = none → step s = .next { s with due := ws })) ∧
    (s.due = .holdoverCountdown c :: ws →
      ((s.circuit c).state = .concealing → 2 ≤ (s.circuit c).hold →
        step s = .next (({ s with due := ws }).setCircuit c { s.circuit c with hold := (s.circuit c).hold - 1 })) ∧
      ((s.circuit c).state ≠ .concealing → step s = .next { s with due := ws })) ∧
    (s.due = .pathTimeout v q :: ws →
      (s.venue v).state = .free ∨ ((s.venue v).path q).state ≠ .up ∨ ((s.venue v).path q).lastArrival = none ∨
        (∃ l, ((s.venue v).path q).lastArrival = some l ∧
          (s.reference.blockCount - l).toNat < (s.venue v).settings.pathTimeout) →
      step s = .next { s with due := ws }) ∧
    (s.due = .venueStep v :: ws → (s.venue v).state = .free ∨ (s.venue v).state = .waiting →
      step s = .next { s with due := ws }) ∧
    (s.due = .requestPass v :: ws → (s.venue v).state ≠ .active ∨ (s.venue v).settings.attempts = 0 →
      step s = .next { s with due := ws })

/-- R83 for one gallery sample, and R82, R86, R87, R88, R90, R94 for a venue step: the read phase advances
48 times, the margin sample is taken from it in ACTIVE, the 256th closes the interval with the loop's
gains and clamps, and the scheduler moves the rate by at most its step. A step of an ACTIVE venue that is neither the
256th of its interval nor under a walk changes its timebase by the advance and the margin sample alone; in HOLDOVER, or with no
frame placed, the step takes no sample and counts an active walk down. The ordinary steps are taken as the oldest work left
over (log 2), with no fade at its end; the events act as the work in which they fall (the model's, log 3), without a fade. -/
def Obligations.VenueStepUpdatesRates : Prop :=
  (∀ (ph : Phase) (rho x : Int), ph.k < 96 → -1073741 ≤ rho → rho ≤ 1073741 →
    x = ph.k * 4294967296 + ph.f.toNat + 4294967296 + rho →
    (x < 96 * 4294967296 → (ph.step rho).nr = ph.nr ∧
      ((ph.step rho).k * 4294967296 + (ph.step rho).f.toNat : Int) = x) ∧
    (96 * 4294967296 ≤ x → (ph.step rho).nr = ph.nr + 1 ∧
      ((ph.step rho).k * 4294967296 + (ph.step rho).f.toNat : Int) = x - 96 * 4294967296)) ∧
  (∀ (s : State) (v : Fin 24) (ph ph' : Phase) (n : FrameNo) (m e p : Int) (tb : Timebase),
    .venueStep v ∈ s.due → tb = (s.venue v).timebase → (s.venue v).state = .active → tb.phase = some ph →
    (∀ c ∈ (s.venue v).circuits, (s.circuit c).state ≠ .closing) →
    (s.venue v).newest = some n → tb.count = 255 → tb.active = false →
    ph' = (fun y : Phase => y.step tb.rhoEff)^[48] ph →
    m = max (-1048576) (min 1048576 (Machine.dist (n + 1) ph'.nr * 96 - ph'.k)) →
    e = max (-4095) (min 4095 ((tb.sum + m) / 256 - (s.venue v).settings.target)) →
    p = (if tb.frozen then tb.rhoP else max (-1073741) (min 1073741
      (tb.rhoP + e * (match tb.loop with | .acquiring => 1024 | .locked => 128)))) →
    ∃ t : State, exec (.intervalUpdate v) s = .next t ∧ t.due = s.due.erase (.venueStep v) ∧
      (t.venue v).timebase.phase = some ph' ∧
      (t.venue v).timebase.rhoT = max (-1048576) (min 1048576
        (e * (match tb.loop with | .acquiring => 32768 | .locked => 8192))) ∧
      (t.venue v).timebase.rhoP = p ∧
      (t.venue v).timebase.rhoEff =
        max (-1073741) (min 1073741 (p + (t.venue v).timebase.rhoT)) ∧
      (t.venue v).timebase.sum = 0 ∧ (t.venue v).timebase.count = 0 ∧
      ((t.venue v).timebase.loop, (t.venue v).timebase.lockRun, (t.venue v).timebase.unlockRun) =
        (match tb.loop with
        | .acquiring => if e.natAbs ≤ 48 then
            (if 15 ≤ tb.lockRun then (LoopState.locked, 0, 0) else (.acquiring, tb.lockRun + 1, tb.unlockRun))
          else (.acquiring, 0, tb.unlockRun)
        | .locked => if 480 < e.natAbs then
            (if 3 ≤ tb.unlockRun then (.acquiring, 0, 0) else (.locked, tb.lockRun, tb.unlockRun + 1))
          else (.locked, tb.lockRun, 0))) ∧
  (∀ (s : State) (v : Fin 24) (tb : Timebase) (gap : Int),
    .venueStep v ∈ s.due → tb = (s.venue v).timebase →
    ((s.venue v).state = .holdover ∨ (s.venue v).state = .active ∧ (s.venue v).newest = none ∧ tb.count < 256) →
    (∀ c ∈ (s.venue v).circuits, (s.circuit c).state ≠ .closing) →
    tb.active = true → tb.countdown = 1 → gap = tb.rhoCmd - tb.rhoP →
    ∃ t : State, exec (.schedulerStep v) s = .next t ∧ t.due = s.due.erase (.venueStep v) ∧
      (t.venue v).timebase.rhoP = (if gap.natAbs ≤ tb.step then tb.rhoCmd
        else if 0 < gap then tb.rhoP + tb.step else tb.rhoP - tb.step) ∧
      (t.venue v).timebase.rhoEff =
        max (-1073741) (min 1073741 ((t.venue v).timebase.rhoP + tb.rhoT)) ∧
      (t.venue v).timebase.rhoT = tb.rhoT ∧ (t.venue v).timebase.rhoCmd = tb.rhoCmd ∧
      (t.venue v).timebase.active = decide (tb.step < gap.natAbs) ∧
      (t.venue v).timebase.countdown = (if gap.natAbs ≤ tb.step then 0 else tb.settle)) ∧
  (∀ (s : State) (ws : List Work) (v : Fin 24) (ph ph' : Phase) (tb : Timebase), s.pending = [] →
    s.due = .venueStep v :: ws → ListLaw s → tb = (s.venue v).timebase → tb.phase = some ph → s.fadesEnding v = [] →
    ph' = (fun y : Phase => y.step tb.rhoEff)^[48] ph →
    (∀ n m, (s.venue v).state = .active → (s.venue v).newest = some n → tb.active = false → tb.count < 255 →
      m = max (-1048576) (min 1048576 (Machine.dist (n + 1) ph'.nr * 96 - ph'.k)) →
      ∃ t : State, step s = .next t ∧ t.due = ws ∧ t.venue v = { s.venue v with
        timebase := { tb with phase := some ph', sum := tb.sum + m, count := tb.count + 1 }
        recovery := (t.venue v).recovery, health := (t.venue v).health }) ∧
    ((s.venue v).state = .holdover ∨ (s.venue v).state = .active ∧ (s.venue v).newest = none ∧ tb.count < 256 →
      tb.active = false ∨ 2 ≤ tb.countdown →
      ∃ t : State, step s = .next t ∧ t.due = ws ∧ t.venue v = { s.venue v with
        timebase := { tb with phase := some ph', countdown := if tb.active then tb.countdown - 1 else tb.countdown }
        recovery := (t.venue v).recovery, health := (t.venue v).health }))

/-- R82, R86, R87, R94: a venue step of an ACTIVE venue without a fade while a scheduler walk is active. Below 256 margin samples the
step adds one and counts the walk down, or at 1 makes its step; at the 256th the interval update leaves the permanent rate alone and sets the trim, and then the
walk counts down, or at 1 moves the permanent rate by at most its step. A step at which neither event falls is taken as the oldest
work left over (log 2), and the events act as the work in which they fall (the model's, log 3). -/
def Obligations.VenueStepUnderWalk : Prop :=
  ∀ (s : State) (v : Fin 24) (ph ph' : Phase) (n : FrameNo) (m e gap : Int) (tb : Timebase),
    .venueStep v ∈ s.due → tb = (s.venue v).timebase → (s.venue v).state = .active → tb.phase = some ph →
    (∀ c ∈ (s.venue v).circuits, (s.circuit c).state ≠ .closing) →
    (s.venue v).newest = some n → tb.active = true → 1 ≤ tb.countdown →
    ph' = (fun y : Phase => y.step tb.rhoEff)^[48] ph →
    m = max (-1048576) (min 1048576 (Machine.dist (n + 1) ph'.nr * 96 - ph'.k)) →
    e = max (-4095) (min 4095 ((tb.sum + m) / 256 - (s.venue v).settings.target)) →
    gap = tb.rhoCmd - tb.rhoP →
    (tb.count = 255 → ∃ t : State, exec (.intervalUpdate v) s = .next t ∧ t.due = s.due.erase (.venueStep v) ∧
      (t.venue v).timebase.phase = some ph' ∧
      (t.venue v).timebase.rhoT = max (-1048576) (min 1048576
        (e * (match tb.loop with | .acquiring => 32768 | .locked => 8192))) ∧
      (t.venue v).timebase.rhoP = (if 2 ≤ tb.countdown then tb.rhoP else if gap.natAbs ≤ tb.step then tb.rhoCmd
        else if 0 < gap then tb.rhoP + tb.step else tb.rhoP - tb.step) ∧
      (t.venue v).timebase.rhoEff = max (-1073741) (min 1073741
        ((t.venue v).timebase.rhoP + (t.venue v).timebase.rhoT)) ∧
      (t.venue v).timebase.active = decide (2 ≤ tb.countdown ∨ tb.step < gap.natAbs) ∧
      (t.venue v).timebase.countdown = (if 2 ≤ tb.countdown then tb.countdown - 1
        else if gap.natAbs ≤ tb.step then 0 else tb.settle) ∧
      (t.venue v).timebase.sum = 0 ∧ (t.venue v).timebase.count = 0) ∧
    (tb.count < 255 → tb.countdown = 1 → ∃ t : State, exec (.schedulerStep v) s = .next t ∧
      t.due = s.due.erase (.venueStep v) ∧ (t.venue v).timebase.phase = some ph' ∧
      (t.venue v).timebase.rhoP = (if gap.natAbs ≤ tb.step then tb.rhoCmd
        else if 0 < gap then tb.rhoP + tb.step else tb.rhoP - tb.step) ∧
      (t.venue v).timebase.rhoT = tb.rhoT ∧
      (t.venue v).timebase.rhoEff = max (-1073741) (min 1073741 ((t.venue v).timebase.rhoP + tb.rhoT)) ∧
      (t.venue v).timebase.active = decide (tb.step < gap.natAbs) ∧
      (t.venue v).timebase.countdown = (if gap.natAbs ≤ tb.step then 0 else tb.settle) ∧
      (t.venue v).timebase.sum = tb.sum + m ∧ (t.venue v).timebase.count = tb.count + 1) ∧
    (∀ ws, s.pending = [] → s.due = .venueStep v :: ws → tb.count < 255 → 2 ≤ tb.countdown →
      ∃ t : State, step s = .next t ∧ t.due = ws ∧ (t.venue v).timebase =
        { tb with phase := some ph', sum := tb.sum + m, count := tb.count + 1, countdown := tb.countdown - 1 })

/-- R82, R91: a frame that seats a WAITING venue takes back a venue step of the present boundary that was left over, so that
the venue's first step is that of the next boundary; every other work left over stays. R84, R113 to R119: a venue step stages, for
every unmuted slot whose source is a circuit of the venue and did not fall back from an ended fade at the present boundary
(log 37), the 48 samples that the circuit's channel plays at the phases of
the step's advance, marked with the block count; no other slot's staging changes. Where no fade ends in it, the step leaves the circuits, the recovery queue and the health
record as its 48 advances leave them, but that each fade is one block further. One sample is drawn between two venue
samples, the second from the next frame at the end of a frame, each from a cell or concealed, at the circuit's level
or, in a fade, its part of it. The step is taken as the oldest work left over (log 2). -/
def Obligations.VenueStepStagesSamples : Prop :=
  (∀ (s t : State) (p : Fin 4) (rx : RxFrame) (f : VctIn) (v : Fin 24) (q : PathId), Handed s p rx f v q →
    (s.venue v).state = .waiting → exec (.frameReceived p rx) s = .next t → (t.venue v).state = .active →
    ∀ w, w ∈ t.due ↔ w ∈ s.due ∧ w ≠ .venueStep v) ∧
  (∀ (s : State) (ws : List Work) (v : Fin 24) (ph : Phase) (at' : Nat → State), s.pending = [] →
    s.due = .venueStep v :: ws → (s.venue v).state = .active ∨ (s.venue v).state = .holdover →
    (s.venue v).timebase.phase = some ph → at' 0 = { s with due := ws } →
    (∀ j, at' (j + 1) = (at' j).advanceStep v) →
    ∃ t : State, step s = .next t ∧ t.due = ws ∧ (∀ i,
      (t.slot i).muted = (s.slot i).muted ∧ (t.slot i).emitting = (s.slot i).emitting ∧
      ((s.slot i).muted = true ∨ (∀ y, (s.slot i).source = some y → y.circuit ∉ (s.venue v).circuits ∨ (s.slot i).fellBack = some y) →
        (t.slot i).staged = (s.slot i).staged) ∧
      (∀ y, (s.slot i).muted = false → (s.slot i).source = some y → y.circuit ∈ (s.venue v).circuits →
        (s.slot i).fellBack ≠ some y → y.channel < (s.circuit y.circuit).channels →
        (t.slot i).staged = (s.slot i).staged.set (s.reference.blockCount.toNat % 2)
          (some ⟨s.reference.blockCount, Vector.ofFn fun j : Fin 48 => ((at' j.val).circuit y.circuit).play
            ((fun z : Phase => z.step (s.venue v).timebase.rhoEff)^[j.val] ph) y.channel⟩)
          (Nat.mod_lt _ (by decide)))) ∧
      (ListLaw s → s.fadesEnding v = [] →
        (∀ c, t.circuit c = if c ∈ (s.venue v).circuits ∧ (s.circuit c).state = .closing
          then { (at' 48).circuit c with fade := (s.circuit c).fade - 1 } else (at' 48).circuit c) ∧
        (t.venue v).recovery = ((at' 48).venue v).recovery ∧ (t.venue v).health = ((at' 48).venue v).health ∧
        ∀ w, w ≠ v → t.venue w = s.venue w)) ∧
  (∀ (x : Circuit) (ph : Phase) (ch level : Nat) (a b fine y : Int),
    ((x.state = .running ∨ x.state = .concealing) ∧ level = x.level ∨
      x.state = .closing ∧ level = x.level * x.fade / x.fadeLength) →
    x.Draws ch ph.nr ph.k a →
    (ph.k < 95 ∧ x.Draws ch ph.nr (ph.k + 1) b ∨ ph.k = 95 ∧ x.Draws ch (ph.nr + 1) 0 b) →
    fine = ((ph.f.toNat / 65536 : Nat) : Int) → y = a + ((b - a) * fine + 32768) / 65536 →
    x.play ph ch = BitVec.ofInt 24 (max (-8388608) (min 8388607 ((y * level + 2048) / 4096))))

/-! ### Works of a boundary, and the events within them -/

/-- R29, R39, R118, R128: the venue step that plays the last block of a CLOSING circuit frees it. Each slot loses its references to
the circuits whose fade ends in the step and falls back to what is left of its stack, and a slot that one of them fed stages
the fallback source only from the next boundary (log 37). A CLOSING circuit with a remaining fade of 2 or more stays so, with one block
less to play; its step is taken as the oldest work left over (log 2). R26, R27: the countdown
that brings a CONCEALING circuit to 0 is its terminal count: re-armed or LOST as its flag
chooses, its window emptied, its recovery entries gone uncounted. Each event acts as the work in which it falls
(the model's, log 3). -/
def Obligations.FadeEndAndTerminalCount : Prop :=
  (∀ (s : State) (v : Fin 24) (c : Fin 128), .venueStep v ∈ s.due → ListLaw s →
    ((s.venue v).state = .active ∨ (s.venue v).state = .holdover) →
    c ∈ (s.venue v).circuits → (s.circuit c).state = .closing → (s.circuit c).fade = 1 →
    ∃ t : State, exec (.fadeEnd c) s = .next t ∧ t.circuit c = Circuit.free ∧
      c ∉ (t.venue v).circuits ∧ t.due = s.due.erase (.venueStep v) ∧
      (∀ i, ∀ y ∈ (t.slot i).source.toList ++ (t.slot i).stack, y.circuit ≠ c) ∧
      (∀ i, (s.slot i).Dropped (s.fadesEnding v) (t.slot i)) ∧
      ∀ i x, (s.slot i).source = some x → x.circuit ∈ s.fadesEnding v → (t.slot i).fellBack = (t.slot i).source) ∧
  (∀ (s : State) (ws : List Work) (v : Fin 24) (c : Fin 128), s.pending = [] → s.due = .venueStep v :: ws → ListLaw s →
    ((s.venue v).state = .active ∨ (s.venue v).state = .holdover) →
    c ∈ (s.venue v).circuits → (s.circuit c).state = .closing → 2 ≤ (s.circuit c).fade →
    ∃ t : State, step s = .next t ∧ t.due = ws ∧ (t.circuit c).state = .closing ∧
      (t.circuit c).fade = (s.circuit c).fade - 1 ∧ (t.circuit c).fadeLength = (s.circuit c).fadeLength ∧
      (t.circuit c).level = (s.circuit c).level ∧ (t.circuit c).venue = some v ∧ (t.circuit c).tag = (s.circuit c).tag ∧
      (t.venue v).circuits = (s.venue v).circuits.filter (fun d => decide (d ∉ s.fadesEnding v)) ∧
      (t.venue v).state = (s.venue v).state ∧
      ∀ i, (s.slot i).Dropped (s.fadesEnding v) (t.slot i)) ∧
  (∀ (s : State) (v : Fin 24) (c : Fin 128), .holdoverCountdown c ∈ s.due →
    (s.circuit c).state = .concealing → (s.circuit c).hold = 1 → (s.circuit c).venue = some v →
    exec (.terminalCount c) s = .next ((({ s with due := s.due.erase (.holdoverCountdown c) }).setCircuit c
      { s.circuit c with
        state := if (s.circuit c).autoRearm then .armed else .lost
        hold := if (s.circuit c).autoRearm then (s.circuit c).holdInit else 0
        lossLatched := (s.circuit c).lossLatched || !(s.circuit c).autoRearm
        cells := [], newest := none, lastPresent := none }).setVenue v
      { s.venue v with recovery := (s.venue v).recovery.filter fun e => e.circuit != c }))

/-- R8, R9, R91: a venue whose HOLDOVER reaches its loss time, or has passed one that was lowered, returns to WAITING with its
playout undone. R14: an
announced list that reaches its age is emptied. R53, R6, R89: a path silent for its timeout goes DOWN, and an
ACTIVE venue left with no path UP enters HOLDOVER: its trim and interval are discarded and its recovery queue is flushed, every
entry counted CANCELLED. Nothing else of the venue changes but its health record. Each event acts as the work in which it falls (the
model's, log 3). -/
def Obligations.BoundaryExpiries : Prop :=
  (∀ (s : State) (v : Fin 24), .holdoverCount v ∈ s.due → ListLaw s → (s.venue v).state = .holdover →
    (s.venue v).holdoverSince ≠ some s.reference.blockCount →
    1000 * (s.venue v).settings.lossTime ≤ (s.venue v).holdoverElapsed + 1 →
    ∃ t : State, exec (.venueLossExpiry v) s = .next t ∧
      (t.venue v).state = .waiting ∧ (t.venue v).timebase.phase = none ∧ (t.venue v).timebase.rhoT = 0 ∧
      (t.venue v).timebase.rhoP = (s.venue v).timebase.rhoP ∧
      (t.venue v).timebase.rhoEff = (s.venue v).timebase.rhoP ∧ (t.venue v).timebase.active = false ∧
      (t.venue v).newest = none ∧ (t.venue v).recovery = [] ∧ (t.venue v).holdoverElapsed = 0 ∧
      (t.venue v).aheadStreak = 0 ∧ (t.venue v).lateStreak = 0 ∧
      (t.venue v).settings = (s.venue v).settings ∧ (t.venue v).pathA = (s.venue v).pathA ∧
      (t.venue v).pathB = (s.venue v).pathB ∧
      (∀ c ∈ (s.venue v).circuits,
        ((s.circuit c).state = .closing → t.circuit c = Circuit.free) ∧
        ((s.circuit c).state ≠ .closing → (t.circuit c).cells = [] ∧ (t.circuit c).newest = none ∧
          (t.circuit c).state = (if (s.circuit c).state = .lost then .lost else .armed) ∧
          (t.circuit c).hold = (if (s.circuit c).state = .running ∨ (s.circuit c).state = .concealing
            then (s.circuit c).holdInit else (s.circuit c).hold))) ∧
      (∀ c, c ∉ (s.venue v).circuits → t.circuit c = s.circuit c) ∧
      (∀ w, w ≠ v → t.venue w = s.venue w) ∧ t.due = s.due.erase (.holdoverCount v)) ∧
  (∀ (s : State) (v : Fin 24), .announceAge v ∈ s.due → (s.venue v).state ≠ .free →
    (s.venue v).announceAge = some 4999 →
    exec (.announceExpiry v) s = .next (({ s with due := s.due.erase (.announceAge v) }).setVenue v
      { s.venue v with announced := [], announceAge := none })) ∧
  (∀ (s : State) (v : Fin 24) (q r : PathId) (l : BlockCount) (lost : Prop) (ve : Venue), .pathTimeout v q ∈ s.due →
    r ≠ q → (lost ↔ (s.venue v).state = .active ∧ ((s.venue v).path r).state ≠ .up) →
    ve = (s.venue v).setPath q { (s.venue v).path q with state := .down } → (s.venue v).state ≠ .free → ((s.venue v).path q).state = .up →
    ((s.venue v).path q).lastArrival = some l →
    (s.venue v).settings.pathTimeout ≤ (s.reference.blockCount - l).toNat →
    ∃ t : State, exec (.pathTimeout v q) s = .next t ∧
      (t.venue v).path q = { (s.venue v).path q with state := .down } ∧
      (t.venue v).path r = (s.venue v).path r ∧
      (t.venue v).health.pathDown = true ∧
      (t.venue v).health.counter .pathDown = min 65535 ((s.venue v).health.counter .pathDown + 1) ∧
      (t.venue v).state = (if (s.venue v).state = .active ∧ ((s.venue v).path r).state ≠ .up
        then .holdover else (s.venue v).state) ∧
      (¬ lost → t.venue v = { ve with health := (t.venue v).health } ∧
        (t.venue v).health.counter .cancelled = (s.venue v).health.counter .cancelled) ∧
      (lost → t.venue v = { ve with
          state := .holdover, holdoverElapsed := 0, holdoverSince := some s.reference.blockCount, recovery := []
          timebase := { ve.timebase with
            rhoT := 0, rhoEff := max (-1073741) (min 1073741 ve.timebase.rhoP), sum := 0, count := 0 }
          health := (t.venue v).health } ∧
        ((s.venue v).health.counter .cancelled ≤ 65535 → (t.venue v).health.counter .cancelled =
          min 65535 ((s.venue v).health.counter .cancelled + (s.venue v).recovery.length))) ∧
      (∀ c, t.circuit c = s.circuit c) ∧ (∀ w, w ≠ v → t.venue w = s.venue w) ∧
      t = { s with venues := t.venues, due := s.due.erase (.pathTimeout v q) })

/-- R104, R105, R106: the request pass of an ACTIVE venue asks once for every entry whose reorder allowance has
elapsed and that can still be played in time, asks a second time for one that has waited half the budget, drops the
entries that are too late, each counted TOO_LATE, and leaves every other as it stands. The event acts as the
work in which it falls (the model's, log 3). -/
def Obligations.RequestPassJudgesEntries : Prop :=
  ∀ (s : State) (v : Fin 24) (c : Fin 128) (n : FrameNo) (e : RecoveryEntry) (ph : Phase)
      (first second : RecoveryEntry → Prop) [DecidablePred first] [DecidablePred second],
    .requestPass v ∈ s.due → (s.venue v).state = .active → (s.venue v).timebase.phase = some ph →
    0 < (s.venue v).settings.attempts →
    (∀ y, first y ↔ y.attempts = 0 ∧
      (s.venue v).settings.allowance ≤ (s.reference.blockCount - y.createdAt).toNat) →
    (∀ y, second y ↔ y.attempts = 1 ∧ (s.venue v).settings.attempts = 2 ∧
      ∃ nq, y.nq = some nq ∧ (((s.venue v).settings.budget + 1) / 2 : Nat) ≤ Machine.dist ph.nr nq) →
    e ∈ (s.venue v).recovery → e.circuit = c → e.frame = n → first e →
    ∃ t : State, exec (.reorderAllowanceExpiry v c n) s = .next t ∧ t.due = s.due.erase (.requestPass v) ∧
      (t.venue v).recovery = (s.venue v).recovery.filterMap (fun y =>
        if first y then
          (if ((s.venue v).settings.budget : Int) ≤ Machine.dist y.frame ph.nr
            then some { y with attempts := y.attempts + 1, nq := some ph.nr } else none)
        else if second y then some { y with attempts := y.attempts + 1, nq := some ph.nr }
        else some y) ∧
      ((s.venue v).health.counter .tooLate ≤ 65535 → (t.venue v).health.counter .tooLate =
        min 65535 ((s.venue v).health.counter .tooLate + ((s.venue v).recovery.filter fun y =>
          decide (first y) && decide (Machine.dist y.frame ph.nr < (s.venue v).settings.budget)).length)) ∧
      (∀ d, t.circuit d = s.circuit d) ∧ (∀ w, w ≠ v → t.venue w = s.venue w) ∧
      t = { s with venues := t.venues, ports := t.ports, due := t.due, freeCount := t.freeCount }

/-- R55, R56, R57, R106, R107, R168: a request pass that asks for one to eight frames sends one RECOVERY frame, a copy over
each path that is UP, has a reply record and stands on an enabled port: to the address, with the tag control values
and the domain of that path's reply record, from the port's station address and with its EtherType, carrying Nr
and for each frame asked its circuit's tag, its number and the attempt, padded with zeros to 60 bytes before the
check sequence. A copy joins the port's queue, or is counted as transmit dropped while the link is down or the queue full. The
type of a sent tag is free (log 7); the pass is taken as the oldest work left over (log 2). -/
def Obligations.RequestPassSendsRecoveryFrame : Prop :=
  ∀ (s : State) (ws : List Work) (v : Fin 24) (ph : Phase) (first second : RecoveryEntry → Prop)
      [DecidablePred first] [DecidablePred second] (asked : List RecoveryEntry),
    s.pending = [] → s.due = .requestPass v :: ws → (s.venue v).state = .active →
    (s.venue v).timebase.phase = some ph → 0 < (s.venue v).settings.attempts →
    (s.venue v).pathA.port ≠ (s.venue v).pathB.port →
    (∀ y, first y ↔ y.attempts = 0 ∧
      (s.venue v).settings.allowance ≤ (s.reference.blockCount - y.createdAt).toNat ∧
      ((s.venue v).settings.budget : Int) ≤ Machine.dist y.frame ph.nr) →
    (∀ y, second y ↔ y.attempts = 1 ∧ (s.venue v).settings.attempts = 2 ∧
      ∃ nq, y.nq = some nq ∧ (((s.venue v).settings.budget + 1) / 2 : Nat) ≤ Machine.dist ph.nr nq) →
    asked = (s.venue v).recovery.filter (fun y => decide (first y) || decide (second y)) →
    1 ≤ asked.length → asked.length ≤ 8 →
    ∃ t : State, step s = .next t ∧ t.due = ws ∧
      (∀ i, (∀ q, ((s.venue v).path q).port = some i → ((s.venue v).path q).state ≠ .up ∨
          ((s.venue v).path q).reply = none ∨ (s.port i).enable = false) → t.port i = s.port i) ∧
      (∀ i q r, ((s.venue v).path q).port = some i → ((s.venue v).path q).state = .up →
        ((s.venue v).path q).reply = some r → (s.port i).enable = true →
        ∃ (tags : List (Bool × BitVec 16)) (bytes : List Byte), tags.map (fun x => x.2) = r.tags ∧
          bytes = wireFrame r.address (s.port i).address tags (s.port i).etherType
            (wireVct 1 3 0 r.domain (s.venue v).key 255 0 ph.nr (BitVec.ofNat 16 (6 * asked.length))
              (BitVec.ofNat 8 asked.length) ++
            asked.flatMap fun y => BitVec.ofNat 8 ((s.circuit y.circuit).tag.getD 0) :: be 4 y.frame.toNat ++
              [BitVec.ofNat 8 (y.attempts + 1)]) ∧
          t.port i = (if (s.port i).linkUp = true ∧ (s.port i).queue.length < 128
            then { s.port i with queue := (s.port i).queue ++ [bytes ++ List.replicate (60 - bytes.length) 0] }
            else { s.port i with dropped := min 65535 ((s.port i).dropped + 1) }))

/-- R134, R137: the foldback step at which a software key runs out clears it, and a lane whose holder is no longer
keyed goes to GAP for two blocks. R136, R138: under FIXED one whose gap ends goes to the first keyed source that targets it, or
IDLE. R153: the restart sets the window count of every open venue to 0. Each acts only as the work in which
it falls (the model's, log 3). -/
def Obligations.FoldbackEventsAndWindowRestart : Prop :=
  (∀ (s : State) (n : Fin 16), .foldbackStep ∈ s.due → (s.source n).softKey = true →
    (s.source n).remaining = 1 →
    ∃ t : State, exec (.softwareKeyExpiry n) s = .next t ∧ t.due = s.due.erase .foldbackStep ∧
      t.source n = { s.source n with softKey := false, remaining := 0, lineSample := s.keyLow.getLsbD n.val } ∧
      (∀ m, t.source m = { s.source m with
        softKey := (s.source m).softKey && (s.source m).remaining != 1
        remaining := if (s.source m).softKey then (s.source m).remaining - 1 else (s.source m).remaining
        lineSample := s.keyLow.getLsbD m.val }) ∧
      ∀ v, (s.venue v).lane.enable = true → (s.venue v).lane.state = .held n →
        (t.venue v).lane.state = (if (s.source n).lineEnable && s.keyLow.getLsbD n.val then .held n else .gap 2)) ∧
  (∀ (s : State) (v : Fin 24) (asks : Fin 16 → Prop), .foldbackStep ∈ s.due → s.arbiter = .fixed →
    (s.venue v).lane.state = .gap 1 →
    (∀ m, asks m ↔ (s.source m).targets.getLsbD v.val = true ∧
      ((s.source m).lineEnable = true ∧ s.keyLow.getLsbD m.val = true ∨
        (s.source m).softKey = true ∧ (s.source m).remaining ≠ 1)) →
    ∃ t : State, exec (.gapEnd v) s = .next t ∧ t.due = s.due.erase .foldbackStep ∧
      ((∀ m, ¬ asks m) → (t.venue v).lane.state = .idle ∧
        (t.venue v).lane.lastHolder = (s.venue v).lane.lastHolder) ∧
      (∀ m, asks m → (∀ k, k < m → ¬ asks k) → (t.venue v).lane.state = .held m ∧
        (t.venue v).lane.lastHolder = some m)) ∧
  (∀ s : State, .windowRestart ∈ s.due → ∃ t : State, exec .degradeWindowRestart s = .next t ∧
    t.due = s.due.erase .windowRestart ∧ t = { s with venues := t.venues, due := t.due } ∧
    ∀ v, t.venue v = if (s.venue v).state = .free then s.venue v
      else { s.venue v with health := { (s.venue v).health with windowCount := 0 } }) ∧
  (∀ (s : State) (v : Fin 24) (c : Fin 128) (q : PathId) (n : Fin 16) (fr : FrameNo), s.due = [] →
    ∀ i ∈ [Instr.intervalUpdate v, .schedulerStep v, .fadeEnd c, .terminalCount c, .venueLossExpiry v,
      .announceExpiry v, .pathTimeout v q, .reorderAllowanceExpiry v c fr, .softwareKeyExpiry n, .gapEnd v,
      .degradeWindowRestart], exec i s = .next s)

/-- R130, R133, R139, R140, R55, R168: the foldback step. At an odd block count every enabled lane keeps its block for the first
half of the next frame and nothing is sent. At an even count the one open venue whose lane is enabled sends a FOLDBACK frame
over each path that can carry it: the lane's sequence, which then increases by 1, the tally of every COMMENTARY
circuit in list order, on air when it plays and an unmuted slot's source names it, the half kept and the block of this
step; talkback-active while the lane is HELD. The step is taken as the oldest work left over (log 2). -/
def Obligations.FoldbackStepKeepsOrSends : Prop :=
  (∀ (s : State) (ws : List Work), s.pending = [] → s.due = .foldbackStep :: ws →
    s.reference.blockCount.toNat % 2 = 1 →
    ∃ t : State, step s = .next t ∧ t.due = ws ∧ t.ports = s.ports ∧ t.circuits = s.circuits ∧
      ∀ v, (t.venue v).lane.half = (if (s.venue v).lane.enable
        then Vector.ofFn (fun j : Fin 48 => (t.venue v).lane.audio s.returnBlock j)
        else (s.venue v).lane.half) ∧ (t.venue v).lane.sequence = (s.venue v).lane.sequence) ∧
  (∀ (s : State) (ws : List Work) (v : Fin 24) (onAir : Fin 128 → Bool), s.pending = [] →
    s.due = .foldbackStep :: ws → s.reference.blockCount.toNat % 2 = 0 →
    (s.venue v).state ≠ .free → (s.venue v).lane.enable = true →
    (∀ w, w ≠ v → (s.venue w).state ≠ .free → (s.venue w).lane.enable = false) →
    (s.venue v).circuits.length ≤ 8 → (s.venue v).pathA.port ≠ (s.venue v).pathB.port →
    (∀ c, onAir c = true ↔ ((s.circuit c).state = .running ∨ (s.circuit c).state = .concealing ∨
        (s.circuit c).state = .closing) ∧
      ∃ i y, (s.slot i).muted = false ∧ (s.slot i).source = some y ∧ y.circuit = c) →
    ∃ (t : State) (n : Nat) (tallies : List Byte), step s = .next t ∧ t.due = ws ∧
      n = ((s.venue v).circuits.filter fun c => (s.circuit c).kind == .commentary).length ∧
      tallies = ((s.venue v).circuits.filter fun c => (s.circuit c).kind == .commentary).flatMap (fun c =>
        [BitVec.ofNat 8 ((s.circuit c).tag.getD 0), if onAir c then 1 else 0]) ∧
      (t.venue v).lane.sequence = (s.venue v).lane.sequence + 1 ∧
      (t.venue v).lane.half = (s.venue v).lane.half ∧
      (∀ i, (∀ q, ((s.venue v).path q).port = some i → ((s.venue v).path q).state ≠ .up ∨
          ((s.venue v).path q).reply = none ∨ (s.port i).enable = false) → t.port i = s.port i) ∧
      (∀ i q r, ((s.venue v).path q).port = some i → ((s.venue v).path q).state = .up →
        ((s.venue v).path q).reply = some r → (s.port i).enable = true →
        ∃ (tags : List (Bool × BitVec 16)) (bytes : List Byte), tags.map (fun x => x.2) = r.tags ∧
          bytes = wireFrame r.address (s.port i).address tags (s.port i).etherType
            (wireVct 1 4 (if (∃ m, (t.venue v).lane.state = .held m) then 4 else 0) r.domain (s.venue v).key 255 1
              ((s.venue v).lane.sequence.setWidth 32) (BitVec.ofNat 16 (2 * n + 288)) (BitVec.ofNat 8 n) ++
            tallies ++ (s.venue v).lane.half.toList.flatMap (fun y => be 3 y.toNat) ++
            (List.finRange 48).flatMap fun j => be 3 ((t.venue v).lane.audio s.returnBlock j).toNat) ∧
          t.port i = (if (s.port i).linkUp = true ∧ (s.port i).queue.length < 128
            then { s.port i with queue := (s.port i).queue ++ [bytes ++ List.replicate (60 - bytes.length) 0] }
            else { s.port i with dropped := min 65535 ((s.port i).dropped + 1) })))

/-! ### Samples -/

/-- R83, R85, R72, R102: a step of the read-phase advance that stays in its frame changes the read phase alone. One that leaves a frame
makes the frame advance: the cell of each circuit of the venue that holds the frame left is emptied, each circuit is judged at the
frame entered, and the recovery entries for it leave the queue, each counted UNRECOVERED and reported in queue order with its circuit, its
number and no port; nothing else changes. R24, R25: how a frame entry judges a circuit. R113 to R118: one output sample of a circuit channel, from two
samples of a cell, from the conceal store of a CROWD circuit, or 0. R139: one sample of a lane's audio. -/
def Obligations.JudgementsAndSamples : Prop :=
  (∀ (s t : State) (v : Fin 24) (ph ph' : Phase) (gone : List RecoveryEntry) (ve : Venue),
    (s.venue v).timebase.phase = some ph → ph' = ph.step (s.venue v).timebase.rhoEff → t = s.advanceStep v →
    gone = (s.venue v).recovery.filter (fun e => decide (e.frame = ph'.nr)) →
    ve = { s.venue v with timebase := { (s.venue v).timebase with phase := some ph' } } →
    (ph'.nr = ph.nr → t = s.setVenue v ve) ∧
    (ph'.nr ≠ ph.nr → (s.venue v).circuits.Nodup → ∃ h : Health,
      t = { s.setVenue v { ve with
              recovery := (s.venue v).recovery.filter (fun e => decide (e.frame ≠ ph'.nr)), health := h } with
            circuits := t.circuits } ∧
      (∀ c, t.circuit c = if c ∈ (s.venue v).circuits then
          ({ s.circuit c with cells := if (s.circuit c).held ph.nr = none then (s.circuit c).cells
              else (s.circuit c).cells.filter fun y => decide (y.index ≠ ph.nr.toNat % (s.circuit c).window) } :
            Circuit).enter ph'.nr
        else s.circuit c) ∧
      ((s.venue v).health.counter .unrecovered ≤ 65535 →
        h.counter .unrecovered = min 65535 ((s.venue v).health.counter .unrecovered + gone.length)) ∧
      (∀ k, k ≠ .unrecovered → h.counter k = (s.venue v).health.counter k) ∧
      (∀ e rest, gone = e :: rest → (s.venue v).health.capture = none →
        (s.venue v).health.captureEnable.getLsbD ErrorKind.unrecovered.index.val = true →
        h.capture = some ⟨.unrecovered, some e.circuit, some e.frame, none, s.reference.blockCount⟩) ∧
      (∀ old, (s.venue v).health.capture = some old → h.capture = some old) ∧
      (gone = [] → h = (s.venue v).health))) ∧
  (∀ (x : Circuit) (n : FrameNo), x.state = .free ∨ x.state = .lost → x.enter n = x) ∧
  (∀ (x : Circuit) (n : FrameNo) (cell : Cell), x.held n = some cell →
    (x.state = .armed ∨ x.state = .running ∨ x.state = .concealing ∨ x.state = .closing) →
    x.enter n = { x with
      state := if x.state = .closing then .closing else .running
      hold := if x.state = .concealing then x.holdInit else x.hold
      lastPresent := some n
      conceal := if x.kind = .crowd then cell.chans ++ x.conceal.drop cell.chans.length else x.conceal }) ∧
  (∀ (x : Circuit) (n : FrameNo), x.held n = none →
    x.enter n = { x with
      state := if x.state = .running then .concealing else x.state
      concealed := if x.state = .running ∨ x.state = .concealing then min 65535 (x.concealed + 1)
        else x.concealed }) ∧
  (∀ (x : Circuit) (ph : Phase) (ch : Nat), x.state = .free ∨ x.state = .armed ∨ x.state = .lost →
    x.play ph ch = 0) ∧
  (∀ (x : Circuit) (ph : Phase) (ch level : Nat) (cell : Cell) (xs : FrameSamples) (a b fine y : Int)
      (h : ph.k < 95),
    ((x.state = .running ∨ x.state = .concealing) ∧ level = x.level ∨
      x.state = .closing ∧ level = x.level * x.fade / x.fadeLength) →
    x.held ph.nr = some cell → cell.chans[ch]? = some xs →
    a = (xs[ph.k]'(by omega)).toInt → b = (xs[ph.k + 1]'(by omega)).toInt →
    fine = ((ph.f.toNat / 65536 : Nat) : Int) → y = a + ((b - a) * fine + 32768) / 65536 →
    x.play ph ch = BitVec.ofInt 24 (max (-8388608) (min 8388607 ((y * level + 2048) / 4096)))) ∧
  (∀ (x : Circuit) (ph : Phase) (ch : Nat) (last : FrameNo) (xs : FrameSamples) (d : Nat) (a b fine y : Int)
      (h : ph.k < 95),
    (x.state = .running ∨ x.state = .concealing) → x.held ph.nr = none → x.kind = .crowd →
    x.lastPresent = some last → Machine.dist ph.nr last = d → x.conceal[ch]? = some xs →
    a = (if d ≤ 23 then (xs[ph.k]'(by omega)).toInt / 2 ^ d else 0) →
    b = (if d ≤ 23 then (xs[ph.k + 1]'(by omega)).toInt / 2 ^ d else 0) →
    fine = ((ph.f.toNat / 65536 : Nat) : Int) → y = a + ((b - a) * fine + 32768) / 65536 →
    x.play ph ch = BitVec.ofInt 24 (max (-8388608) (min 8388607 ((y * x.level + 2048) / 4096)))) ∧
  (∀ (l : Lane) (ret : Vector BlockSamples 32) (j : Fin 48) (c : Int),
    c = (match l.cleanSlot with | none => 0 | some i => ((ret[i])[j]).toInt) →
    (∀ n : Fin 16, l.state = .held n → l.audio ret j = BitVec.ofInt 24 (max (-8388608)
      (min 8388607 (((ret[n.val])[j]).toInt + c / 2 ^ l.duck)))) ∧
    ((∀ n, l.state ≠ .held n) → (l.audio ret j).toInt = c))

/-! ### Invariants -/

/-- R60: every frame of a window stands in its cell, and the window in canonical form, before and after every
step. -/
def Obligations.StepKeepsWindowLaw : Prop := ∀ s t : State, WindowLaw s → step s = .next t → WindowLaw t

/-- R60, R98, R99: only a seated venue has a read phase, frames held and a newest frame in a circuit; each frame held stands less than a window
ahead of Nr; and a recovery queue, empty unless the venue is ACTIVE, stands in queue order without repeats, each entry ahead of Nr
and behind its circuit's newest frame: before and after every step. -/
def Obligations.StepKeepsPlaceLaw : Prop :=
  ∀ s t : State, ListLaw s → WindowLaw s → SettingsLaw s → PlaceLaw s → step s = .next t → PlaceLaw t

/-- R22: the pool's units are accounted for, before and after every step. -/
def Obligations.StepKeepsPoolLaw : Prop := ∀ s t : State, PoolLaw s → step s = .next t → PoolLaw t

/-- R4, R33: a venue's settings stay in their ranges, R against T, and the windows of its circuits admit T, before and after
every step. -/
def Obligations.StepKeepsSettingsLaw : Prop := ∀ s t : State, ListLaw s → SettingsLaw s → step s = .next t → SettingsLaw t

/-- R80: the bounds of every rate are kept by every step. R26: what the holdover count says of a circuit's state is kept by every step. -/
def Obligations.StepKeepsRateAndHoldLaws : Prop :=
  (∀ s t : State, RateLaw s → step s = .next t → RateLaw t) ∧
  (∀ s t : State, HoldLaw s → step s = .next t → HoldLaw t)

/-- R10: every open circuit stands once in the list of its venue and nowhere else, before and after every
step. -/
def Obligations.StepKeepsListLaw : Prop := ∀ s t : State, ListLaw s → step s = .next t → ListLaw t

/-- R2: no two open venues share a key and none holds key 0, before and after every step. R10, R13, R56, R98: no list or queue outgrows its depth. -/
def Obligations.StepKeepsKeyAndCapacityLaws : Prop :=
  (∀ s t : State, KeyLaw s → step s = .next t → KeyLaw t) ∧
  (∀ s t : State, CapacityLaw s → step s = .next t → CapacityLaw t)

/-- R121, R128: every source of a slot names a channel of an open circuit, before and after every step. -/
def Obligations.StepKeepsSlotLaw : Prop := ∀ s t : State, SlotLaw s → step s = .next t → SlotLaw t

/-- R132, R135 to R138: target sets, lane enables and lane states stand together, before and after every step. -/
def Obligations.StepKeepsLaneLaw : Prop := ∀ s t : State, LaneLaw s → step s = .next t → LaneLaw t

/-- The part right after reset meets every law. -/
def Obligations.ResetMeetsLaws : Prop :=
  WindowLaw State.reset ∧ PoolLaw State.reset ∧ RateLaw State.reset ∧ HoldLaw State.reset ∧
  ListLaw State.reset ∧ KeyLaw State.reset ∧ SlotLaw State.reset ∧ LaneLaw State.reset ∧
  CapacityLaw State.reset ∧ SettingsLaw State.reset ∧ PlaceLaw State.reset
end

