-- ==== Sys2Proof/Laws/State.lean ====
section
/-! SUPPORT. The small lemmas of the state: what each record update leaves in each field, and reading a record
after writing one. Every update of a record in the model is one of the five `set` operations below. -/

namespace Sys2Proof.Machine

/-! ### Changing a record is setting it -/

@[simp] theorem State.modVenue_eq (s : State) (i : Fin 24) (f : Venue → Venue) :
    s.modVenue i f = s.setVenue i (f (s.venue i)) := rfl

@[simp] theorem State.modCircuit_eq (s : State) (i : Fin 128) (f : Circuit → Circuit) :
    s.modCircuit i f = s.setCircuit i (f (s.circuit i)) := rfl

@[simp] theorem State.modPort_eq (s : State) (i : Fin 4) (f : Port → Port) :
    s.modPort i f = s.setPort i (f (s.port i)) := rfl

/-! ### Setting a venue -/

section
variable (s : State) (i j : Fin 24) (x : Venue)

@[simp] theorem State.setVenue_venue : (s.setVenue i x).venue i = x := by
  simp [State.setVenue, State.venue]

theorem State.setVenue_venue_of_ne (h : j ≠ i) : (s.setVenue i x).venue j = s.venue j := by
  have h' : i.val ≠ j.val := fun e => h (Fin.ext e.symm)
  simp [State.setVenue, State.venue, h']

theorem State.setVenue_venue_eq_ite : (s.setVenue i x).venue j = if j = i then x else s.venue j := by
  by_cases h : j = i
  · subst h; simp
  · simp [h, State.setVenue_venue_of_ne]

@[simp] theorem State.setVenue_setVenue (y) : (s.setVenue i x).setVenue i y = s.setVenue i y := by
  simp [State.setVenue]

@[simp] theorem State.setVenue_self : s.setVenue i (s.venue i) = s := by
  simp [State.setVenue, State.venue]

@[simp] theorem State.setVenue_circuit (n : Fin 128) : (s.setVenue i x).circuit n = s.circuit n := rfl
@[simp] theorem State.setVenue_port (n : Fin 4) : (s.setVenue i x).port n = s.port n := rfl
@[simp] theorem State.setVenue_slot (n : Fin 128) : (s.setVenue i x).slot n = s.slot n := rfl
@[simp] theorem State.setVenue_source (n : Fin 16) : (s.setVenue i x).source n = s.source n := rfl
@[simp] theorem State.setVenue_circuits : (s.setVenue i x).circuits = s.circuits := rfl
@[simp] theorem State.setVenue_ports : (s.setVenue i x).ports = s.ports := rfl
@[simp] theorem State.setVenue_slots : (s.setVenue i x).slots = s.slots := rfl
@[simp] theorem State.setVenue_sources : (s.setVenue i x).sources = s.sources := rfl
@[simp] theorem State.setVenue_resetLow : (s.setVenue i x).resetLow = s.resetLow := rfl
@[simp] theorem State.setVenue_reference : (s.setVenue i x).reference = s.reference := rfl
@[simp] theorem State.setVenue_control : (s.setVenue i x).control = s.control := rfl
@[simp] theorem State.setVenue_poolFree : (s.setVenue i x).poolFree = s.poolFree := rfl
@[simp] theorem State.setVenue_arbiter : (s.setVenue i x).arbiter = s.arbiter := rfl
@[simp] theorem State.setVenue_returnBlock : (s.setVenue i x).returnBlock = s.returnBlock := rfl
@[simp] theorem State.setVenue_keyLow : (s.setVenue i x).keyLow = s.keyLow := rfl
@[simp] theorem State.setVenue_classEnables : (s.setVenue i x).classEnables = s.classEnables := rfl
@[simp] theorem State.setVenue_refLoss : (s.setVenue i x).refLoss = s.refLoss := rfl
@[simp] theorem State.setVenue_due : (s.setVenue i x).due = s.due := rfl
@[simp] theorem State.setVenue_freeCount : (s.setVenue i x).freeCount = s.freeCount := rfl
@[simp] theorem State.setVenue_pending : (s.setVenue i x).pending = s.pending := rfl
@[simp] theorem State.setVenue_blockCount : (s.setVenue i x).blockCount = s.blockCount := rfl

end

/-! ### Setting a circuit -/

section
variable (s : State) (i j : Fin 128) (x : Circuit)

@[simp] theorem State.setCircuit_circuit : (s.setCircuit i x).circuit i = x := by
  simp [State.setCircuit, State.circuit]

theorem State.setCircuit_circuit_of_ne (h : j ≠ i) : (s.setCircuit i x).circuit j = s.circuit j := by
  have h' : i.val ≠ j.val := fun e => h (Fin.ext e.symm)
  simp [State.setCircuit, State.circuit, h']

theorem State.setCircuit_circuit_eq_ite : (s.setCircuit i x).circuit j = if j = i then x else s.circuit j := by
  by_cases h : j = i
  · subst h; simp
  · simp [h, State.setCircuit_circuit_of_ne]

@[simp] theorem State.setCircuit_setCircuit (y) : (s.setCircuit i x).setCircuit i y = s.setCircuit i y := by
  simp [State.setCircuit]

@[simp] theorem State.setCircuit_self : s.setCircuit i (s.circuit i) = s := by
  simp [State.setCircuit, State.circuit]

@[simp] theorem State.setCircuit_venue (n : Fin 24) : (s.setCircuit i x).venue n = s.venue n := rfl
@[simp] theorem State.setCircuit_port (n : Fin 4) : (s.setCircuit i x).port n = s.port n := rfl
@[simp] theorem State.setCircuit_slot (n : Fin 128) : (s.setCircuit i x).slot n = s.slot n := rfl
@[simp] theorem State.setCircuit_source (n : Fin 16) : (s.setCircuit i x).source n = s.source n := rfl
@[simp] theorem State.setCircuit_venues : (s.setCircuit i x).venues = s.venues := rfl
@[simp] theorem State.setCircuit_ports : (s.setCircuit i x).ports = s.ports := rfl
@[simp] theorem State.setCircuit_slots : (s.setCircuit i x).slots = s.slots := rfl
@[simp] theorem State.setCircuit_sources : (s.setCircuit i x).sources = s.sources := rfl
@[simp] theorem State.setCircuit_resetLow : (s.setCircuit i x).resetLow = s.resetLow := rfl
@[simp] theorem State.setCircuit_reference : (s.setCircuit i x).reference = s.reference := rfl
@[simp] theorem State.setCircuit_control : (s.setCircuit i x).control = s.control := rfl
@[simp] theorem State.setCircuit_poolFree : (s.setCircuit i x).poolFree = s.poolFree := rfl
@[simp] theorem State.setCircuit_arbiter : (s.setCircuit i x).arbiter = s.arbiter := rfl
@[simp] theorem State.setCircuit_returnBlock : (s.setCircuit i x).returnBlock = s.returnBlock := rfl
@[simp] theorem State.setCircuit_keyLow : (s.setCircuit i x).keyLow = s.keyLow := rfl
@[simp] theorem State.setCircuit_classEnables : (s.setCircuit i x).classEnables = s.classEnables := rfl
@[simp] theorem State.setCircuit_refLoss : (s.setCircuit i x).refLoss = s.refLoss := rfl
@[simp] theorem State.setCircuit_due : (s.setCircuit i x).due = s.due := rfl
@[simp] theorem State.setCircuit_freeCount : (s.setCircuit i x).freeCount = s.freeCount := rfl
@[simp] theorem State.setCircuit_pending : (s.setCircuit i x).pending = s.pending := rfl
@[simp] theorem State.setCircuit_blockCount : (s.setCircuit i x).blockCount = s.blockCount := rfl

end

/-! ### Setting a port -/

section
variable (s : State) (i j : Fin 4) (x : Port)

@[simp] theorem State.setPort_port : (s.setPort i x).port i = x := by
  simp [State.setPort, State.port]

theorem State.setPort_port_of_ne (h : j ≠ i) : (s.setPort i x).port j = s.port j := by
  have h' : i.val ≠ j.val := fun e => h (Fin.ext e.symm)
  simp [State.setPort, State.port, h']

theorem State.setPort_port_eq_ite : (s.setPort i x).port j = if j = i then x else s.port j := by
  by_cases h : j = i
  · subst h; simp
  · simp [h, State.setPort_port_of_ne]

@[simp] theorem State.setPort_setPort (y) : (s.setPort i x).setPort i y = s.setPort i y := by
  simp [State.setPort]

@[simp] theorem State.setPort_self : s.setPort i (s.port i) = s := by
  simp [State.setPort, State.port]

@[simp] theorem State.setPort_venue (n : Fin 24) : (s.setPort i x).venue n = s.venue n := rfl
@[simp] theorem State.setPort_circuit (n : Fin 128) : (s.setPort i x).circuit n = s.circuit n := rfl
@[simp] theorem State.setPort_slot (n : Fin 128) : (s.setPort i x).slot n = s.slot n := rfl
@[simp] theorem State.setPort_source (n : Fin 16) : (s.setPort i x).source n = s.source n := rfl
@[simp] theorem State.setPort_venues : (s.setPort i x).venues = s.venues := rfl
@[simp] theorem State.setPort_circuits : (s.setPort i x).circuits = s.circuits := rfl
@[simp] theorem State.setPort_slots : (s.setPort i x).slots = s.slots := rfl
@[simp] theorem State.setPort_sources : (s.setPort i x).sources = s.sources := rfl
@[simp] theorem State.setPort_resetLow : (s.setPort i x).resetLow = s.resetLow := rfl
@[simp] theorem State.setPort_reference : (s.setPort i x).reference = s.reference := rfl
@[simp] theorem State.setPort_control : (s.setPort i x).control = s.control := rfl
@[simp] theorem State.setPort_poolFree : (s.setPort i x).poolFree = s.poolFree := rfl
@[simp] theorem State.setPort_arbiter : (s.setPort i x).arbiter = s.arbiter := rfl
@[simp] theorem State.setPort_returnBlock : (s.setPort i x).returnBlock = s.returnBlock := rfl
@[simp] theorem State.setPort_keyLow : (s.setPort i x).keyLow = s.keyLow := rfl
@[simp] theorem State.setPort_classEnables : (s.setPort i x).classEnables = s.classEnables := rfl
@[simp] theorem State.setPort_refLoss : (s.setPort i x).refLoss = s.refLoss := rfl
@[simp] theorem State.setPort_due : (s.setPort i x).due = s.due := rfl
@[simp] theorem State.setPort_freeCount : (s.setPort i x).freeCount = s.freeCount := rfl
@[simp] theorem State.setPort_pending : (s.setPort i x).pending = s.pending := rfl
@[simp] theorem State.setPort_blockCount : (s.setPort i x).blockCount = s.blockCount := rfl

end

/-! ### Setting a slot -/

section
variable (s : State) (i j : Fin 128) (x : Slot)

@[simp] theorem State.setSlot_slot : (s.setSlot i x).slot i = x := by
  simp [State.setSlot, State.slot]

theorem State.setSlot_slot_of_ne (h : j ≠ i) : (s.setSlot i x).slot j = s.slot j := by
  have h' : i.val ≠ j.val := fun e => h (Fin.ext e.symm)
  simp [State.setSlot, State.slot, h']

theorem State.setSlot_slot_eq_ite : (s.setSlot i x).slot j = if j = i then x else s.slot j := by
  by_cases h : j = i
  · subst h; simp
  · simp [h, State.setSlot_slot_of_ne]

@[simp] theorem State.setSlot_setSlot (y) : (s.setSlot i x).setSlot i y = s.setSlot i y := by
  simp [State.setSlot]

@[simp] theorem State.setSlot_self : s.setSlot i (s.slot i) = s := by
  simp [State.setSlot, State.slot]

@[simp] theorem State.setSlot_venue (n : Fin 24) : (s.setSlot i x).venue n = s.venue n := rfl
@[simp] theorem State.setSlot_circuit (n : Fin 128) : (s.setSlot i x).circuit n = s.circuit n := rfl
@[simp] theorem State.setSlot_port (n : Fin 4) : (s.setSlot i x).port n = s.port n := rfl
@[simp] theorem State.setSlot_source (n : Fin 16) : (s.setSlot i x).source n = s.source n := rfl
@[simp] theorem State.setSlot_venues : (s.setSlot i x).venues = s.venues := rfl
@[simp] theorem State.setSlot_circuits : (s.setSlot i x).circuits = s.circuits := rfl
@[simp] theorem State.setSlot_ports : (s.setSlot i x).ports = s.ports := rfl
@[simp] theorem State.setSlot_sources : (s.setSlot i x).sources = s.sources := rfl
@[simp] theorem State.setSlot_resetLow : (s.setSlot i x).resetLow = s.resetLow := rfl
@[simp] theorem State.setSlot_reference : (s.setSlot i x).reference = s.reference := rfl
@[simp] theorem State.setSlot_control : (s.setSlot i x).control = s.control := rfl
@[simp] theorem State.setSlot_poolFree : (s.setSlot i x).poolFree = s.poolFree := rfl
@[simp] theorem State.setSlot_arbiter : (s.setSlot i x).arbiter = s.arbiter := rfl
@[simp] theorem State.setSlot_returnBlock : (s.setSlot i x).returnBlock = s.returnBlock := rfl
@[simp] theorem State.setSlot_keyLow : (s.setSlot i x).keyLow = s.keyLow := rfl
@[simp] theorem State.setSlot_classEnables : (s.setSlot i x).classEnables = s.classEnables := rfl
@[simp] theorem State.setSlot_refLoss : (s.setSlot i x).refLoss = s.refLoss := rfl
@[simp] theorem State.setSlot_due : (s.setSlot i x).due = s.due := rfl
@[simp] theorem State.setSlot_freeCount : (s.setSlot i x).freeCount = s.freeCount := rfl
@[simp] theorem State.setSlot_pending : (s.setSlot i x).pending = s.pending := rfl
@[simp] theorem State.setSlot_blockCount : (s.setSlot i x).blockCount = s.blockCount := rfl

end

/-! ### Setting a source -/

section
variable (s : State) (i j : Fin 16) (x : Source)

@[simp] theorem State.setSource_source : (s.setSource i x).source i = x := by
  simp [State.setSource, State.source]

theorem State.setSource_source_of_ne (h : j ≠ i) : (s.setSource i x).source j = s.source j := by
  have h' : i.val ≠ j.val := fun e => h (Fin.ext e.symm)
  simp [State.setSource, State.source, h']

theorem State.setSource_source_eq_ite : (s.setSource i x).source j = if j = i then x else s.source j := by
  by_cases h : j = i
  · subst h; simp
  · simp [h, State.setSource_source_of_ne]

@[simp] theorem State.setSource_setSource (y) : (s.setSource i x).setSource i y = s.setSource i y := by
  simp [State.setSource]

@[simp] theorem State.setSource_self : s.setSource i (s.source i) = s := by
  simp [State.setSource, State.source]

@[simp] theorem State.setSource_venue (n : Fin 24) : (s.setSource i x).venue n = s.venue n := rfl
@[simp] theorem State.setSource_circuit (n : Fin 128) : (s.setSource i x).circuit n = s.circuit n := rfl
@[simp] theorem State.setSource_port (n : Fin 4) : (s.setSource i x).port n = s.port n := rfl
@[simp] theorem State.setSource_slot (n : Fin 128) : (s.setSource i x).slot n = s.slot n := rfl
@[simp] theorem State.setSource_venues : (s.setSource i x).venues = s.venues := rfl
@[simp] theorem State.setSource_circuits : (s.setSource i x).circuits = s.circuits := rfl
@[simp] theorem State.setSource_ports : (s.setSource i x).ports = s.ports := rfl
@[simp] theorem State.setSource_slots : (s.setSource i x).slots = s.slots := rfl
@[simp] theorem State.setSource_resetLow : (s.setSource i x).resetLow = s.resetLow := rfl
@[simp] theorem State.setSource_reference : (s.setSource i x).reference = s.reference := rfl
@[simp] theorem State.setSource_control : (s.setSource i x).control = s.control := rfl
@[simp] theorem State.setSource_poolFree : (s.setSource i x).poolFree = s.poolFree := rfl
@[simp] theorem State.setSource_arbiter : (s.setSource i x).arbiter = s.arbiter := rfl
@[simp] theorem State.setSource_returnBlock : (s.setSource i x).returnBlock = s.returnBlock := rfl
@[simp] theorem State.setSource_keyLow : (s.setSource i x).keyLow = s.keyLow := rfl
@[simp] theorem State.setSource_classEnables : (s.setSource i x).classEnables = s.classEnables := rfl
@[simp] theorem State.setSource_refLoss : (s.setSource i x).refLoss = s.refLoss := rfl
@[simp] theorem State.setSource_due : (s.setSource i x).due = s.due := rfl
@[simp] theorem State.setSource_freeCount : (s.setSource i x).freeCount = s.freeCount := rfl
@[simp] theorem State.setSource_pending : (s.setSource i x).pending = s.pending := rfl
@[simp] theorem State.setSource_blockCount : (s.setSource i x).blockCount = s.blockCount := rfl

end

/-! ### Paths of a venue -/

section
variable (v : Venue) (p : PathId) (x : Path)

@[simp] theorem Venue.setPath_path : (v.setPath p x).path p = x := by cases p <;> rfl

theorem Venue.setPath_path_of_ne (q : PathId) (h : q ≠ p) : (v.setPath p x).path q = v.path q := by
  cases p <;> cases q <;> first | rfl | exact absurd rfl h

@[simp] theorem Venue.setPath_state : (v.setPath p x).state = v.state := by cases p <;> rfl
@[simp] theorem Venue.setPath_key : (v.setPath p x).key = v.key := by cases p <;> rfl
@[simp] theorem Venue.setPath_settings : (v.setPath p x).settings = v.settings := by cases p <;> rfl
@[simp] theorem Venue.setPath_holdoverElapsed : (v.setPath p x).holdoverElapsed = v.holdoverElapsed := by cases p <;> rfl
@[simp] theorem Venue.setPath_holdoverSince : (v.setPath p x).holdoverSince = v.holdoverSince := by cases p <;> rfl
@[simp] theorem Venue.setPath_circuits : (v.setPath p x).circuits = v.circuits := by cases p <;> rfl
@[simp] theorem Venue.setPath_announced : (v.setPath p x).announced = v.announced := by cases p <;> rfl
@[simp] theorem Venue.setPath_announceAge : (v.setPath p x).announceAge = v.announceAge := by cases p <;> rfl
@[simp] theorem Venue.setPath_aheadStreak : (v.setPath p x).aheadStreak = v.aheadStreak := by cases p <;> rfl
@[simp] theorem Venue.setPath_lateStreak : (v.setPath p x).lateStreak = v.lateStreak := by cases p <;> rfl
@[simp] theorem Venue.setPath_newest : (v.setPath p x).newest = v.newest := by cases p <;> rfl
@[simp] theorem Venue.setPath_timebase : (v.setPath p x).timebase = v.timebase := by cases p <;> rfl
@[simp] theorem Venue.setPath_recovery : (v.setPath p x).recovery = v.recovery := by cases p <;> rfl
@[simp] theorem Venue.setPath_lane : (v.setPath p x).lane = v.lane := by cases p <;> rfl
@[simp] theorem Venue.setPath_health : (v.setPath p x).health = v.health := by cases p <;> rfl

end

/-! ### The timebase, lane and health of a venue -/

@[simp] theorem Venue.modTimebase_timebase (v : Venue) (f : Timebase → Timebase) : (v.modTimebase f).timebase = f v.timebase := rfl
@[simp] theorem Venue.modTimebase_state (v : Venue) (f : Timebase → Timebase) : (v.modTimebase f).state = v.state := rfl
@[simp] theorem Venue.modTimebase_key (v : Venue) (f : Timebase → Timebase) : (v.modTimebase f).key = v.key := rfl
@[simp] theorem Venue.modTimebase_settings (v : Venue) (f : Timebase → Timebase) : (v.modTimebase f).settings = v.settings := rfl
@[simp] theorem Venue.modTimebase_holdoverElapsed (v : Venue) (f : Timebase → Timebase) : (v.modTimebase f).holdoverElapsed = v.holdoverElapsed := rfl
@[simp] theorem Venue.modTimebase_holdoverSince (v : Venue) (f : Timebase → Timebase) : (v.modTimebase f).holdoverSince = v.holdoverSince := rfl
@[simp] theorem Venue.modTimebase_circuits (v : Venue) (f : Timebase → Timebase) : (v.modTimebase f).circuits = v.circuits := rfl
@[simp] theorem Venue.modTimebase_announced (v : Venue) (f : Timebase → Timebase) : (v.modTimebase f).announced = v.announced := rfl
@[simp] theorem Venue.modTimebase_announceAge (v : Venue) (f : Timebase → Timebase) : (v.modTimebase f).announceAge = v.announceAge := rfl
@[simp] theorem Venue.modTimebase_aheadStreak (v : Venue) (f : Timebase → Timebase) : (v.modTimebase f).aheadStreak = v.aheadStreak := rfl
@[simp] theorem Venue.modTimebase_lateStreak (v : Venue) (f : Timebase → Timebase) : (v.modTimebase f).lateStreak = v.lateStreak := rfl
@[simp] theorem Venue.modTimebase_newest (v : Venue) (f : Timebase → Timebase) : (v.modTimebase f).newest = v.newest := rfl
@[simp] theorem Venue.modTimebase_recovery (v : Venue) (f : Timebase → Timebase) : (v.modTimebase f).recovery = v.recovery := rfl
@[simp] theorem Venue.modTimebase_lane (v : Venue) (f : Timebase → Timebase) : (v.modTimebase f).lane = v.lane := rfl
@[simp] theorem Venue.modTimebase_health (v : Venue) (f : Timebase → Timebase) : (v.modTimebase f).health = v.health := rfl
@[simp] theorem Venue.modTimebase_pathA (v : Venue) (f : Timebase → Timebase) : (v.modTimebase f).pathA = v.pathA := rfl
@[simp] theorem Venue.modTimebase_pathB (v : Venue) (f : Timebase → Timebase) : (v.modTimebase f).pathB = v.pathB := rfl
@[simp] theorem Venue.modLane_lane (v : Venue) (f : Lane → Lane) : (v.modLane f).lane = f v.lane := rfl
@[simp] theorem Venue.modLane_state (v : Venue) (f : Lane → Lane) : (v.modLane f).state = v.state := rfl
@[simp] theorem Venue.modLane_key (v : Venue) (f : Lane → Lane) : (v.modLane f).key = v.key := rfl
@[simp] theorem Venue.modLane_settings (v : Venue) (f : Lane → Lane) : (v.modLane f).settings = v.settings := rfl
@[simp] theorem Venue.modLane_holdoverElapsed (v : Venue) (f : Lane → Lane) : (v.modLane f).holdoverElapsed = v.holdoverElapsed := rfl
@[simp] theorem Venue.modLane_holdoverSince (v : Venue) (f : Lane → Lane) : (v.modLane f).holdoverSince = v.holdoverSince := rfl
@[simp] theorem Venue.modLane_circuits (v : Venue) (f : Lane → Lane) : (v.modLane f).circuits = v.circuits := rfl
@[simp] theorem Venue.modLane_announced (v : Venue) (f : Lane → Lane) : (v.modLane f).announced = v.announced := rfl
@[simp] theorem Venue.modLane_announceAge (v : Venue) (f : Lane → Lane) : (v.modLane f).announceAge = v.announceAge := rfl
@[simp] theorem Venue.modLane_aheadStreak (v : Venue) (f : Lane → Lane) : (v.modLane f).aheadStreak = v.aheadStreak := rfl
@[simp] theorem Venue.modLane_lateStreak (v : Venue) (f : Lane → Lane) : (v.modLane f).lateStreak = v.lateStreak := rfl
@[simp] theorem Venue.modLane_newest (v : Venue) (f : Lane → Lane) : (v.modLane f).newest = v.newest := rfl
@[simp] theorem Venue.modLane_timebase (v : Venue) (f : Lane → Lane) : (v.modLane f).timebase = v.timebase := rfl
@[simp] theorem Venue.modLane_recovery (v : Venue) (f : Lane → Lane) : (v.modLane f).recovery = v.recovery := rfl
@[simp] theorem Venue.modLane_health (v : Venue) (f : Lane → Lane) : (v.modLane f).health = v.health := rfl
@[simp] theorem Venue.modLane_pathA (v : Venue) (f : Lane → Lane) : (v.modLane f).pathA = v.pathA := rfl
@[simp] theorem Venue.modLane_pathB (v : Venue) (f : Lane → Lane) : (v.modLane f).pathB = v.pathB := rfl
@[simp] theorem Venue.modHealth_health (v : Venue) (f : Health → Health) : (v.modHealth f).health = f v.health := rfl
@[simp] theorem Venue.modHealth_state (v : Venue) (f : Health → Health) : (v.modHealth f).state = v.state := rfl
@[simp] theorem Venue.modHealth_key (v : Venue) (f : Health → Health) : (v.modHealth f).key = v.key := rfl
@[simp] theorem Venue.modHealth_settings (v : Venue) (f : Health → Health) : (v.modHealth f).settings = v.settings := rfl
@[simp] theorem Venue.modHealth_holdoverElapsed (v : Venue) (f : Health → Health) : (v.modHealth f).holdoverElapsed = v.holdoverElapsed := rfl
@[simp] theorem Venue.modHealth_holdoverSince (v : Venue) (f : Health → Health) : (v.modHealth f).holdoverSince = v.holdoverSince := rfl
@[simp] theorem Venue.modHealth_circuits (v : Venue) (f : Health → Health) : (v.modHealth f).circuits = v.circuits := rfl
@[simp] theorem Venue.modHealth_announced (v : Venue) (f : Health → Health) : (v.modHealth f).announced = v.announced := rfl
@[simp] theorem Venue.modHealth_announceAge (v : Venue) (f : Health → Health) : (v.modHealth f).announceAge = v.announceAge := rfl
@[simp] theorem Venue.modHealth_aheadStreak (v : Venue) (f : Health → Health) : (v.modHealth f).aheadStreak = v.aheadStreak := rfl
@[simp] theorem Venue.modHealth_lateStreak (v : Venue) (f : Health → Health) : (v.modHealth f).lateStreak = v.lateStreak := rfl
@[simp] theorem Venue.modHealth_newest (v : Venue) (f : Health → Health) : (v.modHealth f).newest = v.newest := rfl
@[simp] theorem Venue.modHealth_timebase (v : Venue) (f : Health → Health) : (v.modHealth f).timebase = v.timebase := rfl
@[simp] theorem Venue.modHealth_recovery (v : Venue) (f : Health → Health) : (v.modHealth f).recovery = v.recovery := rfl
@[simp] theorem Venue.modHealth_lane (v : Venue) (f : Health → Health) : (v.modHealth f).lane = v.lane := rfl
@[simp] theorem Venue.modHealth_pathA (v : Venue) (f : Health → Health) : (v.modHealth f).pathA = v.pathA := rfl
@[simp] theorem Venue.modHealth_pathB (v : Venue) (f : Health → Health) : (v.modHealth f).pathB = v.pathB := rfl

/-! ### Open and seated -/

theorem Venue.isOpen_iff (v : Venue) : v.isOpen = true ↔ v.state ≠ .free := by simp [Venue.isOpen]

theorem Venue.seated_isOpen (v : Venue) (h : v.seated = true) : v.isOpen = true := by
  revert h; simp [Venue.seated, Venue.isOpen]; rintro (h | h) <;> simp [h]

/-! ### Holding a response -/

section
variable (s : State) (x : Transfer) (code : Byte) (r : Result) (f : Flags) (body : List Byte)

@[simp] theorem State.hold_venue (n : Fin 24) : (s.hold x code r f body).venue n = s.venue n := rfl
@[simp] theorem State.hold_circuit (n : Fin 128) : (s.hold x code r f body).circuit n = s.circuit n := rfl
@[simp] theorem State.hold_port (n : Fin 4) : (s.hold x code r f body).port n = s.port n := rfl
@[simp] theorem State.hold_slot (n : Fin 128) : (s.hold x code r f body).slot n = s.slot n := rfl
@[simp] theorem State.hold_source (n : Fin 16) : (s.hold x code r f body).source n = s.source n := rfl
@[simp] theorem State.hold_venues : (s.hold x code r f body).venues = s.venues := rfl
@[simp] theorem State.hold_circuits : (s.hold x code r f body).circuits = s.circuits := rfl
@[simp] theorem State.hold_ports : (s.hold x code r f body).ports = s.ports := rfl
@[simp] theorem State.hold_slots : (s.hold x code r f body).slots = s.slots := rfl
@[simp] theorem State.hold_sources : (s.hold x code r f body).sources = s.sources := rfl
@[simp] theorem State.hold_resetLow : (s.hold x code r f body).resetLow = s.resetLow := rfl
@[simp] theorem State.hold_reference : (s.hold x code r f body).reference = s.reference := rfl
@[simp] theorem State.hold_poolFree : (s.hold x code r f body).poolFree = s.poolFree := rfl
@[simp] theorem State.hold_arbiter : (s.hold x code r f body).arbiter = s.arbiter := rfl
@[simp] theorem State.hold_returnBlock : (s.hold x code r f body).returnBlock = s.returnBlock := rfl
@[simp] theorem State.hold_keyLow : (s.hold x code r f body).keyLow = s.keyLow := rfl
@[simp] theorem State.hold_classEnables : (s.hold x code r f body).classEnables = s.classEnables := rfl
@[simp] theorem State.hold_refLoss : (s.hold x code r f body).refLoss = s.refLoss := rfl
@[simp] theorem State.hold_due : (s.hold x code r f body).due = s.due := rfl
@[simp] theorem State.hold_freeCount : (s.hold x code r f body).freeCount = s.freeCount := rfl
@[simp] theorem State.hold_pending : (s.hold x code r f body).pending = s.pending := rfl
@[simp] theorem State.hold_blockCount : (s.hold x code r f body).blockCount = s.blockCount := rfl
@[simp] theorem State.hold_held :
    (s.hold x code r f body).control.held = some ⟨x.hostTag, code, r, f, body⟩ := rfl
@[simp] theorem State.hold_responseLost :
    (s.hold x code r f body).control.responseLost = (s.control.responseLost || s.control.held.isSome) := rfl
@[simp] theorem State.hold_malformed :
    (s.hold x code r f body).control.malformed = s.control.malformed := rfl

end

/-- Changes of records of different tables commute. -/
theorem State.setVenue_setCircuit (s : State) (v : Fin 24) (c : Fin 128) (x : Venue) (y : Circuit) :
    (s.setVenue v x).setCircuit c y = (s.setCircuit c y).setVenue v x := rfl

/-! ### A seat takes back a left-over step (R82, R91) -/

section
variable (s : State) (v w : Fin 24) (c : Fin 128)
@[simp] theorem State.missStep_venue : (s.missStep v).venue w = s.venue w := rfl
@[simp] theorem State.missStep_circuit : (s.missStep v).circuit c = s.circuit c := rfl
@[simp] theorem State.missStep_reference : (s.missStep v).reference = s.reference := rfl
@[simp] theorem State.missStep_setVenue (x : Venue) : (s.missStep v).setVenue w x = (s.setVenue w x).missStep v := rfl
@[simp] theorem State.missStep_setCircuit (y : Circuit) : (s.missStep v).setCircuit c y = (s.setCircuit c y).missStep v := rfl
@[simp] theorem State.mem_missStep_due (k : Work) : k ∈ (s.missStep v).due ↔ k ∈ s.due ∧ k ≠ .venueStep v := by
  simp [State.missStep]
end

/-! ### The outputs (R171) -/

theorem State.pins_low {s : State} (h : s.resetLow = true) (sel : Bool) : s.pins sel = State.pinsInReset := by
  simp [State.pins, h]

theorem State.pins_high {s : State} (h : s.resetLow = false) (sel : Bool) : s.pins sel = s.pinsRunning sel := by
  simp [State.pins, h]

@[simp] theorem State.misoByte_kind (s : State) (kind : Byte) : s.misoByte kind 0 = 0 := rfl

@[simp] theorem State.misoByte_after (s : State) (kind : Byte) (j : Nat) :
    s.misoByte kind (j + 1) = (s.transactionBytes kind)[j]?.getD 0 := rfl

/-- R160: a zero for the kind byte, then the transaction's bytes, then zeros. -/
theorem State.misoBytes_eq (s : State) (kind : Byte) (n : Nat) :
    s.misoBytes kind n =
      0 :: ((s.transactionBytes kind).take n ++ List.replicate (n - (s.transactionBytes kind).length) 0) := by
  refine List.ext_getElem (by simp [State.misoBytes]; omega) fun j h1 h2 => ?_
  simp only [State.misoBytes, List.getElem_map, List.getElem_range]
  cases j with
  | zero => rfl
  | succ j =>
    simp only [State.misoByte_after, List.getElem_cons_succ, List.getElem_append, List.getElem_take,
      List.getElem_replicate, List.length_take]
    split
    · next h => rw [List.getElem?_eq_getElem (by omega)]; rfl
    · next h =>
      rw [List.getElem?_eq_none (by simp [State.misoBytes] at h1; omega)]; rfl

/-- R160: byte `j` recorded of a transaction is the byte SPI_MISO carried in it. -/
theorem State.misoBytes_getElem? (s : State) (kind : Byte) (n j : Nat) (h : j ≤ n) :
    (s.misoBytes kind n)[j]? = some (s.misoByte kind j) := by
  simp [State.misoBytes, Nat.lt_succ_of_le h]

theorem State.busSample_low {s : State} (h : s.resetLow = true) (b i j) : s.busSample b i j = 0 := by simp [State.busSample, h]

theorem State.busSample_high {s : State} (h : s.resetLow = false) (b i j) :
    s.busSample b i j = (s.slot (State.busSlot b i)).emitting[j] := by simp [State.busSample, h]

end Sys2Proof.Machine
end

