-- ==== Sys2Proof/Laws/Ops.lean ====
section
/-! SUPPORT. One lemma for what each shared operation can do: answering a request, reporting errors, changing a
list of circuits, flushing a recovery queue, and the outcome of every command. -/

namespace Sys2Proof.Machine

/-! ### Answering a request (R161, R164, R165) -/

section
variable (x : Transfer) (code : Byte) (handler : State → Answer) (s : State)

theorem request_ok (h : Taken x s) {f : Flags} {body : List Byte} {t : State}
    (hh : handler s = .ok f body t) : request x code handler s = .next (t.hold x code .ok f body) := by
  simp [request, h.1, h.2, hh]

theorem request_refuse (h : Taken x s) {r : Result} (hh : handler s = .refuse r) :
    request x code handler s = .next (s.hold x code r {} []) := by
  simp [request, h.1, h.2, hh]

theorem request_untaken (h : ¬ Taken x s) : request x code handler s = .next s := by
  have h' : (s.resetLow || x.cutByReset) = true := by
    cases hr : s.resetLow <;> cases hc : x.cutByReset <;> simp_all [Taken]
  simp [request, h']

/-- Every request is answered: it goes untaken, is refused, or runs. -/
theorem request_cases {t : State} (h : request x code handler s = .next t) :
    (¬ Taken x s ∧ t = s) ∨
    (Taken x s ∧ ∃ r, handler s = .refuse r ∧ t = s.hold x code r {} []) ∨
    (Taken x s ∧ ∃ f body u, handler s = .ok f body u ∧ t = u.hold x code .ok f body) := by
  by_cases ht : Taken x s
  · right
    cases hh : handler s with
    | refuse r =>
      rw [request_refuse x code handler s ht hh] at h
      exact .inl ⟨ht, r, rfl, (Host.Outcome.next.inj h).symm⟩
    | ok f body u =>
      rw [request_ok x code handler s ht hh] at h
      exact .inr ⟨ht, f, body, u, rfl, (Host.Outcome.next.inj h).symm⟩
  · rw [request_untaken x code handler s ht] at h
    exact .inl ⟨ht, (Host.Outcome.next.inj h).symm⟩

theorem request_next : ∃ t, request x code handler s = .next t := by
  unfold request
  split
  · exact ⟨_, rfl⟩
  · split <;> exact ⟨_, rfl⟩

end

@[simp] theorem refuseIf_true (r : Result) (go : Answer) : refuseIf true r go = .refuse r := rfl
@[simp] theorem refuseIf_false (r : Result) (go : Answer) : refuseIf false r go = go := rfl
@[simp] theorem orBadReference_none {α : Type} (go : α → Answer) :
    orBadReference none go = .refuse .badReference := rfl
@[simp] theorem orBadReference_some {α : Type} (a : α) (go : α → Answer) :
    orBadReference (some a) go = go a := rfl

/-- A check that let an answer through did not fail. -/
theorem refuseIf_ok {bad : Bool} {r : Result} {go : Answer} {f : Flags} {body : List Byte} {t : State}
    (h : refuseIf bad r go = .ok f body t) : bad = false ∧ go = .ok f body t := by
  cases bad
  · exact ⟨rfl, h⟩
  · cases h

/-- A look-up that let an answer through found something. -/
theorem orBadReference_ok {α : Type} {found : Option α} {go : α → Answer} {f : Flags} {body : List Byte}
    {t : State} (h : orBadReference found go = .ok f body t) : ∃ a, found = some a ∧ go a = .ok f body t := by
  cases found with
  | none => cases h
  | some a => exact ⟨a, rfl, h⟩

/-! ### Operands -/

theorem inTable_val {n : Nat} (i : Fin n) : inTable n i.val = some i := by simp [inTable]

theorem inTable_eq_some {n i : Nat} {k : Fin n} (h : inTable n i = some k) : i = k.val := by
  unfold inTable at h
  split at h
  · cases h; rfl
  · cases h

theorem State.openVenue_eq_some {s : State} {i : Nat} {v : Fin 24} (h : s.openVenue i = some v) :
    i = v.val ∧ (s.venue v).isOpen = true := by
  unfold State.openVenue at h
  split at h
  · cases h
  · next w hw =>
    split at h
    · next ho => cases h; exact ⟨inTable_eq_some hw, ho⟩
    · cases h

theorem State.openVenue_val {s : State} {v : Fin 24} (h : (s.venue v).isOpen = true) :
    s.openVenue v.val = some v := by simp [State.openVenue, inTable_val, h]

/-- A reference that resolves names a circuit that is not FREE (R31). -/
theorem State.resolve_open {s : State} {r : CircuitRef} {c : Fin 128} (h : s.resolve r = some c) :
    (s.circuit c).state ≠ .free := by
  unfold State.resolve at h
  have := (Option.filter_eq_some_iff.mp h).2
  simpa using this

/-! ### Sets of positions -/

/-- The first `k` bits of a mask are the first `k` values. -/
theorem maskOf_take {n : Nat} (f : Fin n → Bool) (k : Nat) (hk : k ≤ n) :
    let m := ((List.finRange n).take k).foldl (fun m i => m + if f i then 2 ^ i.val else 0) 0
    m < 2 ^ k ∧ ∀ j, j < k → Nat.testBit m j = (if hj : j < n then f ⟨j, hj⟩ else false) := by
  induction k with
  | zero => exact ⟨by simp, fun j hj => by omega⟩
  | succ k ih =>
    obtain ⟨hlt, ih⟩ := ih (by omega)
    have hlen : k < (List.finRange n).length := by simp; omega
    intro m
    have hm : m = ((List.finRange n).take k).foldl (fun m i => m + if f i then 2 ^ i.val else 0) 0 +
        if f ⟨k, by omega⟩ then 2 ^ k else 0 := by
      simp only [m]
      rw [List.take_succ_eq_append_getElem hlen, List.foldl_append]
      simp
    generalize ((List.finRange n).take k).foldl (fun m i => m + if f i then 2 ^ i.val else 0) 0 = r at hlt ih hm
    have : (if f ⟨k, by omega⟩ = true then 2 ^ k else 0) ≤ 2 ^ k := by split <;> simp
    rw [hm, pow_succ]
    refine ⟨by omega, fun j hj => ?_⟩
    by_cases hjk : j = k
    · subst hjk
      rw [dif_pos (by omega)]
      cases hf : f ⟨j, by omega⟩
      · simp [Nat.testBit_lt_two_pow hlt]
      · rw [if_pos rfl, Nat.add_comm, Nat.testBit_two_pow_add_eq, Nat.testBit_lt_two_pow hlt]
        rfl
    · have hj' : j < k := by omega
      rw [← ih j hj']
      split
      · rw [Nat.add_comm, Nat.testBit_two_pow_add_gt hj']
      · rfl

/-- Bit `i` of a mask is the value at `i`. -/
theorem maskOf_getLsbD {n : Nat} (f : Fin n → Bool) (i : Fin n) : (maskOf f).getLsbD i.val = f i := by
  have := (maskOf_take f n (Nat.le_refl _)).2 i.val i.isLt
  rw [List.take_of_length_le (by simp)] at this
  unfold maskOf
  rw [BitVec.getLsbD_ofNat, this]
  simp

/-! ### Reporting errors (R148): only the health record of the venue changes -/

section
variable (s : State) (v : Fin 24) (r : Report) (rs : List Report)

theorem State.report_eq : s.report v r =
    s.setVenue v { s.venue v with health := (s.venue v).health.take r s.blockCount } := rfl

@[simp] theorem State.reports_nil : s.reports v [] = s := rfl
@[simp] theorem State.reports_cons : s.reports v (r :: rs) = (s.report v r).reports v rs := rfl

@[simp] theorem State.report_circuit (n : Fin 128) : (s.report v r).circuit n = s.circuit n := rfl
@[simp] theorem State.report_circuits : (s.report v r).circuits = s.circuits := rfl
@[simp] theorem State.report_port (n : Fin 4) : (s.report v r).port n = s.port n := rfl
@[simp] theorem State.report_ports : (s.report v r).ports = s.ports := rfl
@[simp] theorem State.report_slot (n : Fin 128) : (s.report v r).slot n = s.slot n := rfl
@[simp] theorem State.report_slots : (s.report v r).slots = s.slots := rfl
@[simp] theorem State.report_source (n : Fin 16) : (s.report v r).source n = s.source n := rfl
@[simp] theorem State.report_sources : (s.report v r).sources = s.sources := rfl
@[simp] theorem State.report_resetLow : (s.report v r).resetLow = s.resetLow := rfl
@[simp] theorem State.report_reference : (s.report v r).reference = s.reference := rfl
@[simp] theorem State.report_control : (s.report v r).control = s.control := rfl
@[simp] theorem State.report_poolFree : (s.report v r).poolFree = s.poolFree := rfl
@[simp] theorem State.report_arbiter : (s.report v r).arbiter = s.arbiter := rfl
@[simp] theorem State.report_returnBlock : (s.report v r).returnBlock = s.returnBlock := rfl
@[simp] theorem State.report_keyLow : (s.report v r).keyLow = s.keyLow := rfl
@[simp] theorem State.report_classEnables : (s.report v r).classEnables = s.classEnables := rfl
@[simp] theorem State.report_refLoss : (s.report v r).refLoss = s.refLoss := rfl
@[simp] theorem State.report_due : (s.report v r).due = s.due := rfl
@[simp] theorem State.report_freeCount : (s.report v r).freeCount = s.freeCount := rfl
@[simp] theorem State.report_pending : (s.report v r).pending = s.pending := rfl
@[simp] theorem State.report_blockCount : (s.report v r).blockCount = s.blockCount := rfl

theorem State.report_venue_of_ne (w : Fin 24) (h : w ≠ v) : (s.report v r).venue w = s.venue w := by
  rw [State.report_eq, State.setVenue_venue_of_ne _ _ _ _ h]

@[simp] theorem State.report_health :
    ((s.report v r).venue v).health = (s.venue v).health.take r s.blockCount := by
  rw [State.report_eq]; simp

/-- A venue after a report differs in its health record at most. -/
theorem State.report_venue (w : Fin 24) :
    (s.report v r).venue w = { s.venue w with health := ((s.report v r).venue w).health } := by
  by_cases h : w = v
  · subst h; rw [State.report_eq]; simp
  · rw [State.report_venue_of_ne s v r w h]

/-- A venue after several reports differs in its health record at most. -/
theorem State.reports_venue (w : Fin 24) :
    (s.reports v rs).venue w = { s.venue w with health := ((s.reports v rs).venue w).health } := by
  induction rs generalizing s with
  | nil => rfl
  | cons r rs ih =>
    rw [State.reports_cons, ih (s.report v r)]
    conv_lhs => rw [State.report_venue s v r w]

theorem State.reports_venue_of_ne (w : Fin 24) (h : w ≠ v) : (s.reports v rs).venue w = s.venue w := by
  induction rs generalizing s with
  | nil => rfl
  | cons r rs ih => rw [State.reports_cons, ih, State.report_venue_of_ne s v r w h]

@[simp] theorem State.report_venue_state (w : Fin 24) : ((s.report v r).venue w).state = (s.venue w).state := by
  rw [State.report_venue]
@[simp] theorem State.report_venue_key (w : Fin 24) : ((s.report v r).venue w).key = (s.venue w).key := by
  rw [State.report_venue]
@[simp] theorem State.report_venue_settings (w : Fin 24) : ((s.report v r).venue w).settings = (s.venue w).settings := by
  rw [State.report_venue]
@[simp] theorem State.report_venue_pathA (w : Fin 24) : ((s.report v r).venue w).pathA = (s.venue w).pathA := by
  rw [State.report_venue]
@[simp] theorem State.report_venue_pathB (w : Fin 24) : ((s.report v r).venue w).pathB = (s.venue w).pathB := by
  rw [State.report_venue]
@[simp] theorem State.report_venue_holdoverElapsed (w : Fin 24) : ((s.report v r).venue w).holdoverElapsed = (s.venue w).holdoverElapsed := by
  rw [State.report_venue]
@[simp] theorem State.report_venue_holdoverSince (w : Fin 24) : ((s.report v r).venue w).holdoverSince = (s.venue w).holdoverSince := by
  rw [State.report_venue]
@[simp] theorem State.report_venue_circuits (w : Fin 24) : ((s.report v r).venue w).circuits = (s.venue w).circuits := by
  rw [State.report_venue]
@[simp] theorem State.report_venue_announced (w : Fin 24) : ((s.report v r).venue w).announced = (s.venue w).announced := by
  rw [State.report_venue]
@[simp] theorem State.report_venue_announceAge (w : Fin 24) : ((s.report v r).venue w).announceAge = (s.venue w).announceAge := by
  rw [State.report_venue]
@[simp] theorem State.report_venue_aheadStreak (w : Fin 24) : ((s.report v r).venue w).aheadStreak = (s.venue w).aheadStreak := by
  rw [State.report_venue]
@[simp] theorem State.report_venue_lateStreak (w : Fin 24) : ((s.report v r).venue w).lateStreak = (s.venue w).lateStreak := by
  rw [State.report_venue]
@[simp] theorem State.report_venue_newest (w : Fin 24) : ((s.report v r).venue w).newest = (s.venue w).newest := by
  rw [State.report_venue]
@[simp] theorem State.report_venue_timebase (w : Fin 24) : ((s.report v r).venue w).timebase = (s.venue w).timebase := by
  rw [State.report_venue]
@[simp] theorem State.report_venue_recovery (w : Fin 24) : ((s.report v r).venue w).recovery = (s.venue w).recovery := by
  rw [State.report_venue]
@[simp] theorem State.report_venue_lane (w : Fin 24) : ((s.report v r).venue w).lane = (s.venue w).lane := by
  rw [State.report_venue]
@[simp] theorem State.reports_venue_state (w : Fin 24) : ((s.reports v rs).venue w).state = (s.venue w).state := by
  rw [State.reports_venue]
@[simp] theorem State.reports_venue_key (w : Fin 24) : ((s.reports v rs).venue w).key = (s.venue w).key := by
  rw [State.reports_venue]
@[simp] theorem State.reports_venue_settings (w : Fin 24) : ((s.reports v rs).venue w).settings = (s.venue w).settings := by
  rw [State.reports_venue]
@[simp] theorem State.reports_venue_pathA (w : Fin 24) : ((s.reports v rs).venue w).pathA = (s.venue w).pathA := by
  rw [State.reports_venue]
@[simp] theorem State.reports_venue_pathB (w : Fin 24) : ((s.reports v rs).venue w).pathB = (s.venue w).pathB := by
  rw [State.reports_venue]
@[simp] theorem State.reports_venue_holdoverElapsed (w : Fin 24) : ((s.reports v rs).venue w).holdoverElapsed = (s.venue w).holdoverElapsed := by
  rw [State.reports_venue]
@[simp] theorem State.reports_venue_holdoverSince (w : Fin 24) : ((s.reports v rs).venue w).holdoverSince = (s.venue w).holdoverSince := by
  rw [State.reports_venue]
@[simp] theorem State.reports_venue_circuits (w : Fin 24) : ((s.reports v rs).venue w).circuits = (s.venue w).circuits := by
  rw [State.reports_venue]
@[simp] theorem State.reports_venue_announced (w : Fin 24) : ((s.reports v rs).venue w).announced = (s.venue w).announced := by
  rw [State.reports_venue]
@[simp] theorem State.reports_venue_announceAge (w : Fin 24) : ((s.reports v rs).venue w).announceAge = (s.venue w).announceAge := by
  rw [State.reports_venue]
@[simp] theorem State.reports_venue_aheadStreak (w : Fin 24) : ((s.reports v rs).venue w).aheadStreak = (s.venue w).aheadStreak := by
  rw [State.reports_venue]
@[simp] theorem State.reports_venue_lateStreak (w : Fin 24) : ((s.reports v rs).venue w).lateStreak = (s.venue w).lateStreak := by
  rw [State.reports_venue]
@[simp] theorem State.reports_venue_newest (w : Fin 24) : ((s.reports v rs).venue w).newest = (s.venue w).newest := by
  rw [State.reports_venue]
@[simp] theorem State.reports_venue_timebase (w : Fin 24) : ((s.reports v rs).venue w).timebase = (s.venue w).timebase := by
  rw [State.reports_venue]
@[simp] theorem State.reports_venue_recovery (w : Fin 24) : ((s.reports v rs).venue w).recovery = (s.venue w).recovery := by
  rw [State.reports_venue]
@[simp] theorem State.reports_venue_lane (w : Fin 24) : ((s.reports v rs).venue w).lane = (s.venue w).lane := by
  rw [State.reports_venue]
@[simp] theorem State.reports_circuits : (s.reports v rs).circuits = s.circuits := by
  induction rs generalizing s with
  | nil => rfl
  | cons r rs ih => rw [State.reports_cons, ih]; rfl
@[simp] theorem State.reports_circuit (n : Fin 128) : (s.reports v rs).circuit n = s.circuit n := by
  simp [State.circuit]
@[simp] theorem State.reports_ports : (s.reports v rs).ports = s.ports := by
  induction rs generalizing s with
  | nil => rfl
  | cons r rs ih => rw [State.reports_cons, ih]; rfl
@[simp] theorem State.reports_port (n : Fin 4) : (s.reports v rs).port n = s.port n := by
  simp [State.port]
@[simp] theorem State.reports_slots : (s.reports v rs).slots = s.slots := by
  induction rs generalizing s with
  | nil => rfl
  | cons r rs ih => rw [State.reports_cons, ih]; rfl
@[simp] theorem State.reports_slot (n : Fin 128) : (s.reports v rs).slot n = s.slot n := by
  simp [State.slot]
@[simp] theorem State.reports_sources : (s.reports v rs).sources = s.sources := by
  induction rs generalizing s with
  | nil => rfl
  | cons r rs ih => rw [State.reports_cons, ih]; rfl
@[simp] theorem State.reports_source (n : Fin 16) : (s.reports v rs).source n = s.source n := by
  simp [State.source]
@[simp] theorem State.reports_resetLow : (s.reports v rs).resetLow = s.resetLow := by
  induction rs generalizing s with
  | nil => rfl
  | cons r rs ih => rw [State.reports_cons, ih]; rfl
@[simp] theorem State.reports_reference : (s.reports v rs).reference = s.reference := by
  induction rs generalizing s with
  | nil => rfl
  | cons r rs ih => rw [State.reports_cons, ih]; rfl
@[simp] theorem State.reports_control : (s.reports v rs).control = s.control := by
  induction rs generalizing s with
  | nil => rfl
  | cons r rs ih => rw [State.reports_cons, ih]; rfl
@[simp] theorem State.reports_poolFree : (s.reports v rs).poolFree = s.poolFree := by
  induction rs generalizing s with
  | nil => rfl
  | cons r rs ih => rw [State.reports_cons, ih]; rfl
@[simp] theorem State.reports_arbiter : (s.reports v rs).arbiter = s.arbiter := by
  induction rs generalizing s with
  | nil => rfl
  | cons r rs ih => rw [State.reports_cons, ih]; rfl
@[simp] theorem State.reports_returnBlock : (s.reports v rs).returnBlock = s.returnBlock := by
  induction rs generalizing s with
  | nil => rfl
  | cons r rs ih => rw [State.reports_cons, ih]; rfl
@[simp] theorem State.reports_keyLow : (s.reports v rs).keyLow = s.keyLow := by
  induction rs generalizing s with
  | nil => rfl
  | cons r rs ih => rw [State.reports_cons, ih]; rfl
@[simp] theorem State.reports_classEnables : (s.reports v rs).classEnables = s.classEnables := by
  induction rs generalizing s with
  | nil => rfl
  | cons r rs ih => rw [State.reports_cons, ih]; rfl
@[simp] theorem State.reports_refLoss : (s.reports v rs).refLoss = s.refLoss := by
  induction rs generalizing s with
  | nil => rfl
  | cons r rs ih => rw [State.reports_cons, ih]; rfl
@[simp] theorem State.reports_due : (s.reports v rs).due = s.due := by
  induction rs generalizing s with
  | nil => rfl
  | cons r rs ih => rw [State.reports_cons, ih]; rfl
@[simp] theorem State.reports_freeCount : (s.reports v rs).freeCount = s.freeCount := by
  induction rs generalizing s with
  | nil => rfl
  | cons r rs ih => rw [State.reports_cons, ih]; rfl
@[simp] theorem State.reports_pending : (s.reports v rs).pending = s.pending := by
  induction rs generalizing s with
  | nil => rfl
  | cons r rs ih => rw [State.reports_cons, ih]; rfl

end

/-! ### Changing a list of circuits -/

section
variable (s : State) (cs : List (Fin 128)) (f : Circuit → Circuit)

@[simp] theorem State.modCircuits_nil : s.modCircuits [] f = s := rfl
@[simp] theorem State.modCircuits_cons (c : Fin 128) :
    s.modCircuits (c :: cs) f = (s.modCircuit c f).modCircuits cs f := rfl

theorem State.modCircuits_circuit_of_notMem (c : Fin 128) (h : c ∉ cs) :
    (s.modCircuits cs f).circuit c = s.circuit c := by
  induction cs generalizing s with
  | nil => rfl
  | cons d ds ih =>
    rw [State.modCircuits_cons, ih _ (fun hd => h (List.mem_cons_of_mem _ hd)), State.modCircuit_eq,
      State.setCircuit_circuit_of_ne]
    rintro rfl; exact h List.mem_cons_self

theorem State.modCircuits_circuit_of_mem (c : Fin 128) (hn : cs.Nodup) (h : c ∈ cs) :
    (s.modCircuits cs f).circuit c = f (s.circuit c) := by
  induction cs generalizing s with
  | nil => cases h
  | cons d ds ih =>
    rw [List.nodup_cons] at hn
    rw [State.modCircuits_cons]
    by_cases hc : c = d
    · subst hc
      rw [State.modCircuits_circuit_of_notMem _ _ _ _ hn.1]; simp
    · have hm : c ∈ ds := by
        rcases List.mem_cons.mp h with h | h
        · exact absurd h hc
        · exact h
      rw [ih _ hn.2 hm, State.modCircuit_eq, State.setCircuit_circuit_of_ne _ _ _ _ hc]

/-- A property of circuits that `f` keeps holds of every circuit after the change. -/
theorem State.modCircuits_circuit_induct (P : Circuit → Prop) (hf : ∀ x, P x → P (f x))
    (c : Fin 128) (h : P (s.circuit c)) : P ((s.modCircuits cs f).circuit c) := by
  induction cs generalizing s with
  | nil => exact h
  | cons d ds ih =>
    rw [State.modCircuits_cons]
    apply ih
    rw [State.modCircuit_eq, State.setCircuit_circuit_eq_ite]
    split
    · next hcd => subst hcd; exact hf _ h
    · exact h

@[simp] theorem State.modCircuits_venues : (s.modCircuits cs f).venues = s.venues := by
  induction cs generalizing s with
  | nil => rfl
  | cons d ds ih => rw [State.modCircuits_cons, ih]; rfl
@[simp] theorem State.modCircuits_venue (n : Fin 24) : (s.modCircuits cs f).venue n = s.venue n := by
  simp [State.venue]
@[simp] theorem State.modCircuits_ports : (s.modCircuits cs f).ports = s.ports := by
  induction cs generalizing s with
  | nil => rfl
  | cons d ds ih => rw [State.modCircuits_cons, ih]; rfl
@[simp] theorem State.modCircuits_port (n : Fin 4) : (s.modCircuits cs f).port n = s.port n := by
  simp [State.port]
@[simp] theorem State.modCircuits_slots : (s.modCircuits cs f).slots = s.slots := by
  induction cs generalizing s with
  | nil => rfl
  | cons d ds ih => rw [State.modCircuits_cons, ih]; rfl
@[simp] theorem State.modCircuits_slot (n : Fin 128) : (s.modCircuits cs f).slot n = s.slot n := by
  simp [State.slot]
@[simp] theorem State.modCircuits_sources : (s.modCircuits cs f).sources = s.sources := by
  induction cs generalizing s with
  | nil => rfl
  | cons d ds ih => rw [State.modCircuits_cons, ih]; rfl
@[simp] theorem State.modCircuits_source (n : Fin 16) : (s.modCircuits cs f).source n = s.source n := by
  simp [State.source]
@[simp] theorem State.modCircuits_resetLow : (s.modCircuits cs f).resetLow = s.resetLow := by
  induction cs generalizing s with
  | nil => rfl
  | cons d ds ih => rw [State.modCircuits_cons, ih]; rfl
@[simp] theorem State.modCircuits_reference : (s.modCircuits cs f).reference = s.reference := by
  induction cs generalizing s with
  | nil => rfl
  | cons d ds ih => rw [State.modCircuits_cons, ih]; rfl
@[simp] theorem State.modCircuits_control : (s.modCircuits cs f).control = s.control := by
  induction cs generalizing s with
  | nil => rfl
  | cons d ds ih => rw [State.modCircuits_cons, ih]; rfl
@[simp] theorem State.modCircuits_poolFree : (s.modCircuits cs f).poolFree = s.poolFree := by
  induction cs generalizing s with
  | nil => rfl
  | cons d ds ih => rw [State.modCircuits_cons, ih]; rfl
@[simp] theorem State.modCircuits_arbiter : (s.modCircuits cs f).arbiter = s.arbiter := by
  induction cs generalizing s with
  | nil => rfl
  | cons d ds ih => rw [State.modCircuits_cons, ih]; rfl
@[simp] theorem State.modCircuits_returnBlock : (s.modCircuits cs f).returnBlock = s.returnBlock := by
  induction cs generalizing s with
  | nil => rfl
  | cons d ds ih => rw [State.modCircuits_cons, ih]; rfl
@[simp] theorem State.modCircuits_keyLow : (s.modCircuits cs f).keyLow = s.keyLow := by
  induction cs generalizing s with
  | nil => rfl
  | cons d ds ih => rw [State.modCircuits_cons, ih]; rfl
@[simp] theorem State.modCircuits_classEnables : (s.modCircuits cs f).classEnables = s.classEnables := by
  induction cs generalizing s with
  | nil => rfl
  | cons d ds ih => rw [State.modCircuits_cons, ih]; rfl
@[simp] theorem State.modCircuits_refLoss : (s.modCircuits cs f).refLoss = s.refLoss := by
  induction cs generalizing s with
  | nil => rfl
  | cons d ds ih => rw [State.modCircuits_cons, ih]; rfl
@[simp] theorem State.modCircuits_due : (s.modCircuits cs f).due = s.due := by
  induction cs generalizing s with
  | nil => rfl
  | cons d ds ih => rw [State.modCircuits_cons, ih]; rfl
@[simp] theorem State.modCircuits_freeCount : (s.modCircuits cs f).freeCount = s.freeCount := by
  induction cs generalizing s with
  | nil => rfl
  | cons d ds ih => rw [State.modCircuits_cons, ih]; rfl
@[simp] theorem State.modCircuits_pending : (s.modCircuits cs f).pending = s.pending := by
  induction cs generalizing s with
  | nil => rfl
  | cons d ds ih => rw [State.modCircuits_cons, ih]; rfl

end

/-! ### Flushing a recovery queue (R108) -/

section
variable (s : State) (v : Fin 24)

@[simp] theorem State.flush_recovery : ((s.flush v).venue v).recovery = [] := by simp [State.flush]

theorem State.flush_venue_of_ne (w : Fin 24) (h : w ≠ v) : (s.flush v).venue w = s.venue w := by
  rw [State.flush, State.modVenue_eq, State.setVenue_venue_of_ne _ _ _ _ h, State.reports_venue_of_ne _ _ _ _ h]

@[simp] theorem State.flush_circuit (c : Fin 128) : (s.flush v).circuit c = s.circuit c := by simp [State.flush]
@[simp] theorem State.flush_circuits : (s.flush v).circuits = s.circuits := by simp [State.flush]
@[simp] theorem State.flush_ports : (s.flush v).ports = s.ports := by simp [State.flush]
@[simp] theorem State.flush_slot (i : Fin 128) : (s.flush v).slot i = s.slot i := by simp [State.flush]
@[simp] theorem State.flush_port (p : Fin 4) : (s.flush v).port p = s.port p := by simp [State.flush]
@[simp] theorem State.flush_source (n : Fin 16) : (s.flush v).source n = s.source n := by simp [State.flush]
@[simp] theorem State.flush_slots : (s.flush v).slots = s.slots := by simp [State.flush]
@[simp] theorem State.flush_sources : (s.flush v).sources = s.sources := by simp [State.flush]
@[simp] theorem State.flush_resetLow : (s.flush v).resetLow = s.resetLow := by simp [State.flush]
@[simp] theorem State.flush_reference : (s.flush v).reference = s.reference := by simp [State.flush]
@[simp] theorem State.flush_control : (s.flush v).control = s.control := by simp [State.flush]
@[simp] theorem State.flush_poolFree : (s.flush v).poolFree = s.poolFree := by simp [State.flush]
@[simp] theorem State.flush_arbiter : (s.flush v).arbiter = s.arbiter := by simp [State.flush]
@[simp] theorem State.flush_returnBlock : (s.flush v).returnBlock = s.returnBlock := by simp [State.flush]
@[simp] theorem State.flush_keyLow : (s.flush v).keyLow = s.keyLow := by simp [State.flush]
@[simp] theorem State.flush_classEnables : (s.flush v).classEnables = s.classEnables := by simp [State.flush]
@[simp] theorem State.flush_refLoss : (s.flush v).refLoss = s.refLoss := by simp [State.flush]
@[simp] theorem State.flush_due : (s.flush v).due = s.due := by simp [State.flush]
@[simp] theorem State.flush_freeCount : (s.flush v).freeCount = s.freeCount := by simp [State.flush]
@[simp] theorem State.flush_pending : (s.flush v).pending = s.pending := by simp [State.flush]
@[simp] theorem State.flush_venue_state (w : Fin 24) : ((s.flush v).venue w).state = (s.venue w).state := by
  by_cases h : w = v
  · subst h; simp [State.flush]
  · simp [State.flush_venue_of_ne s v w h]
@[simp] theorem State.flush_venue_key (w : Fin 24) : ((s.flush v).venue w).key = (s.venue w).key := by
  by_cases h : w = v
  · subst h; simp [State.flush]
  · simp [State.flush_venue_of_ne s v w h]
@[simp] theorem State.flush_venue_settings (w : Fin 24) : ((s.flush v).venue w).settings = (s.venue w).settings := by
  by_cases h : w = v
  · subst h; simp [State.flush]
  · simp [State.flush_venue_of_ne s v w h]
@[simp] theorem State.flush_venue_pathA (w : Fin 24) : ((s.flush v).venue w).pathA = (s.venue w).pathA := by
  by_cases h : w = v
  · subst h; simp [State.flush]
  · simp [State.flush_venue_of_ne s v w h]
@[simp] theorem State.flush_venue_pathB (w : Fin 24) : ((s.flush v).venue w).pathB = (s.venue w).pathB := by
  by_cases h : w = v
  · subst h; simp [State.flush]
  · simp [State.flush_venue_of_ne s v w h]
@[simp] theorem State.flush_venue_holdoverElapsed (w : Fin 24) : ((s.flush v).venue w).holdoverElapsed = (s.venue w).holdoverElapsed := by
  by_cases h : w = v
  · subst h; simp [State.flush]
  · simp [State.flush_venue_of_ne s v w h]
@[simp] theorem State.flush_venue_holdoverSince (w : Fin 24) : ((s.flush v).venue w).holdoverSince = (s.venue w).holdoverSince := by
  by_cases h : w = v
  · subst h; simp [State.flush]
  · simp [State.flush_venue_of_ne s v w h]
@[simp] theorem State.flush_venue_circuits (w : Fin 24) : ((s.flush v).venue w).circuits = (s.venue w).circuits := by
  by_cases h : w = v
  · subst h; simp [State.flush]
  · simp [State.flush_venue_of_ne s v w h]
@[simp] theorem State.flush_venue_announced (w : Fin 24) : ((s.flush v).venue w).announced = (s.venue w).announced := by
  by_cases h : w = v
  · subst h; simp [State.flush]
  · simp [State.flush_venue_of_ne s v w h]
@[simp] theorem State.flush_venue_announceAge (w : Fin 24) : ((s.flush v).venue w).announceAge = (s.venue w).announceAge := by
  by_cases h : w = v
  · subst h; simp [State.flush]
  · simp [State.flush_venue_of_ne s v w h]
@[simp] theorem State.flush_venue_aheadStreak (w : Fin 24) : ((s.flush v).venue w).aheadStreak = (s.venue w).aheadStreak := by
  by_cases h : w = v
  · subst h; simp [State.flush]
  · simp [State.flush_venue_of_ne s v w h]
@[simp] theorem State.flush_venue_lateStreak (w : Fin 24) : ((s.flush v).venue w).lateStreak = (s.venue w).lateStreak := by
  by_cases h : w = v
  · subst h; simp [State.flush]
  · simp [State.flush_venue_of_ne s v w h]
@[simp] theorem State.flush_venue_newest (w : Fin 24) : ((s.flush v).venue w).newest = (s.venue w).newest := by
  by_cases h : w = v
  · subst h; simp [State.flush]
  · simp [State.flush_venue_of_ne s v w h]
@[simp] theorem State.flush_venue_timebase (w : Fin 24) : ((s.flush v).venue w).timebase = (s.venue w).timebase := by
  by_cases h : w = v
  · subst h; simp [State.flush]
  · simp [State.flush_venue_of_ne s v w h]
@[simp] theorem State.flush_venue_lane (w : Fin 24) : ((s.flush v).venue w).lane = (s.venue w).lane := by
  by_cases h : w = v
  · subst h; simp [State.flush]
  · simp [State.flush_venue_of_ne s v w h]

end

end Sys2Proof.Machine
end

