-- ==== Sys2Proof/Laws/Foldback.lean ====
section
/-! SUPPORT. What the foldback operations do to each lane: the changes a source command makes (R136, R137), and
the stages of the foldback step (R133 to R139). -/

namespace Sys2Proof.Machine

/-! ### The arbiter -/

section Arbiter

variable (l : Lane) (m : ArbiterMode) (asks : Fin 16 → Bool)

theorem mem_sourcesFrom (k : Nat) (n : Fin 16) : n ∈ sourcesFrom k := by
  refine List.mem_map.2 ⟨(16 - k % 16 + n.val) % 16, by simp; omega, Fin.ext ?_⟩
  show (k + (16 - k % 16 + n.val) % 16) % 16 = n.val
  omega

theorem Lane.mem_order (n : Fin 16) : n ∈ l.order m := by
  unfold Lane.order
  split
  · exact mem_sourcesFrom _ n
  · split <;> exact mem_sourcesFrom _ n

/-- R136: nobody asks: the lane is IDLE. -/
theorem Lane.arbitrate_none (h : ∀ n, asks n = false) : l.arbitrate m asks = { l with state := .idle } := by
  have : (l.order m).find? asks = none := by
    rw [List.find?_eq_none]; intro n _; simp [h n]
  simp [Lane.arbitrate, this]

/-- R136: a grant goes to a source that asks, and makes it the last holder. -/
theorem Lane.arbitrate_cases :
    (∃ n, asks n = true ∧ l.arbitrate m asks = { l with state := .held n, lastHolder := some n }) ∨
    ((∀ n, asks n = false) ∧ l.arbitrate m asks = { l with state := .idle }) := by
  unfold Lane.arbitrate
  cases h : (l.order m).find? asks with
  | none =>
    right
    refine ⟨fun n => ?_, rfl⟩
    have := List.find?_eq_none.1 h n (Lane.mem_order l m n)
    simpa using this
  | some n => exact .inl ⟨n, List.find?_some h, rfl⟩

/-- R136: the only source that asks is granted the lane. -/
theorem Lane.arbitrate_only (n : Fin 16) (h : asks n = true) (ho : ∀ k, k ≠ n → asks k = false) :
    l.arbitrate m asks = { l with state := .held n, lastHolder := some n } := by
  rcases Lane.arbitrate_cases l m asks with ⟨k, hk, e⟩ | ⟨hn, _⟩
  · have : k = n := by
      by_contra hne
      rw [ho k hne] at hk; cases hk
    rw [e, this]
  · rw [hn n] at h; cases h

@[simp] theorem Lane.arbitrate_enable : (l.arbitrate m asks).enable = l.enable := by
  unfold Lane.arbitrate; split <;> rfl
@[simp] theorem Lane.arbitrate_cleanSlot : (l.arbitrate m asks).cleanSlot = l.cleanSlot := by
  unfold Lane.arbitrate; split <;> rfl
@[simp] theorem Lane.arbitrate_duck : (l.arbitrate m asks).duck = l.duck := by
  unfold Lane.arbitrate; split <;> rfl
@[simp] theorem Lane.arbitrate_sequence : (l.arbitrate m asks).sequence = l.sequence := by
  unfold Lane.arbitrate; split <;> rfl
@[simp] theorem Lane.arbitrate_half : (l.arbitrate m asks).half = l.half := by
  unfold Lane.arbitrate; split <;> rfl

end Arbiter

/-! ### Source commands -/

/-- One lane after a source changed from asking `was` to asking as `asks` says. -/
def Lane.follow (l : Lane) (m : ArbiterMode) (n : Fin 16) (was : Bool) (asks : Fin 16 → Bool) : Lane :=
  if was && !asks n then if l.state = .held n then l.release else l
  else if !was && asks n && l.enable && l.state == .idle then l.arbitrate m asks
  else l

theorem State.followSource_eq (s : State) (n : Fin 16) (old : Source) (v : Fin 24) :
    s.followSource n old v =
      s.modVenue v fun ve => ve.modLane fun l => l.follow s.arbiter n (old.wants v) (s.asks v) := by
  have hself : ∀ l : Lane, l = (s.venue v).lane → s = s.setVenue v ((s.venue v).modLane fun _ => l) := by
    intro l hl
    subst hl
    exact (State.setVenue_self s v).symm
  simp only [State.followSource, State.modVenue_eq, Lane.follow]
  split
  · next h1 =>
    split
    · next h2 => simp only [Venue.modLane, h2, if_true]
    · next h2 => exact hself _ (by simp only [h2, if_false])
  · next h1 =>
    split
    · next h2 => simp only [Venue.modLane, State.arbitrateLane, State.modVenue_eq, h2, if_true]
    · next h2 => exact hself _ (by simp only [h2]; simp)

/-- Changing every venue of a list without repeats, each by its own index. -/
theorem State.foldl_modVenue (g : Fin 24 → Venue → Venue) (vs : List (Fin 24)) (hn : vs.Nodup) (s : State) :
    vs.foldl (fun t v => t.modVenue v (g v)) s =
        { s with venues := (vs.foldl (fun t v => t.modVenue v (g v)) s).venues } ∧
      ∀ w, (vs.foldl (fun t v => t.modVenue v (g v)) s).venue w =
        if w ∈ vs then g w (s.venue w) else s.venue w := by
  induction vs generalizing s with
  | nil => exact ⟨rfl, fun w => by simp⟩
  | cons v vs ih =>
    obtain ⟨hv, hn⟩ := List.nodup_cons.1 hn
    obtain ⟨i1, i2⟩ := ih hn (s.modVenue v (g v))
    refine ⟨by rw [List.foldl_cons]; conv => lhs; rw [i1]
               rfl, fun w => ?_⟩
    rw [List.foldl_cons, i2, State.modVenue_eq, State.setVenue_venue_eq_ite]
    by_cases hw : w = v
    · subst hw; simp [hv]
    · simp [hw]

/-- A source changed by a command: the source itself, and each lane as `Lane.follow` says. -/
theorem State.changeSource_eq (s : State) (n : Fin 16) (f : Source → Source) :
    s.changeSource n f =
        { s.setSource n (f (s.source n)) with venues := (s.changeSource n f).venues } ∧
      ∀ v, (s.changeSource n f).venue v = (s.venue v).modLane fun l =>
        l.follow s.arbiter n ((s.source n).wants v) ((s.setSource n (f (s.source n))).asks v) := by
  have key : ∀ (vs : List (Fin 24)) (t : State), t.arbiter = s.arbiter →
      t.sources = (s.setSource n (f (s.source n))).sources →
      vs.foldl (fun t v => t.followSource n (s.source n) v) t =
        vs.foldl (fun t v => t.modVenue v fun ve => ve.modLane fun l =>
          l.follow s.arbiter n ((s.source n).wants v) ((s.setSource n (f (s.source n))).asks v)) t := by
    intro vs
    induction vs with
    | nil => intro t _ _; rfl
    | cons v vs ih =>
      intro t h1 h2
      have ha : t.asks v = (s.setSource n (f (s.source n))).asks v := by
        funext k; simp [State.asks, State.source, h2]
      rw [List.foldl_cons, List.foldl_cons, State.followSource_eq, h1, ha]
      exact ih _ h1 h2
  have h := State.foldl_modVenue (fun v ve => ve.modLane fun l =>
    l.follow s.arbiter n ((s.source n).wants v) ((s.setSource n (f (s.source n))).asks v)) allVenues
    (List.nodup_finRange 24) (s.setSource n (f (s.source n)))
  have e : s.changeSource n f = _ := key allVenues _ rfl rfl
  rw [e]
  refine ⟨h.1, fun v => ?_⟩
  have := h.2 v
  rw [if_pos (show v ∈ allVenues from List.mem_finRange v)] at this
  exact this

end Sys2Proof.Machine
end

