-- ==== Sys2Proof/Laws/Health.lean ====
section
/-! SUPPORT. What a report does to a health record (R148 to R154), field by field, and what several reports of
one kind do to its counters. -/

namespace Sys2Proof.Machine

theorem ErrorKind.index_inj {a b : ErrorKind} (h : a.index = b.index) : a = b := by
  cases a <;> cases b <;> first | rfl | (exact absurd h (by decide))

section Fields

variable (h : Health) (r : Report) (b : BlockCount) (k : ErrorKind)

@[simp] theorem Health.offerCapture_counters : (h.offerCapture r b).counters = h.counters := by
  unfold Health.offerCapture; split
  · split <;> rfl
  · rfl
@[simp] theorem Health.offerCapture_repaired : (h.offerCapture r b).repaired = h.repaired := by
  unfold Health.offerCapture; split
  · split <;> rfl
  · rfl
@[simp] theorem Health.offerCapture_filledByPath : (h.offerCapture r b).filledByPath = h.filledByPath := by
  unfold Health.offerCapture; split
  · split <;> rfl
  · rfl
@[simp] theorem Health.offerCapture_captureEnable : (h.offerCapture r b).captureEnable = h.captureEnable := by
  unfold Health.offerCapture; split
  · split <;> rfl
  · rfl
@[simp] theorem Health.offerCapture_rateEnable : (h.offerCapture r b).rateEnable = h.rateEnable := by
  unfold Health.offerCapture; split
  · split <;> rfl
  · rfl
@[simp] theorem Health.offerCapture_windowCount : (h.offerCapture r b).windowCount = h.windowCount := by
  unfold Health.offerCapture; split
  · split <;> rfl
  · rfl
@[simp] theorem Health.offerCapture_threshold : (h.offerCapture r b).threshold = h.threshold := by
  unfold Health.offerCapture; split
  · split <;> rfl
  · rfl
@[simp] theorem Health.offerCapture_degraded : (h.offerCapture r b).degraded = h.degraded := by
  unfold Health.offerCapture; split
  · split <;> rfl
  · rfl
@[simp] theorem Health.offerCapture_pathDown : (h.offerCapture r b).pathDown = h.pathDown := by
  unfold Health.offerCapture; split
  · split <;> rfl
  · rfl

@[simp] theorem Health.offerMonitor_counters : (h.offerMonitor k).counters = h.counters := by
  unfold Health.offerMonitor; split <;> rfl
@[simp] theorem Health.offerMonitor_repaired : (h.offerMonitor k).repaired = h.repaired := by
  unfold Health.offerMonitor; split <;> rfl
@[simp] theorem Health.offerMonitor_filledByPath : (h.offerMonitor k).filledByPath = h.filledByPath := by
  unfold Health.offerMonitor; split <;> rfl
@[simp] theorem Health.offerMonitor_captureEnable : (h.offerMonitor k).captureEnable = h.captureEnable := by
  unfold Health.offerMonitor; split <;> rfl
@[simp] theorem Health.offerMonitor_rateEnable : (h.offerMonitor k).rateEnable = h.rateEnable := by
  unfold Health.offerMonitor; split <;> rfl
@[simp] theorem Health.offerMonitor_capture : (h.offerMonitor k).capture = h.capture := by
  unfold Health.offerMonitor; split <;> rfl
@[simp] theorem Health.offerMonitor_overflow : (h.offerMonitor k).overflow = h.overflow := by
  unfold Health.offerMonitor; split <;> rfl
@[simp] theorem Health.offerMonitor_threshold : (h.offerMonitor k).threshold = h.threshold := by
  unfold Health.offerMonitor; split <;> rfl
@[simp] theorem Health.offerMonitor_pathDown : (h.offerMonitor k).pathDown = h.pathDown := by
  unfold Health.offerMonitor; split <;> rfl

@[simp] theorem Health.latchPathDown_counters : (h.latchPathDown k).counters = h.counters := by
  unfold Health.latchPathDown; split <;> rfl
@[simp] theorem Health.latchPathDown_repaired : (h.latchPathDown k).repaired = h.repaired := by
  unfold Health.latchPathDown; split <;> rfl
@[simp] theorem Health.latchPathDown_filledByPath : (h.latchPathDown k).filledByPath = h.filledByPath := by
  unfold Health.latchPathDown; split <;> rfl
@[simp] theorem Health.latchPathDown_captureEnable : (h.latchPathDown k).captureEnable = h.captureEnable := by
  unfold Health.latchPathDown; split <;> rfl
@[simp] theorem Health.latchPathDown_rateEnable : (h.latchPathDown k).rateEnable = h.rateEnable := by
  unfold Health.latchPathDown; split <;> rfl
@[simp] theorem Health.latchPathDown_capture : (h.latchPathDown k).capture = h.capture := by
  unfold Health.latchPathDown; split <;> rfl
@[simp] theorem Health.latchPathDown_overflow : (h.latchPathDown k).overflow = h.overflow := by
  unfold Health.latchPathDown; split <;> rfl
@[simp] theorem Health.latchPathDown_windowCount : (h.latchPathDown k).windowCount = h.windowCount := by
  unfold Health.latchPathDown; split <;> rfl
@[simp] theorem Health.latchPathDown_threshold : (h.latchPathDown k).threshold = h.threshold := by
  unfold Health.latchPathDown; split <;> rfl
@[simp] theorem Health.latchPathDown_degraded : (h.latchPathDown k).degraded = h.degraded := by
  unfold Health.latchPathDown; split <;> rfl

@[simp] theorem Health.take_repaired : (h.take r b).repaired = h.repaired := by
  simp [Health.take, Health.count]
@[simp] theorem Health.take_filledByPath : (h.take r b).filledByPath = h.filledByPath := by
  simp [Health.take, Health.count]
@[simp] theorem Health.take_captureEnable : (h.take r b).captureEnable = h.captureEnable := by
  simp [Health.take, Health.count]
@[simp] theorem Health.take_rateEnable : (h.take r b).rateEnable = h.rateEnable := by
  simp [Health.take, Health.count]
@[simp] theorem Health.take_threshold : (h.take r b).threshold = h.threshold := by
  simp [Health.take, Health.count]

/-- R148: a report increments the counter of its own kind, saturating, and no other. -/
theorem Health.take_counter :
    (h.take r b).counter k = if k = r.kind then satInc (h.counter k) else h.counter k := by
  simp only [Health.counter, Health.take, Health.latchPathDown_counters, Health.offerMonitor_counters,
    Health.offerCapture_counters, Health.count, Fin.getElem_fin]
  split
  · next hk => subst hk; simp
  · next hk =>
    have : r.kind.index.val ≠ k.index.val := fun e => hk (ErrorKind.index_inj (Fin.ext e.symm))
    simp [this]

/-- R154: a report latches PATH_DOWN exactly when it is of that kind. -/
theorem Health.take_pathDown : (h.take r b).pathDown = (h.pathDown || decide (r.kind = .pathDown)) := by
  simp only [Health.take, Health.latchPathDown]
  split <;> simp_all [Health.count]

end Fields

section Reports

variable (s : State) (v : Fin 24)

/-- Reports change nothing but the health record of their venue. -/
theorem State.reports_eq (rs : List Report) : s.reports v rs = { s with venues := (s.reports v rs).venues } := by
  induction rs generalizing s with
  | nil => rfl
  | cons r rs ih =>
    simp only [State.reports_cons]
    conv => lhs; rw [ih (s.report v r)]
    rfl

/-- Reports of one kind count in that counter alone. -/
theorem State.reports_counter (k : ErrorKind) (rs : List Report) (hr : ∀ r ∈ rs, r.kind = k)
    (h : (s.venue v).health.counter k ≤ 65535) :
    ((s.reports v rs).venue v).health.counter k = min 65535 ((s.venue v).health.counter k + rs.length) := by
  induction rs generalizing s with
  | nil => simp; omega
  | cons r rs ih =>
    have h1 : ((s.report v r).venue v).health.counter k = min 65535 ((s.venue v).health.counter k + 1) := by
      simp [State.report_health, Health.take_counter, hr r (by simp), satInc]
    rw [State.reports_cons, ih _ (fun q hq => hr q (by simp [hq])) (by omega), h1]
    simp; omega

/-- Reports of kinds other than `k` leave its counter. -/
theorem State.reports_counter_of_ne (k : ErrorKind) (rs : List Report) (hr : ∀ r ∈ rs, r.kind ≠ k) :
    ((s.reports v rs).venue v).health.counter k = (s.venue v).health.counter k := by
  induction rs generalizing s with
  | nil => rfl
  | cons r rs ih =>
    have hk : k ≠ r.kind := fun e => hr r (by simp) e.symm
    rw [State.reports_cons, ih _ fun q hq => hr q (by simp [hq])]
    simp [State.report_health, Health.take_counter, hk]

/-- R150: a held capture stays, whatever is reported. -/
theorem State.reports_capture_of_some (rs : List Report) {old : Capture} (h : (s.venue v).health.capture = some old) :
    ((s.reports v rs).venue v).health.capture = some old := by
  induction rs generalizing s with
  | nil => exact h
  | cons r rs ih =>
    refine ih _ ?_
    rw [State.report_health]
    simp only [Health.take, Health.latchPathDown_capture, Health.offerMonitor_capture, Health.offerCapture, Health.count, h]
    split <;> rfl

/-- R150: an empty capture takes the first of several enabled reports. -/
theorem State.reports_capture_first (r : Report) (rs : List Report) (h : (s.venue v).health.capture = none)
    (he : (s.venue v).health.captureEnable.getLsbD r.kind.index.val = true) :
    ((s.reports v (r :: rs)).venue v).health.capture =
      some ⟨r.kind, r.circuit, r.frame, r.port, s.blockCount⟩ := by
  refine State.reports_capture_of_some (s.report v r) v rs ?_
  rw [State.report_health]
  simp only [Health.take, Health.latchPathDown_capture, Health.offerMonitor_capture, Health.offerCapture, Health.count, h,
    he, if_true]

/-- Reports that are not PATH_DOWN leave that flag (R154). -/
theorem State.reports_pathDown (rs : List Report) (hr : ∀ r ∈ rs, r.kind ≠ .pathDown) :
    ((s.reports v rs).venue v).health.pathDown = (s.venue v).health.pathDown := by
  induction rs generalizing s with
  | nil => rfl
  | cons r rs ih =>
    rw [State.reports_cons, ih _ fun q hq => hr q (by simp [hq])]
    simp [State.report_health, Health.take_pathDown, hr r (by simp)]

end Reports

section Flush

variable (s : State) (v : Fin 24)

/-- R108: a flush counts each entry CANCELLED. -/
theorem State.flush_cancelled (h : (s.venue v).health.counter .cancelled ≤ 65535) :
    ((s.flush v).venue v).health.counter .cancelled =
      min 65535 ((s.venue v).health.counter .cancelled + (s.venue v).recovery.length) := by
  have := s.reports_counter v .cancelled ((s.venue v).recovery.map fun e => e.report .cancelled)
    (by simp [RecoveryEntry.report]) h
  simpa [State.flush] using this

@[simp] theorem State.flush_pathDown :
    ((s.flush v).venue v).health.pathDown = (s.venue v).health.pathDown := by
  have := s.reports_pathDown v ((s.venue v).recovery.map fun e => e.report .cancelled)
    (by simp [RecoveryEntry.report])
  simpa [State.flush] using this

/-- A flush changes nothing but its venue record. -/
theorem State.flush_eq : s.flush v = { s with venues := (s.flush v).venues } := by
  unfold State.flush
  rw [State.reports_eq]
  rfl

end Flush

end Sys2Proof.Machine
end

