-- ==== Sys2Proof/Laws/Free.lean ====
section
/-! SUPPORT. What freeing a circuit (R39, R128), unseating a venue (R9) and entering HOLDOVER (R6) do, said once
over the whole state. -/

namespace Sys2Proof.Machine

/-! ### Slots -/

/-- The sources a slot holds: its current source and its stack. -/
def Slot.sources (sl : Slot) : List SlotSource := sl.source.toList ++ sl.stack

/-- R128 for one slot, as one equation. -/
theorem Slot.dropCircuit_eq (sl : Slot) (c : Fin 128) :
    sl.dropCircuit c = { sl with
      source := if sl.names c then (sl.stack.filter fun x => x.circuit != c).head? else sl.source
      stack := if sl.names c then (sl.stack.filter fun x => x.circuit != c).tail
        else sl.stack.filter fun x => x.circuit != c
      fellBack := sl.fellBack.filter fun x => x.circuit != c } := by
  have hn : Slot.names { sl with fellBack := sl.fellBack.filter fun x => x.circuit != c } c = sl.names c := rfl
  simp only [Slot.dropCircuit, hn]
  cases sl.names c with
  | false => rfl
  | true =>
    simp only [if_true]
    cases sl.stack.filter fun x => x.circuit != c <;> rfl

theorem Slot.mem_dropCircuit {sl : Slot} {c : Fin 128} {y : SlotSource} (h : y ∈ (sl.dropCircuit c).sources) :
    y ∈ sl.sources ∧ y.circuit ≠ c := by
  have key : ∀ z ∈ sl.stack.filter (fun x => x.circuit != c), z ∈ sl.sources ∧ z.circuit ≠ c := fun z hz => by
    have := List.mem_filter.1 hz
    exact ⟨by simp [Slot.sources, this.1], by simpa using this.2⟩
  rw [Slot.dropCircuit_eq] at h
  simp only [Slot.sources] at h
  cases hn : sl.names c with
  | true =>
    simp only [hn, if_true] at h
    rcases List.mem_append.1 h with h | h
    · exact key y (List.mem_of_mem_head? (by simpa using h))
    · exact key y (List.mem_of_mem_tail h)
  | false =>
    simp only [hn] at h
    rcases List.mem_append.1 h with h | h
    · refine ⟨by simpa [Slot.sources] using Or.inl (by simpa using h), fun hc => ?_⟩
      have hs : sl.source = some y := by simpa using h
      simp [Slot.names, hs, hc] at hn
    · exact key y h

theorem Slot.dropCircuit_stack_length (sl : Slot) (c : Fin 128) :
    (sl.dropCircuit c).stack.length ≤ sl.stack.length := by
  rw [Slot.dropCircuit_eq]
  have h := List.length_filter_le (fun x : SlotSource => x.circuit != c) sl.stack
  simp only
  split
  · simp only [List.length_tail]; omega
  · exact h

@[simp] theorem Slot.dropCircuit_muted (sl : Slot) (c : Fin 128) : (sl.dropCircuit c).muted = sl.muted := by
  rw [Slot.dropCircuit_eq]
@[simp] theorem Slot.dropCircuit_staged (sl : Slot) (c : Fin 128) : (sl.dropCircuit c).staged = sl.staged := by
  rw [Slot.dropCircuit_eq]
@[simp] theorem Slot.dropCircuit_emitting (sl : Slot) (c : Fin 128) :
    (sl.dropCircuit c).emitting = sl.emitting := by
  rw [Slot.dropCircuit_eq]

@[simp] theorem Slot.dropCircuit_fellBack (sl : Slot) (c : Fin 128) :
    (sl.dropCircuit c).fellBack = sl.fellBack.filter fun x => x.circuit != c := by
  rw [Slot.dropCircuit_eq]

@[simp] theorem Slot.waitNext_source (sl : Slot) : sl.waitNext.source = sl.source := rfl
@[simp] theorem Slot.waitNext_stack (sl : Slot) : sl.waitNext.stack = sl.stack := rfl
@[simp] theorem Slot.waitNext_muted (sl : Slot) : sl.waitNext.muted = sl.muted := rfl
@[simp] theorem Slot.waitNext_staged (sl : Slot) : sl.waitNext.staged = sl.staged := rfl
@[simp] theorem Slot.waitNext_emitting (sl : Slot) : sl.waitNext.emitting = sl.emitting := rfl
@[simp] theorem Slot.waitNext_fellBack (sl : Slot) : sl.waitNext.fellBack = sl.source := rfl

/-- R128: a source that fell back at this boundary is not staged. -/
theorem Slot.stage_fellBack {sl : Slot} {x : SlotSource} (hs : sl.source = some x) (hf : sl.fellBack = some x)
    (cs : List (Fin 128)) (rows : List PlayRow) (b : BlockCount) : sl.stage cs rows b = sl := by
  simp [Slot.stage, hs, hf]

/-! ### The end of a fade -/

section WaitNext

variable {t s : State} {c : Fin 128}

/-- R128: the slots that the ended fade fed wait for the next boundary, and nothing else changes. -/
@[simp] theorem State.waitNext_slot (i : Fin 128) :
    (t.waitNext s c).slot i = if (s.slot i).names c then (t.slot i).waitNext else t.slot i := by
  simp only [State.waitNext, State.slot, Fin.getElem_fin, Vector.getElem_zipWith]
  rfl
@[simp] theorem State.waitNext_venue (v : Fin 24) : (t.waitNext s c).venue v = t.venue v := rfl
@[simp] theorem State.waitNext_circuit (d : Fin 128) : (t.waitNext s c).circuit d = t.circuit d := rfl
@[simp] theorem State.waitNext_port (p : Fin 4) : (t.waitNext s c).port p = t.port p := rfl
@[simp] theorem State.waitNext_source (n : Fin 16) : (t.waitNext s c).source n = t.source n := rfl
@[simp] theorem State.waitNext_poolFree : (t.waitNext s c).poolFree = t.poolFree := rfl

end WaitNext

/-! ### freeRecord -/

section FreeRecord

variable {s : State} {c : Fin 128}

/-- R39 steps 1 to 6, as one equation. -/
theorem State.freeRecord_eq (s : State) (c : Fin 128) :
    s.freeRecord c = if (s.circuit c).state = .free then s else { s with
      slots := s.slots.map fun (sl : Slot) => sl.dropCircuit c
      venues := match (s.circuit c).venue with
        | none => s.venues
        | some v => (s.setVenue v { (s.venue v).dropEntries c with
            circuits := (s.venue v).circuits.filter fun d => d != c }).venues
      poolFree := s.poolFree + (s.circuit c).units
      circuits := (s.setCircuit c Circuit.free).circuits } := by
  simp only [State.freeRecord]
  split
  · rfl
  · cases (s.circuit c).venue <;> rfl

@[simp] theorem State.freeRecord_ports : (s.freeRecord c).ports = s.ports := by
  rw [State.freeRecord_eq]; split <;> rfl
@[simp] theorem State.freeRecord_sources : (s.freeRecord c).sources = s.sources := by
  rw [State.freeRecord_eq]; split <;> rfl
@[simp] theorem State.freeRecord_reference : (s.freeRecord c).reference = s.reference := by
  rw [State.freeRecord_eq]; split <;> rfl
@[simp] theorem State.freeRecord_control : (s.freeRecord c).control = s.control := by
  rw [State.freeRecord_eq]; split <;> rfl
@[simp] theorem State.freeRecord_resetLow : (s.freeRecord c).resetLow = s.resetLow := by
  rw [State.freeRecord_eq]; split <;> rfl
@[simp] theorem State.freeRecord_arbiter : (s.freeRecord c).arbiter = s.arbiter := by
  rw [State.freeRecord_eq]; split <;> rfl
@[simp] theorem State.freeRecord_returnBlock : (s.freeRecord c).returnBlock = s.returnBlock := by
  rw [State.freeRecord_eq]; split <;> rfl
@[simp] theorem State.freeRecord_keyLow : (s.freeRecord c).keyLow = s.keyLow := by
  rw [State.freeRecord_eq]; split <;> rfl
@[simp] theorem State.freeRecord_classEnables : (s.freeRecord c).classEnables = s.classEnables := by
  rw [State.freeRecord_eq]; split <;> rfl
@[simp] theorem State.freeRecord_refLoss : (s.freeRecord c).refLoss = s.refLoss := by
  rw [State.freeRecord_eq]; split <;> rfl
@[simp] theorem State.freeRecord_due : (s.freeRecord c).due = s.due := by
  rw [State.freeRecord_eq]; split <;> rfl
@[simp] theorem State.freeRecord_freeCount : (s.freeRecord c).freeCount = s.freeCount := by
  rw [State.freeRecord_eq]; split <;> rfl
@[simp] theorem State.freeRecord_pending : (s.freeRecord c).pending = s.pending := by
  rw [State.freeRecord_eq]; split <;> rfl
@[simp] theorem State.freeRecord_port (p : Fin 4) : (s.freeRecord c).port p = s.port p := by
  simp [State.port]
@[simp] theorem State.freeRecord_source (n : Fin 16) : (s.freeRecord c).source n = s.source n := by
  simp [State.source]
@[simp] theorem State.freeRecord_blockCount : (s.freeRecord c).blockCount = s.blockCount := by
  simp [State.blockCount]

/-- R39 step 6: the record is FREE afterwards, and no other circuit changes. -/
theorem State.freeRecord_circuit (d : Fin 128) :
    (s.freeRecord c).circuit d =
      if d = c ∧ (s.circuit c).state ≠ .free then Circuit.free else s.circuit d := by
  rw [State.freeRecord_eq]
  by_cases h : (s.circuit c).state = .free
  · simp [h]
  · rw [if_neg h]
    show (s.setCircuit c Circuit.free).circuit d = _
    rw [State.setCircuit_circuit_eq_ite]
    simp [h]

/-- R39 steps 2 and 4: the circuit leaves its venue's queue and list; every other venue stays. -/
theorem State.freeRecord_venue (w : Fin 24) :
    (s.freeRecord c).venue w =
      if (s.circuit c).state ≠ .free ∧ (s.circuit c).venue = some w then
        { (s.venue w).dropEntries c with circuits := (s.venue w).circuits.filter fun d => d != c }
      else s.venue w := by
  rw [State.freeRecord_eq]
  by_cases h : (s.circuit c).state = .free
  · simp [h]
  · rw [if_neg h]
    cases hv : (s.circuit c).venue with
    | none => simp; rfl
    | some v =>
      show (s.setVenue v _).venue w = _
      rw [State.setVenue_venue_eq_ite]
      by_cases hw : w = v
      · subst hw; simp [h]
      · have : ¬ v = w := fun e => hw e.symm
        simp [hw, this]

/-- R39 step 1, R128. -/
theorem State.freeRecord_slot (i : Fin 128) :
    (s.freeRecord c).slot i =
      if (s.circuit c).state ≠ .free then (s.slot i).dropCircuit c else s.slot i := by
  rw [State.freeRecord_eq]
  by_cases h : (s.circuit c).state = .free <;> simp [h, State.slot]

/-- R39 step 5, R22. -/
theorem State.freeRecord_poolFree :
    (s.freeRecord c).poolFree =
      if (s.circuit c).state ≠ .free then s.poolFree + (s.circuit c).units else s.poolFree := by
  rw [State.freeRecord_eq]
  by_cases h : (s.circuit c).state = .free <;> simp [h]

end FreeRecord

end Sys2Proof.Machine
end

