-- ==== Sys2Proof/Laws/Window.lean ====
section
/-! SUPPORT. The cells of a window: reading after storing and emptying, and every window operation keeps the
canonical form and R60's place for every frame (`Circuit.WindowLaw`). -/

namespace Sys2Proof.Machine

/-! ### The list of cells -/

theorem mem_putCell (x y : Cell) (l : List Cell) (h : y ∈ putCell x l) : y = x ∨ y ∈ l := by
  induction l with
  | nil => simpa [putCell] using h
  | cons z zs ih =>
    unfold putCell at h
    split at h
    · simpa using h
    · split at h
      · rcases List.mem_cons.mp h with h | h
        · exact .inl h
        · exact .inr (List.mem_cons_of_mem _ h)
      · rcases List.mem_cons.mp h with h | h
        · exact .inr (h ▸ List.mem_cons_self)
        · rcases ih h with h | h
          · exact .inl h
          · exact .inr (List.mem_cons_of_mem _ h)

theorem putCell_rising (x : Cell) (l : List Cell) (h : cellsRising l) : cellsRising (putCell x l) := by
  induction l with
  | nil => simp [putCell, cellsRising]
  | cons z zs ih =>
    obtain ⟨hz, hzs⟩ := List.pairwise_cons.mp h
    unfold putCell
    split
    · next hlt =>
      refine List.pairwise_cons.mpr ⟨fun y hy => ?_, h⟩
      rcases List.mem_cons.mp hy with rfl | hy
      · exact hlt
      · exact lt_trans hlt (hz y hy)
    · split
      · next heq => exact List.pairwise_cons.mpr ⟨fun y hy => heq ▸ hz y hy, hzs⟩
      · next hge hne =>
        refine List.pairwise_cons.mpr ⟨fun y hy => ?_, ih hzs⟩
        rcases mem_putCell x y zs hy with rfl | hy
        · omega
        · exact hz y hy

theorem emptyCell_rising (l : List Cell) (i : Nat) (h : cellsRising l) : cellsRising (emptyCell l i) :=
  List.Pairwise.filter _ h

theorem mem_emptyCell {x : Cell} {l : List Cell} {i : Nat} (h : x ∈ emptyCell l i) : x ∈ l :=
  (List.mem_filter.mp h).1

/-- Reading the cell just filled. -/
theorem cellAt_putCell (x : Cell) (l : List Cell) (h : cellsRising l) :
    cellAt (putCell x l) x.index = some x := by
  induction l with
  | nil => simp [putCell, cellAt]
  | cons z zs ih =>
    unfold putCell
    split
    · simp [cellAt]
    · split
      · simp [cellAt]
      · next hge hne =>
        have : (z.index == x.index) = false := by simpa using fun e => hne e.symm
        simp only [cellAt, List.find?_cons, this]
        exact ih (List.pairwise_cons.mp h).2

/-- Filling one cell leaves every other cell. -/
theorem cellAt_putCell_of_ne (x : Cell) (l : List Cell) (i : Nat) (h : i ≠ x.index) :
    cellAt (putCell x l) i = cellAt l i := by
  have hx : (x.index == i) = false := by simpa using fun e => h e.symm
  induction l with
  | nil => simp [putCell, cellAt, hx]
  | cons z zs ih =>
    unfold putCell
    split
    · simp [cellAt, List.find?_cons, hx]
    · split
      · next heq => simp [cellAt, hx, ← heq]
      · simp only [cellAt, List.find?_cons] at ih ⊢; rw [ih]

/-- An emptied cell holds nothing. -/
theorem cellAt_emptyCell (l : List Cell) (i : Nat) : cellAt (emptyCell l i) i = none := by
  simp [cellAt, emptyCell, List.find?_eq_none]

/-- Emptying one cell leaves every other cell. -/
theorem cellAt_emptyCell_of_ne (l : List Cell) (i j : Nat) (h : j ≠ i) :
    cellAt (emptyCell l i) j = cellAt l j := by
  induction l with
  | nil => rfl
  | cons z zs ih =>
    simp only [cellAt, emptyCell] at ih ⊢
    by_cases hz : z.index = i
    · have hij : (i == j) = false := by simpa using fun e => h e.symm
      simp [hz, ih, hij]
    · simp [hz, List.find?_cons, ih]

/-! ### The window of a circuit -/

@[simp] theorem Circuit.cellIndex_store (x : Circuit) (n : FrameNo) (ch : List FrameSamples) (m : FrameNo) :
    (x.store n ch).cellIndex m = x.cellIndex m := rfl

/-- R65: a frame just stored is present, with the samples stored. -/
theorem Circuit.held_store (x : Circuit) (n : FrameNo) (ch : List FrameSamples) (h : cellsRising x.cells) :
    (x.store n ch).held n = some ⟨x.cellIndex n, n, ch⟩ := by
  have := cellAt_putCell ⟨x.cellIndex n, n, ch⟩ x.cells h
  simp only [Circuit.held, Circuit.cellIndex_store]
  simp only [Circuit.store, this]
  simp

/-- R72: a frame consumed is no longer present. -/
theorem Circuit.present_consume (x : Circuit) (n : FrameNo) : (x.consume n).present n = false := by
  unfold Circuit.consume
  split
  · simp [Circuit.present, Circuit.held, Circuit.cellIndex, cellAt_emptyCell]
  · next h => simpa using h

theorem Circuit.WindowLaw.store {x : Circuit} (h : x.WindowLaw) (n : FrameNo) (ch : List FrameSamples) :
    (x.store n ch).WindowLaw := by
  refine ⟨putCell_rising _ _ h.1, fun y hy => ?_⟩
  rcases mem_putCell _ _ _ hy with rfl | hy
  · rfl
  · exact h.2 y hy

theorem Circuit.WindowLaw.consume {x : Circuit} (h : x.WindowLaw) (n : FrameNo) : (x.consume n).WindowLaw := by
  unfold Circuit.consume
  split
  · exact ⟨emptyCell_rising _ _ h.1, fun y hy => h.2 y (mem_emptyCell hy)⟩
  · exact h

/-- A window with every cell EMPTY. -/
theorem Circuit.WindowLaw.of_empty {x : Circuit} (h : x.cells = []) : x.WindowLaw := by
  refine ⟨by simp [cellsRising, h], fun y hy => ?_⟩
  rw [h] at hy; cases hy

/-- A change that keeps the cells and the window size keeps the law. -/
theorem Circuit.WindowLaw.congr {x y : Circuit} (h : x.WindowLaw) (hc : y.cells = x.cells)
    (hw : y.window = x.window) : y.WindowLaw := by
  refine ⟨hc ▸ h.1, fun z hz => ?_⟩
  rw [hc] at hz
  rw [h.2 z hz, Circuit.cellIndex, Circuit.cellIndex, hw]

theorem Circuit.clearWindow_windowLaw (x : Circuit) : x.clearWindow.WindowLaw := .of_empty rfl

theorem Circuit.terminal_windowLaw (x : Circuit) : x.terminal.WindowLaw := by
  apply Circuit.WindowLaw.of_empty
  unfold Circuit.terminal
  dsimp only
  split <;> rfl

theorem Circuit.free_windowLaw : Circuit.free.WindowLaw := .of_empty rfl

end Sys2Proof.Machine
end

