-- ==== Sys2Proof/Laws/Moves.lean ====
section
/-! SUPPORT. The moves of which every event is made. A move is one change of the records that the laws of
Safety.lean speak of; `Moves` is any number of them in a row. What an event does is a row of moves (Laws/Events.lean,
Laws/Commands.lean), so that a law that every move keeps is kept by every step. -/

namespace Sys2Proof.Machine

/-- A change of one venue record that leaves whether it is open, its key, its list and its lane's state, and
keeps the laws of its rates and depths. -/
structure VenueMove (y x : Venue) : Prop where
  isOpen : x.isOpen = y.isOpen
  key : x.key = y.key
  circuits : x.circuits = y.circuits
  enable : x.lane.enable = y.lane.enable
  laneState : x.lane.state = y.lane.state
  rates : y.timebase.RateLaw → x.timebase.RateLaw
  recovery : y.recovery.length ≤ 32 → x.recovery.length ≤ 32
  announced : y.announced.length ≤ 8 → x.announced.length ≤ 8

/-- A change of one circuit record that leaves whether it is FREE, its venue, and the shape of its window, and
keeps its laws. -/
structure CircuitMove (y x : Circuit) : Prop where
  free : x.state = .free ↔ y.state = .free
  venue : x.venue = y.venue
  channels : x.channels = y.channels
  window : x.window = y.window
  windowLaw : y.WindowLaw → x.WindowLaw
  holdLaw : y.HoldLaw → x.HoldLaw

/-- One move. -/
inductive Move (s : State) : State → Prop where
  /-- Anything but the venues, the circuits, the pool, the slots' sources and the talkback sources. -/
  | outside (t : State) (venues : t.venues = s.venues) (circuits : t.circuits = s.circuits)
      (poolFree : t.poolFree = s.poolFree) (sources : t.sources = s.sources)
      (slots : ∀ i, (t.slot i).source = (s.slot i).source ∧ (t.slot i).stack = (s.slot i).stack)
      (queues : ∀ p, (s.port p).queue.length ≤ 128 → (t.port p).queue.length ≤ 128) : Move s t
  | venue (v : Fin 24) (x : Venue) (h : VenueMove (s.venue v) x) : Move s (s.setVenue v x)
  /-- An open venue takes a key that no other open venue holds (R2). -/
  | rekey (v : Fin 24) (k : BitVec 16) (zero : k ≠ 0)
      (unique : ∀ w, w ≠ v → (s.venue w).isOpen = true → (s.venue w).key ≠ k) :
      Move s (s.setVenue v { s.venue v with key := k })
  | circuit (c : Fin 128) (x : Circuit) (h : CircuitMove (s.circuit c) x) : Move s (s.setCircuit c x)
  /-- A circuit is freed (R39). -/
  | free (c : Fin 128) : Move s (s.freeRecord c)
  /-- A FREE venue record is opened (R15). -/
  | openVenue (v : Fin 24) (x : Venue) (isFree : (s.venue v).isOpen = false) (isOpen : x.isOpen = true)
      (zero : x.key ≠ 0) (unique : ∀ w, (s.venue w).isOpen = true → (s.venue w).key ≠ x.key)
      (circuits : x.circuits = []) (lane : x.lane = Lane.reset) (rates : x.timebase.RateLaw)
      (recovery : x.recovery = []) (announced : x.announced = []) : Move s (s.setVenue v x)
  /-- A venue with no circuit is closed (R17). -/
  | closeVenue (v : Fin 24) (circuits : ListLaw s → (s.venue v).circuits = []) : Move s (s.closeVenue v)
  /-- A FREE circuit record is opened (R34). -/
  | openCircuit (v : Fin 24) (c : Fin 128) (x : Circuit) (isFree : (s.circuit c).state = .free)
      (isOpen : (s.venue v).isOpen = true) (state : x.state ≠ .free) (venue : x.venue = some v)
      (room : (s.venue v).circuits.length < 8) (units : x.units ≤ s.poolFree) (windowLaw : x.WindowLaw)
      (holdLaw : x.HoldLaw) : Move s (s.openCircuit v c x)
  /-- A slot changes to sources that live (R121). -/
  | slot (i : Fin 128) (x : Slot) (live : ∀ y ∈ x.sources, y ∈ (s.slot i).sources ∨ s.sourceLives y)
      (depth : (s.slot i).stack.length ≤ 4 → x.stack.length ≤ 4) : Move s (s.setSlot i x)
  /-- The talkback sources and the lanes change together (R132 to R138). -/
  | lanes (t : State) (eq : t = { s with venues := t.venues, sources := t.sources })
      (venues : ∀ v, t.venue v = { s.venue v with lane := (t.venue v).lane })
      (law : LaneLaw s → LaneLaw t) : Move s t
  /-- Every record takes its reset value (R165, R167). -/
  | reset (t : State) (venues : ∀ v, t.venue v = Venue.free) (circuits : ∀ c, t.circuit c = Circuit.free)
      (poolFree : t.poolFree = 32768) (slots : ∀ i, t.slot i = Slot.reset)
      (sources : ∀ n, t.source n = Source.reset)
      (queues : ∀ p, (t.port p).queue = []) : Move s t

/-- Any number of moves in a row. -/
def Moves (s t : State) : Prop := Relation.ReflTransGen Move s t

theorem Moves.refl (s : State) : Moves s s := Relation.ReflTransGen.refl

theorem Moves.trans {s t u : State} (h : Moves s t) (g : Moves t u) : Moves s u := Relation.ReflTransGen.trans h g

theorem Moves.of_eq {s t : State} (h : t = s) : Moves s t := h ▸ Moves.refl t

theorem Move.moves {s t : State} (h : Move s t) : Moves s t := Relation.ReflTransGen.single h

/-- A law that every move keeps is kept by any number of them. -/
theorem Moves.keep {Law : State → Prop} (keep : ∀ s t, Move s t → Law s → Law t) {s t : State} (h : Moves s t)
    (hs : Law s) : Law t := by
  induction h with
  | refl => exact hs
  | tail _ h ih => exact keep _ _ h ih

/-- A fold of moves is a row of moves. -/
theorem Moves.foldl {α : Type} {f : State → α → State} (hf : ∀ t a, Moves t (f t a)) (l : List α) (s : State) :
    Moves s (l.foldl f s) := by
  induction l generalizing s with
  | nil => exact .refl s
  | cons a l ih => exact (hf s a).trans (ih _)

/-! ### Moves of one record -/

section Small

variable (s : State)

theorem Moves.outside {s t : State} (h1 : t.venues = s.venues) (h2 : t.circuits = s.circuits)
    (h3 : t.poolFree = s.poolFree) (h4 : t.sources = s.sources) (h5 : t.slots = s.slots) (h6 : t.ports = s.ports) :
    Moves s t :=
  (Move.outside t h1 h2 h3 h4 (fun i => by simp [State.slot, h5]) fun p => by simp [State.port, h6]).moves

theorem Moves.ports {s t : State} (h : t = { s with ports := t.ports, freeCount := t.freeCount })
    (hq : ∀ p, (s.port p).queue.length ≤ 128 → (t.port p).queue.length ≤ 128) : Moves s t := by
  refine (Move.outside t ?_ ?_ ?_ ?_ (fun i => ?_) hq).moves
  · rw [h]
  · rw [h]
  · rw [h]
  · rw [h]
  · rw [h]; exact ⟨rfl, rfl⟩

theorem Moves.modVenue (v : Fin 24) (f : Venue → Venue) (h : VenueMove (s.venue v) (f (s.venue v))) :
    Moves s (s.modVenue v f) := (Move.venue v _ h).moves

theorem Moves.modCircuit (c : Fin 128) (f : Circuit → Circuit)
    (h : CircuitMove (s.circuit c) (f (s.circuit c))) : Moves s (s.modCircuit c f) := (Move.circuit c _ h).moves

theorem Moves.modCircuits (cs : List (Fin 128)) (f : Circuit → Circuit) (h : ∀ x, CircuitMove x (f x)) :
    Moves s (s.modCircuits cs f) := Moves.foldl (fun t c => .modCircuit t c f (h _)) cs s

theorem Moves.report (v : Fin 24) (r : Report) : Moves s (s.report v r) :=
  .modVenue s v _ ⟨rfl, rfl, rfl, rfl, rfl, id, id, id⟩

theorem Moves.reports (v : Fin 24) (rs : List Report) : Moves s (s.reports v rs) :=
  Moves.foldl (fun t r => .report t v r) rs s

theorem Moves.flush (v : Fin 24) : Moves s (s.flush v) :=
  (Moves.reports s v _).trans (Moves.modVenue _ v _ ⟨rfl, rfl, rfl, rfl, rfl, id, fun _ => by simp, id⟩)

end Small

/-! ### Laws of one record -/

theorem Circuit.HoldLaw.congr {x y : Circuit} (h : x.HoldLaw) (h1 : y.state = x.state) (h2 : y.hold = x.hold)
    (h3 : y.holdInit = x.holdInit) : y.HoldLaw := by
  unfold Circuit.HoldLaw at *; rw [h1, h2, h3]; exact h

/-- A circuit that keeps its state, hold and window makes a move. -/
theorem CircuitMove.quiet {x y : Circuit} (h1 : y.state = x.state) (h2 : y.hold = x.hold)
    (h3 : y.holdInit = x.holdInit) (h4 : y.venue = x.venue) (h5 : y.channels = x.channels)
    (h6 : y.window = x.window) (h7 : y.cells = x.cells) : CircuitMove x y where
  free := by rw [h1]
  venue := h4
  channels := h5
  window := h6
  windowLaw h := h.congr h7 h6
  holdLaw h := h.congr h1 h2 h3

theorem CircuitMove.clearWindow (x : Circuit) : CircuitMove x x.clearWindow :=
  ⟨.rfl, rfl, rfl, rfl, fun _ => x.clearWindow_windowLaw, fun h => h.congr rfl rfl rfl⟩

theorem CircuitMove.consume (x : Circuit) (n : FrameNo) : CircuitMove x (x.consume n) := by
  unfold Circuit.consume
  split
  · next hp =>
    refine ⟨.rfl, rfl, rfl, rfl, fun h => ?_, fun h => h.congr rfl rfl rfl⟩
    have := h.consume n
    rwa [Circuit.consume, if_pos hp] at this
  · exact .quiet rfl rfl rfl rfl rfl rfl rfl

theorem CircuitMove.store (x : Circuit) (n : FrameNo) (chans : List FrameSamples) (newest : Option FrameNo) :
    CircuitMove x { x.store n chans with newest := newest } :=
  ⟨.rfl, rfl, rfl, rfl, fun h => (h.store n chans).congr rfl rfl, fun h => h.congr rfl rfl rfl⟩

theorem CircuitMove.enter (x : Circuit) (n : FrameNo) : CircuitMove x (x.enter n) := by
  unfold Circuit.enter
  split
  · next cell hc =>
    simp only
    split <;> rename_i hs <;>
      first
      | exact .quiet rfl rfl rfl rfl rfl rfl rfl
      | (refine ⟨by simp [hs], rfl, rfl, rfl, fun h => h.congr rfl rfl, fun h => ?_⟩
         have := h (by rw [hs]; simp)
         intro _
         simp only [hs] at this ⊢
         simp at this ⊢
         omega)
  · next hc =>
    split <;> rename_i hs <;>
      first
      | exact .quiet rfl rfl rfl rfl rfl rfl rfl
      | (refine ⟨by simp [hs], rfl, rfl, rfl, fun h => h.congr rfl rfl, fun h => ?_⟩
         have := h (by rw [hs]; simp)
         intro _
         simp only [hs] at this ⊢
         simp at this ⊢
         omega)

theorem CircuitMove.terminal {x : Circuit} (hs : x.state = .concealing) : CircuitMove x x.terminal := by
  unfold Circuit.terminal
  simp only
  split
  · refine ⟨by simp [hs], rfl, rfl, rfl, fun _ => .of_empty rfl, fun h => ?_⟩
    have := h (by rw [hs]; simp)
    intro _
    simp at this ⊢
    omega
  · refine ⟨by simp [hs], rfl, rfl, rfl, fun _ => .of_empty rfl, fun h => ?_⟩
    have := h (by rw [hs]; simp)
    intro _
    simp at this ⊢
    omega

theorem Timebase.RateLaw.seat {t : Timebase} (h : t.RateLaw) (n : FrameNo) (T : Nat) : (t.seat n T).RateLaw := by
  unfold Timebase.RateLaw Timebase.seat at *
  simp only
  omega

theorem Timebase.RateLaw.unseat {t : Timebase} (h : t.RateLaw) : t.unseat.RateLaw := by
  unfold Timebase.RateLaw Timebase.unseat at *
  simp only
  omega

theorem Timebase.RateLaw.enterHoldover {t : Timebase} (h : t.RateLaw) : t.enterHoldover.RateLaw := by
  unfold Timebase.RateLaw Timebase.enterHoldover clampRate clampInt Config.rateLimit at *
  simp only
  omega

theorem Timebase.RateLaw.leaveHoldover {t : Timebase} (h : t.RateLaw) : t.leaveHoldover.RateLaw := h

theorem Timebase.updateRuns_rates (t : Timebase) (e : Int) :
    (t.updateRuns e).rhoP = t.rhoP ∧ (t.updateRuns e).rhoT = t.rhoT ∧ (t.updateRuns e).rhoEff = t.rhoEff ∧
      (t.updateRuns e).rhoCmd = t.rhoCmd := by
  unfold Timebase.updateRuns
  split <;> simp only <;> split <;> (try split) <;> exact ⟨rfl, rfl, rfl, rfl⟩

theorem Timebase.RateLaw.intervalUpdate {t : Timebase} (h : t.RateLaw) (T : Nat) :
    (t.intervalUpdate T).RateLaw := by
  unfold Timebase.intervalUpdate
  obtain ⟨h1, h2, h3, h4⟩ := Timebase.updateRuns_rates ({ t with
    rhoT := clampTrim (t.error T * t.loop.kp)
    rhoP := if t.frozen || t.active then t.rhoP else clampRate (t.rhoP + t.error T * t.loop.ki)
    rhoEff := clampRate ((if t.frozen || t.active then t.rhoP
      else clampRate (t.rhoP + t.error T * t.loop.ki)) + clampTrim (t.error T * t.loop.kp))
    sum := 0, count := 0 }) (t.error T)
  unfold Timebase.RateLaw at *
  simp only at h1 h2 h3 h4 ⊢
  rw [h1, h2, h3, h4]
  unfold clampRate clampTrim clampInt Config.rateLimit Config.trimLimit
  split <;> omega

theorem Timebase.RateLaw.walk {t : Timebase} (h : t.RateLaw) : t.walk.RateLaw := by
  unfold Timebase.RateLaw Timebase.walk clampRate clampInt Config.rateLimit at *
  simp only
  split <;> omega

theorem Timebase.RateLaw.countScheduler {t : Timebase} (h : t.RateLaw) : t.countScheduler.RateLaw := by
  unfold Timebase.countScheduler
  split
  · split
    · exact h.walk
    · exact h
  · exact h

theorem Timebase.RateLaw.applyRate {t : Timebase} (h : t.RateLaw) (stepped : Bool) (a : RateArgs) :
    (t.applyRate stepped a).RateLaw := by
  have h' : (t.storeRateSettings a).RateLaw := h
  unfold Timebase.applyRate
  simp only
  split
  · exact h'
  · unfold Timebase.RateLaw Timebase.setStepped Timebase.setImmediate clampRate clampInt Config.rateLimit at *
    split
    · split <;> simp only at h' ⊢ <;> omega
    · simp only at h' ⊢; omega

end Sys2Proof.Machine
end

