-- ==== Sys2Proof/Laws/Events.lean ====
section
/-! SUPPORT. Every operation of the block boundary and of an arriving frame is a row of moves. -/

namespace Sys2Proof.Machine

/-! ### Unseating, freeing, HOLDOVER -/

section Shared

variable (s : State)

theorem Moves.freeRecord (c : Fin 128) : Moves s (s.freeRecord c) := (Move.free c).moves

theorem Moves.unseatCircuit (c : Fin 128) : Moves s (s.unseatCircuit c) := by
  have arm (hs : (s.circuit c).state ≠ .free) :
      Moves s (s.setCircuit c { s.circuit c with state := .armed, hold := (s.circuit c).holdInit }) := by
    refine .modCircuit s c (fun x => { x with state := .armed, hold := x.holdInit })
      ⟨?_, rfl, rfl, rfl, fun h => h.congr rfl rfl, fun h _ => ?_⟩
    · simp [hs]
    · have := (h hs).1
      simp
      omega
  simp only [State.unseatCircuit]
  split <;> rename_i hs
  · exact arm (by simp [hs])
  · exact arm (by simp [hs])
  · exact .freeRecord s c
  · exact .refl s
  · exact .refl s
  · exact .refl s

theorem Moves.unseat (v : Fin 24) (ho : (s.venue v).isOpen = true) : Moves s (s.unseat v) := by
  simp only [State.unseat]
  refine (Moves.modCircuits s _ _ CircuitMove.clearWindow).trans ((Moves.flush _ v).trans
    (.trans (Moves.modVenue _ v _ ?_) (Moves.foldl (fun t c => .unseatCircuit t c) _ _)))
  refine ⟨?_, rfl, rfl, rfl, rfl, fun h => h.unseat, id, id⟩
  have h1 : ((s.modCircuits (s.venue v).circuits Circuit.clearWindow).flush v).venue v =
      { ((s.modCircuits (s.venue v).circuits Circuit.clearWindow).flush v).venue v with state := (s.venue v).state } := by
    simp [State.flush]
  rw [h1]
  simp only [Venue.isOpen] at ho ⊢
  rw [ho]; rfl

theorem Moves.freeCircuit (c : Fin 128) : Moves s (s.freeCircuit c) := by
  simp only [State.freeCircuit]
  split
  · exact .freeRecord s c
  · split
    · next v _ h =>
      simp only [Bool.and_eq_true] at h
      exact (Moves.freeRecord s c).trans (.unseat _ v (Venue.seated_isOpen _ h.1))
    · exact .freeRecord s c

theorem Moves.enterHoldover (v : Fin 24) (ho : (s.venue v).isOpen = true) : Moves s (s.enterHoldover v) := by
  simp only [State.enterHoldover]
  refine .trans (Moves.modVenue s v _ ⟨?_, rfl, rfl, rfl, rfl, fun h => h.enterHoldover, id, id⟩) (.flush _ v)
  exact ho.symm

theorem Moves.holdoverIfPathless (v : Fin 24) : Moves s (s.holdoverIfPathless v) := by
  simp only [State.holdoverIfPathless]
  split
  · next h =>
    refine .enterHoldover s v ?_
    simp at h
    simp [Venue.isOpen, h]
  · exact .refl s

/-- A circuit of state other than FREE that stays so makes a move when its laws are kept. -/
theorem VenueMove.quiet {x y : Venue} (h1 : y.state = x.state) (h2 : y.key = x.key) (h3 : y.circuits = x.circuits)
    (h4 : y.lane.enable = x.lane.enable) (h5 : y.lane.state = x.lane.state)
    (h6 : x.timebase.RateLaw → y.timebase.RateLaw) (h7 : y.recovery.length ≤ x.recovery.length)
    (h8 : y.announced = x.announced) : VenueMove x y :=
  ⟨by simp [Venue.isOpen, h1], h2, h3, h4, h5, h6, fun h => h7.trans h, fun h => by rw [h8]; exact h⟩

end Shared

/-! ### Transmission -/

theorem Port.submit_queue (pt : Port) (f : TxFrame) (h : pt.queue.length ≤ 128) :
    (pt.submit f).queue.length ≤ 128 := by
  unfold Port.submit
  split
  · next hc =>
    have := (Bool.and_eq_true_iff.1 hc).2
    have := of_decide_eq_true this
    simp only [Config.transmitDepth] at this
    simp only [List.length_append, List.length_singleton]
    omega
  · exact h

theorem Moves.submitCopy (s : State) (v : Fin 24) (o : VctOut) (p : PathId) : Moves s (s.submitCopy v o p) := by
  simp only [State.submitCopy]
  split
  · split
    · refine Moves.ports rfl fun q hq => ?_
      next i _ _ _ _ _ =>
      show ((s.modPort i fun pt => pt.submit _).port q).queue.length ≤ 128
      rw [State.modPort_eq, State.setPort_port_eq_ite]
      split
      · next e => subst e; exact Port.submit_queue _ _ hq
      · exact hq
    · exact .refl s
  · exact .refl s

theorem Moves.submit (s : State) (v : Fin 24) (o : VctOut) : Moves s (s.submit v o) :=
  (Moves.submitCopy s v o .a).trans (.submitCopy _ v o .b)

/-! ### Recovery -/

theorem insertEntry_length (nr : FrameNo) (e : RecoveryEntry) (l : List RecoveryEntry) :
    (insertEntry nr e l).length = l.length + 1 := by
  induction l with
  | nil => rfl
  | cons x xs ih => unfold insertEntry; split <;> simp [ih]

section Recovery

variable (s : State) (v : Fin 24)

theorem Moves.enterGap (c : Fin 128) (p : Fin 4) (n : FrameNo) : Moves s (s.enterGap v c p n) := by
  simp only [State.enterGap]
  split
  · exact .refl s
  · split
    · next hl =>
      refine Moves.modVenue s v _ ⟨rfl, rfl, rfl, rfl, rfl, id, fun _ => ?_, id⟩
      simp only [insertEntry_length]
      simp [Config.recoveryDepth] at hl
      omega
    · exact .report s v _

theorem Moves.enterGaps (c : Fin 128) (p : Fin 4) (ns : List FrameNo) : Moves s (s.enterGaps v c p ns) :=
  Moves.foldl (fun t n => .enterGap t v c p n) ns s

theorem VenueMove.settle (ve : Venue) (c : Fin 128) (n : FrameNo) (r : Bool) : VenueMove ve (ve.settle c n r) := by
  unfold Venue.settle
  split
  · exact .quiet rfl rfl rfl rfl rfl id (List.length_filter_le _ _) rfl
  · exact .quiet rfl rfl rfl rfl rfl id (le_refl _) rfl

theorem Moves.requestPass : Moves s (s.requestPass v) := by
  simp only [State.requestPass]
  split
  · split
    · exact .refl s
    · refine .trans (.trans (Moves.reports s v _) (Moves.modVenue _ v _ ?_))
        (Moves.foldl (fun t es => .submit t v _) _ _)
      refine .quiet rfl rfl rfl rfl rfl id ?_ rfl
      simp only [State.reports_venue_recovery, List.length_map]
      exact List.length_filter_le _ _
  · exact .refl s

end Recovery

/-! ### Arrivals -/

section Arrivals

variable (s : State) (v : Fin 24) (c : Fin 128) (a : Arrival)

theorem Moves.unmatched : Moves s (s.unmatched v c a) := by
  unfold State.unmatched
  split
  · exact .report s v _
  · exact .refl s

theorem Moves.detectGaps (old : Option FrameNo) : Moves s (s.detectGaps v c a old) := by
  simp only [State.detectGaps]
  split
  · split
    · split
      · exact (Moves.report s v _).trans (.enterGaps _ v c a.port _)
      · exact .enterGaps s v c a.port _
    · exact .refl s
  · exact .refl s

theorem Moves.settleStore : Moves s (s.settleStore v c a) := by
  unfold State.settleStore
  split
  · exact .modVenue s v _ (.settle _ c a.frame a.repair)
  · exact .unmatched s v c a

theorem Moves.storeFrame : Moves s (s.storeFrame v c a) := by
  simp only [State.storeFrame]
  refine .trans (Moves.modCircuit s c _ (.store _ _ _ _)) (.trans (Moves.modVenue _ v _ ?_)
    ((Moves.detectGaps _ v c a _).trans (.settleStore _ v c a)))
  exact .quiet rfl rfl rfl rfl rfl id (le_refl _) rfl

theorem Moves.place : Moves s (s.place v c a) := by
  unfold State.place
  split
  · refine .trans (.trans ?_ (.report _ v _)) (.unmatched _ v c a)
    exact .modCircuit s c _ (.quiet rfl rfl rfl rfl rfl rfl rfl)
  · exact .storeFrame s v c a

theorem Moves.seatVenue (n : FrameNo) : Moves s (s.seatVenue v n) := by
  simp only [State.seatVenue]
  refine .trans (.trans ?_ (.modCircuits _ _ _ CircuitMove.clearWindow)) (.flush _ v)
  exact .modVenue s v _ (.quiet rfl rfl rfl rfl rfl (fun h => h.seat n _) (le_refl _) rfl)

theorem Moves.reseat : Moves s (s.reseat v c a) := by
  simp only [State.reseat]
  refine .trans (.trans (.trans (.seatVenue s v a.frame) ?_) (.report _ v _)) (.storeFrame _ v c a)
  exact .modCircuits _ _ _ fun x => .quiet rfl rfl rfl rfl rfl rfl rfl

theorem Moves.misplaced (isLate : Bool) : Moves s (s.misplaced v c a isLate) := by
  simp only [State.misplaced]
  split
  · exact .reseat s v c a
  · split
    · have h : Moves s (((s.modCircuit c fun x => { x with late := satInc x.late }).report v
          (a.report .late (some c))).modVenue v Venue.countLate) :=
        .trans (Moves.modCircuit s c _ (.quiet rfl rfl rfl rfl rfl rfl rfl))
          ((Moves.report _ v _).trans (.modVenue _ v _ (.quiet rfl rfl rfl rfl rfl id (le_refl _) rfl)))
      split
      · exact h.trans (.reseat _ v c a)
      · exact h.trans (.unmatched _ v c a)
    · have h : Moves s ((s.report v (a.report .ahead (some c))).modVenue v Venue.countAhead) :=
        (Moves.report s v _).trans (.modVenue _ v _ (.quiet rfl rfl rfl rfl rfl id (le_refl _) rfl))
      split
      · exact h.trans (.reseat _ v c a)
      · exact h.trans (.unmatched _ v c a)

theorem Moves.maskFrame : Moves s (s.maskFrame v c a) :=
  .trans (Moves.modCircuit s c _ (.quiet rfl rfl rfl rfl rfl rfl rfl)) (.report _ v _)

theorem Moves.arrive : Moves s (s.arrive v a) := by
  unfold State.arrive
  split
  · exact .report s v _
  · exact .refl s
  · split
    · exact .maskFrame s v _ a
    · split
      · exact .report s v _
      · split
        · exact .misplaced s v _ a true
        · exact .misplaced s v _ a false
        · exact .place s v _ a

theorem State.seatVenue_open (n : FrameNo) (w : Fin 24) :
    ((s.seatVenue v n).venue w).state = (s.venue w).state := by
  simp only [State.seatVenue]
  by_cases h : w = v
  · subst h; simp [State.flush]
  · simp [State.flush_venue_of_ne _ _ _ h, State.setVenue_venue_of_ne _ _ _ _ h]

theorem Moves.missStep : Moves s (s.missStep v) := .outside rfl rfl rfl rfl rfl rfl

theorem Moves.firstSeat (ho : (s.venue v).isOpen = true) : Moves s (s.firstSeat v c a) := by
  unfold State.firstSeat
  refine (Moves.missStep s v).trans ((Moves.seatVenue _ v a.frame).trans
    (.trans (Moves.modVenue _ v _ ?_) (.storeFrame _ v c a)))
  refine ⟨?_, rfl, rfl, rfl, rfl, id, id, id⟩
  have ho' : ((s.missStep v).venue v).isOpen = true := ho
  simp only [Venue.isOpen, State.seatVenue_open] at ho' ⊢
  rw [ho']; rfl

theorem Moves.arriveWaiting (ho : (s.venue v).isOpen = true) : Moves s (s.arriveWaiting v a) := by
  unfold State.arriveWaiting
  split
  · exact .report s v _
  · split
    · exact .maskFrame s v _ a
    · split
      · exact .report s v _
      · split
        · exact .firstSeat s v _ a ho
        · exact .firstSeat s v _ a ho
        · exact .firstSeat s v _ a ho
        · exact .refl s
        · exact .refl s
        · exact .refl s

theorem judgeEntry_length (l : List Announced) (e : Nat × Nat × Nat) (h : l.length ≤ 8) :
    (judgeEntry l e).1.length ≤ 8 := by
  unfold judgeEntry
  split
  · exact h
  · split
    · exact h
    · split
      · exact h
      · split
        · next hl => simp [Config.circuitsPerVenue] at hl ⊢; omega
        · exact h

theorem buildAnnounced_length (es : List (Nat × Nat × Nat)) : (buildAnnounced es).1.length ≤ 8 := by
  unfold buildAnnounced
  have : ∀ (acc : List Announced × Nat), acc.1.length ≤ 8 → (es.foldl (fun acc e =>
      ((judgeEntry acc.1 e).1, if (judgeEntry acc.1 e).2 then acc.2 + 1 else acc.2)) acc).1.length ≤ 8 := by
    induction es with
    | nil => exact fun _ h => h
    | cons e es ih => exact fun acc h => ih _ (judgeEntry_length acc.1 e h)
  exact this _ (by simp)

theorem Moves.announce (p : Fin 4) (f : VctIn) : Moves s (s.announce v p f) := by
  simp only [State.announce]
  refine .trans ?_ (.reports _ v _)
  exact .modVenue s v _ ⟨rfl, rfl, rfl, rfl, rfl, id, id, fun _ => buildAnnounced_length _⟩

theorem Moves.handOn (p : Fin 4) (f : VctIn) (ho : (s.venue v).isOpen = true) : Moves s (s.handOn v p f) := by
  simp only [State.handOn]
  split
  · split
    · exact .arrive s v _
    · exact .arriveWaiting s v _ ho
  · exact .announce s v p f

theorem Venue.leaveHoldover_isOpen (ve : Venue) : ve.leaveHoldover.isOpen = ve.isOpen := by
  unfold Venue.leaveHoldover
  split
  · next h => simp only [Venue.isOpen, h]; decide
  · rfl

theorem VenueMove.leaveHoldover (ve : Venue) : VenueMove ve ve.leaveHoldover := by
  refine ⟨Venue.leaveHoldover_isOpen ve, ?_, ?_, ?_, ?_, ?_, ?_, ?_⟩ <;> unfold Venue.leaveHoldover <;>
    (split <;> first | rfl | exact id)

theorem VenueMove.setPath (ve : Venue) (p : PathId) (x : Path) : VenueMove ve (ve.setPath p x) := by
  cases p <;> exact .quiet rfl rfl rfl rfl rfl id (le_refl _) rfl

theorem VenueMove.trans {x y z : Venue} (h1 : VenueMove x y) (h2 : VenueMove y z) : VenueMove x z :=
  ⟨h2.isOpen.trans h1.isOpen, h2.key.trans h1.key, h2.circuits.trans h1.circuits, h2.enable.trans h1.enable,
    h2.laneState.trans h1.laneState, fun h => h2.rates (h1.rates h), fun h => h2.recovery (h1.recovery h),
    fun h => h2.announced (h1.announced h)⟩

theorem Moves.modPort (p : Fin 4) (f : Port → Port)
    (h : (s.port p).queue.length ≤ 128 → (f (s.port p)).queue.length ≤ 128) : Moves s (s.modPort p f) := by
  refine Moves.ports rfl fun q hq => ?_
  rw [State.modPort_eq, State.setPort_port_eq_ite]
  split
  · next e => subst e; exact h hq
  · exact hq

theorem State.venueOfKey_open {s : State} {k : BitVec 16} {v : Fin 24} (h : s.venueOfKey k = some v) :
    (s.venue v).isOpen = true ∧ (s.venue v).key = k := by
  have := List.find?_some h
  simpa using this

theorem Moves.takeVct (p : Fin 4) (f : VctIn) : Moves s (s.takeVct p f) := by
  simp only [State.takeVct]
  split
  · exact .modPort s p _ id
  · next v hv =>
    have hp : Moves s (s.modPort p fun pt => { pt with taken := satInc pt.taken }) := .modPort s p _ id
    split
    · exact hp.trans (.report _ v _)
    · next path _ =>
      refine hp.trans (.trans (Moves.modVenue _ v _ ((VenueMove.setPath _ path _).trans (.leaveHoldover _)))
        (.handOn _ v p f ?_))
      simp only [State.modVenue_eq, State.setVenue_venue, Venue.leaveHoldover_isOpen]
      have := (State.venueOfKey_open hv).1
      simpa [Venue.isOpen] using this

theorem Moves.receive (p : Fin 4) (rx : RxFrame) : Moves s (s.receive p rx) := by
  unfold State.receive
  split
  · exact .refl s
  · split <;> first | exact .refl s | exact .modPort s p _ id | exact .takeVct s p _

theorem Moves.pathTimeout (p : PathId) : Moves s (s.pathTimeout v p) := by
  simp only [State.pathTimeout]
  split
  · exact .trans (Moves.modVenue s v _ (.setPath _ p _)) ((Moves.report _ v _).trans (.holdoverIfPathless _ v))
  · exact .refl s

end Arrivals

/-! ### The venue step -/

section VenueStep

variable (s : State) (v : Fin 24)

theorem Moves.expireEntries (n : FrameNo) : Moves s (s.expireEntries v n) := by
  simp only [State.expireEntries]
  refine (Moves.reports s v _).trans (.modVenue _ v _ (.quiet rfl rfl rfl rfl rfl id ?_ rfl))
  exact List.length_filter_le _ _

theorem Moves.frameAdvance (l e : FrameNo) : Moves s (s.frameAdvance v l e) := by
  simp only [State.frameAdvance]
  exact (Moves.modCircuits s _ _ fun x => .consume x l).trans
    ((Moves.modCircuits _ _ _ fun x => .enter x e).trans (.expireEntries _ v e))

theorem Moves.advanceStep : Moves s (s.advanceStep v) := by
  simp only [State.advanceStep]
  split
  · exact .refl s
  · next ph _ =>
    have h : Moves s (s.modVenue v fun ve => ve.modTimebase fun tb =>
        { tb with phase := some (ph.step (s.venue v).timebase.rhoEff) }) :=
      .modVenue s v _ (.quiet rfl rfl rfl rfl rfl id (le_refl _) rfl)
    split
    · exact h
    · exact h.trans (.frameAdvance _ v _ _)

theorem Moves.playSteps (n : Nat) : Moves s (State.playSteps v n s).1 := by
  induction n generalizing s with
  | zero => exact .refl s
  | succ n ih => exact (Moves.advanceStep s v).trans (ih _)

theorem Slot.stage_sources (sl : Slot) (cs : List (Fin 128)) (rows : List PlayRow) (b : BlockCount) :
    (sl.stage cs rows b).source = sl.source ∧ (sl.stage cs rows b).stack = sl.stack := by
  unfold Slot.stage
  split
  · exact ⟨rfl, rfl⟩
  · split <;> exact ⟨rfl, rfl⟩

theorem Moves.stageRows (cs : List (Fin 128)) (rows : List PlayRow) : Moves s (s.stageRows cs rows) :=
  (Move.outside (s := s) (s.stageRows cs rows) rfl rfl rfl rfl (fun i => by
    simp [State.stageRows, State.slot, Slot.stage_sources]) fun _ h => h).moves

theorem Moves.waitNext (t : State) (c : Fin 128) : Moves t (t.waitNext s c) :=
  (Move.outside (s := t) (t.waitNext s c) rfl rfl rfl rfl (fun i => by
    rw [State.waitNext_slot]; split <;> exact ⟨rfl, rfl⟩) fun _ h => h).moves

theorem Moves.fadeStep (c : Fin 128) : Moves s (s.fadeStep c) := by
  simp only [State.fadeStep]
  split
  · have h : Moves s (s.setCircuit c { s.circuit c with fade := (s.circuit c).fade - 1 }) :=
      .modCircuit s c (fun x => { x with fade := x.fade - 1 }) (.quiet rfl rfl rfl rfl rfl rfl rfl)
    split
    · exact (h.trans (.freeCircuit _ c)).trans (.waitNext s _ c)
    · exact h
  · exact .refl s

theorem Moves.stageAdvance : Moves s (s.stageAdvance v) := by
  simp only [State.stageAdvance]
  exact (Moves.playSteps s v 48).trans ((Moves.stageRows _ _ _).trans (Moves.foldl (fun t c => .fadeStep t c) _ _))

theorem VenueMove.takeMargin (ve : Venue) : VenueMove ve ve.takeMargin := by
  unfold Venue.takeMargin
  split <;> exact .quiet rfl rfl rfl rfl rfl id (le_refl _) rfl

theorem VenueMove.completeInterval (ve : Venue) : VenueMove ve ve.completeInterval := by
  unfold Venue.completeInterval
  split
  · exact .quiet rfl rfl rfl rfl rfl (fun h => h.intervalUpdate _) (le_refl _) rfl
  · exact .quiet rfl rfl rfl rfl rfl id (le_refl _) rfl

theorem VenueMove.countScheduler (ve : Venue) : VenueMove ve ve.countScheduler := by
  unfold Venue.countScheduler
  split
  · exact .quiet rfl rfl rfl rfl rfl (fun h => h.countScheduler) (le_refl _) rfl
  · exact .quiet rfl rfl rfl rfl rfl id (le_refl _) rfl

theorem Moves.venueStep : Moves s (s.venueStep v) := by
  unfold State.venueStep
  split
  · exact (Moves.stageAdvance s v).trans (.modVenue _ v _
      ((VenueMove.takeMargin _).trans ((VenueMove.completeInterval _).trans (.countScheduler _))))
  · exact .refl s

end VenueStep

/-! ### The other works of a boundary -/

section Works

variable (s : State)

theorem Moves.holdoverCount (v : Fin 24) : Moves s (s.holdoverCount v) := by
  unfold State.holdoverCount
  split
  · next h =>
    refine .unseat s v ?_
    simp [State.lossExpires, State.holdoverCounts] at h
    simp [Venue.isOpen, h]
  · split
    · exact .modVenue s v _ (.quiet rfl rfl rfl rfl rfl id (le_refl _) rfl)
    · exact .refl s

theorem Moves.announceAge (v : Fin 24) : Moves s (s.announceAge v) := by
  unfold State.announceAge
  split
  · exact .modVenue s v _ ⟨rfl, rfl, rfl, rfl, rfl, id, id, fun _ => by simp⟩
  · split
    · exact .modVenue s v _ (.quiet rfl rfl rfl rfl rfl id (le_refl _) rfl)
    · exact .refl s

theorem Moves.terminalCount (c : Fin 128) (hs : (s.circuit c).state = .concealing) :
    Moves s (s.terminalCount c) := by
  simp only [State.terminalCount]
  have h : Moves s (s.modCircuit c Circuit.terminal) := .modCircuit s c _ (.terminal hs)
  split
  · exact h
  · exact h.trans (.modVenue _ _ _ (.quiet rfl rfl rfl rfl rfl id (List.length_filter_le _ _) rfl))

theorem Moves.holdoverCountdown (c : Fin 128) : Moves s (s.holdoverCountdown c) := by
  unfold State.holdoverCountdown
  split
  · next h =>
    refine .terminalCount s c ?_
    simp [State.terminates] at h
    exact h.1
  · next ht =>
    split
    · next hs =>
      refine .modCircuit s c _ ⟨.rfl, rfl, rfl, rfl, fun h => h.congr rfl rfl, fun h => ?_⟩
      simp [State.terminates, hs] at ht
      have := h (by rw [hs]; simp)
      intro _
      simp [hs] at this ⊢
      omega
    · exact .refl s

/-- Changing every venue record at once by a move each. -/
theorem Moves.allVenues (f : Fin 24 → Venue → Venue) (h : ∀ v x, VenueMove x (f v x)) {t : State}
    (eq : t = { s with venues := t.venues }) (ht : ∀ v, t.venue v = f v (s.venue v)) : Moves s t := by
  obtain ⟨e1, e2⟩ := State.foldl_modVenue f Machine.allVenues (List.nodup_finRange 24) s
  have hm : Moves s (Machine.allVenues.foldl (fun t v => t.modVenue v (f v)) s) :=
    Moves.foldl (fun t v => .modVenue t v _ (h v _)) _ _
  generalize Machine.allVenues.foldl (fun t v => t.modVenue v (f v)) s = u at e1 e2 hm
  have hv : t.venues = u.venues := by
    refine Vector.ext fun i hi => ?_
    have h2 := e2 ⟨i, hi⟩
    rw [if_pos (show (⟨i, hi⟩ : Fin 24) ∈ Machine.allVenues from List.mem_finRange _)] at h2
    exact (ht ⟨i, hi⟩).trans h2.symm
  rw [eq, hv, ← e1]
  exact hm

theorem Moves.windowRestart : Moves s s.windowRestart := by
  refine .allVenues s (fun _ ve => if ve.isOpen then ve.modHealth fun h => { h with windowCount := 0 } else ve)
    (fun v x => ?_) rfl fun v => ?_
  · split <;> exact .quiet rfl rfl rfl rfl rfl id (le_refl _) rfl
  · simp only [State.windowRestart, State.venue, Fin.getElem_fin, Vector.getElem_map]
    rfl

/-- What a lane's state says of its enable and of who asks for it (R135, R138): `State.LaneOk` of the parts. -/
def LaneState.Stands (enable : Bool) (asks : Fin 16 → Bool) : LaneState → Prop
  | .idle => True
  | .held n => enable = true ∧ asks n = true
  | .gap g => enable = true ∧ 1 ≤ g ∧ g ≤ 2

theorem State.laneOk_iff {s : State} {v : Fin 24} :
    s.LaneOk v ↔ (s.venue v).lane.state.Stands (s.venue v).lane.enable (s.asks v) := by
  unfold State.LaneOk LaneState.Stands
  rfl

theorem Lane.arbitrate_stands {l : Lane} (m : ArbiterMode) (asks : Fin 16 → Bool) (he : l.enable = true) :
    (l.arbitrate m asks).state.Stands l.enable asks := by
  rcases Lane.arbitrate_cases l m asks with ⟨n, hn, e⟩ | ⟨_, e⟩ <;> rw [e]
  · exact ⟨he, hn⟩
  · trivial

/-- A held lane keeps its holder only while the source asks for it (R135, R137). -/
theorem Lane.turn_stands {l : Lane} {m : ArbiterMode} {keyed asks was : Fin 16 → Bool}
    (hk : ∀ n, asks n = (keyed n && was n)) (h : l.state.Stands l.enable was) :
    (l.turn m keyed asks).state.Stands l.enable asks := by
  unfold Lane.turn
  cases hs : l.state with
  | idle =>
    simp only
    by_cases he : l.enable = true
    · rw [if_pos he]; exact Lane.arbitrate_stands m asks he
    · rw [if_neg he, hs]; trivial
  | held n =>
    rw [hs] at h
    simp only
    by_cases hc : (l.enable && !keyed n) = true
    · rw [if_pos hc]; exact ⟨h.1, by decide, by decide⟩
    · rw [if_neg hc, hs]
      have : keyed n = true := by simpa [h.1] using hc
      exact ⟨h.1, by rw [hk, this, h.2]; rfl⟩
  | gap g =>
    rw [hs] at h
    obtain ⟨h1, h2, h3⟩ := h
    simp only
    by_cases hg : g ≤ 1
    · rw [if_pos hg]; exact Lane.arbitrate_stands m asks h1
    · rw [if_neg hg]; exact ⟨h1, by omega, by omega⟩

@[simp] theorem Lane.turn_enable (l : Lane) (m : ArbiterMode) (k a : Fin 16 → Bool) :
    (l.turn m k a).enable = l.enable := by
  unfold Lane.turn
  split
  · split <;> rfl
  · split <;> simp
  · split <;> simp

theorem State.turnLanes_venue (s : State) (v : Fin 24) : s.turnLanes.venue v =
    (s.venue v).modLane fun l => l.turn s.arbiter (fun n => (s.source n).keyed) (s.asks v) := by
  simp only [State.turnLanes, State.venue, Fin.getElem_fin, Vector.getElem_ofFn]

theorem State.turnLanes_source (s : State) (n : Fin 16) : s.turnLanes.source n = s.source n := by
  simp only [State.turnLanes, State.source]

theorem State.sampleKeys_source (s : State) (n : Fin 16) :
    s.sampleKeys.source n = (s.source n).sample (s.keyLow.getLsbD n.val) := by
  simp only [State.sampleKeys, State.source, Fin.getElem_fin, Vector.getElem_ofFn]

@[simp] theorem Source.sample_targets (x : Source) (b : Bool) : (x.sample b).targets = x.targets := by
  unfold Source.sample Source.countKey; split <;> rfl

theorem State.sampleKeys_asks (s : State) (v : Fin 24) (n : Fin 16) : s.sampleKeys.asks v n =
    ((s.sampleKeys.source n).keyed && (s.source n).targets.getLsbD v.val) := by
  unfold State.asks Source.wants
  rw [show (s.sampleKeys.source n).targets = (s.source n).targets by
    rw [State.sampleKeys_source, Source.sample_targets]]

theorem State.turned_venue (s : State) (v : Fin 24) : s.sampleKeys.turnLanes.venue v =
    (s.venue v).modLane fun l =>
      l.turn s.arbiter (fun n => (s.sampleKeys.source n).keyed) (s.sampleKeys.asks v) :=
  State.turnLanes_venue s.sampleKeys v

theorem State.turned_targets (s : State) (n : Fin 16) :
    (s.sampleKeys.turnLanes.source n).targets = (s.source n).targets := by
  rw [State.turnLanes_source, State.sampleKeys_source, Source.sample_targets]

theorem LaneLaw.turn (h : LaneLaw s) : LaneLaw s.sampleKeys.turnLanes := by
  obtain ⟨h1, h2, h3⟩ := h
  refine ⟨fun n v hb => ?_, fun v he => ?_, fun v => ?_⟩
  · rw [State.turned_venue]
    rw [State.turned_targets] at hb
    exact h1 n v hb
  · rw [State.turned_venue] at he ⊢
    rw [Venue.modLane_lane, Lane.turn_enable] at he
    exact h2 v he
  · have h := State.laneOk_iff.1 (h3 v)
    rw [State.laneOk_iff, State.turned_venue, Venue.modLane_lane, Lane.turn_enable,
      show s.sampleKeys.turnLanes.asks v = s.sampleKeys.asks v by
        funext n; unfold State.asks; rw [State.turnLanes_source]]
    refine Lane.turn_stands (was := fun n => (s.source n).targets.getLsbD v.val)
      (fun n => State.sampleKeys_asks s v n) ?_
    revert h
    cases (s.venue v).lane.state with
    | idle => exact id
    | gap g => exact id
    | held n =>
      rintro ⟨g1, g2⟩
      simp only [State.asks, Source.wants, Bool.and_eq_true] at g2
      exact ⟨g1, g2.2⟩

theorem Moves.turn : Moves s s.sampleKeys.turnLanes := by
  have he : s.sampleKeys.turnLanes = { s with
      venues := s.sampleKeys.turnLanes.venues, sources := s.sampleKeys.turnLanes.sources } := by
    simp only [State.turnLanes, State.sampleKeys]
  exact (Move.lanes _ he (fun v => by rw [State.turned_venue]; rfl) (LaneLaw.turn s)).moves

theorem Moves.sendFoldback (v : Fin 24) : Moves s (s.sendFoldback v) := by
  unfold State.sendFoldback
  split
  · refine .trans ?_ (Moves.submit (s.modVenue v _) v _)
    exact .modVenue s v _ (.quiet rfl rfl rfl rfl rfl id (le_refl _) rfl)
  · exact .refl s

theorem VenueMove.buffer (ve : Venue) (r : Vector BlockSamples 32) :
    VenueMove ve (ve.modLane fun l => if l.enable then { l with half := l.block r } else l) := by
  refine .quiet (h4 := ?_) (h5 := ?_) rfl rfl rfl id (Nat.le_refl _) rfl
  · rw [Venue.modLane_lane]; split <;> rfl
  · rw [Venue.modLane_lane]; split <;> rfl

theorem State.bufferLanes_venue (s : State) (v : Fin 24) : s.bufferLanes.venue v =
    (s.venue v).modLane fun l => if l.enable then { l with half := l.block s.returnBlock } else l := by
  unfold State.bufferLanes State.venue
  simp only [Fin.getElem_fin, Vector.getElem_ofFn]

theorem Moves.bufferLanes : Moves s s.bufferLanes :=
  Moves.allVenues s _ (fun _ x => VenueMove.buffer x s.returnBlock) (t := s.bufferLanes)
    (by unfold State.bufferLanes; rfl) (State.bufferLanes_venue s)

theorem Moves.foldbackStep : Moves s s.foldbackStep := by
  unfold State.foldbackStep
  extract_lets t
  split
  · exact (Moves.turn s).trans (.bufferLanes t)
  · exact (Moves.turn s).trans (Moves.foldl (fun t v => .sendFoldback t v) _ t)

theorem Moves.takeWork (w : Work) : Moves s (s.takeWork w) := by
  cases w with
  | pathTimeout v p => exact .pathTimeout s v p
  | holdoverCount v => exact .holdoverCount s v
  | announceAge v => exact .announceAge s v
  | venueStep v => exact .venueStep s v
  | holdoverCountdown c => exact .holdoverCountdown s c
  | requestPass v => exact .requestPass s v
  | foldbackStep => exact .foldbackStep s
  | windowRestart => exact .windowRestart s

theorem Moves.takeWorks (ws : List Work) : Moves s (s.takeWorks ws) := Moves.foldl (fun t w => .takeWork t w) ws s

theorem Moves.beginBlock (a : BoundaryArgs) : Moves s (s.beginBlock a) :=
  (Move.outside (s := s) (s.beginBlock a) rfl rfl rfl rfl (fun i => by
    simp [State.beginBlock, State.turnover, State.slot]) fun _ h => h).moves

theorem Moves.boundary (a : BoundaryArgs) : Moves s (s.boundary a) := by
  simp only [State.boundary]
  refine .trans (.trans (.trans ?_ (.beginBlock s.finishDue a)) ?_) (.takeWorks _ _)
  · refine .trans ?_ (.takeWorks _ _)
    exact .outside rfl rfl rfl rfl rfl rfl
  · exact .outside rfl rfl rfl rfl rfl rfl

theorem Moves.takeDue (w : Work) (b : Bool) : Moves s (s.takeDue w b) := by
  unfold State.takeDue
  split
  · refine .trans ?_ (.takeWork _ w)
    exact .outside rfl rfl rfl rfl rfl rfl
  · exact .refl s

theorem Moves.idle : Moves s s.idle := by
  unfold State.idle
  split
  · exact .refl s
  · refine .trans ?_ (.takeWork _ _)
    exact .outside rfl rfl rfl rfl rfl rfl

end Works

end Sys2Proof.Machine
end

