-- ==== Sys2Proof/Laws/Commands.lean ====
section
/-! SUPPORT. Every command is a row of moves: `step_moves` at the end says it of a step. -/

namespace Sys2Proof.Machine

/-! ### Answers -/

/-- An answer that leaves its state, if it leaves one, by moves. -/
def Answer.Reaches (s : State) : Answer → Prop
  | .refuse _ => True
  | .ok _ _ t => Moves s t

theorem Answer.Reaches.refuseIf {s : State} {bad : Bool} {r : Result} {go : Answer}
    (h : bad = false → go.Reaches s) : (Machine.refuseIf bad r go).Reaches s := by
  cases bad
  · exact h rfl
  · trivial

theorem Answer.Reaches.orBadReference {s : State} {α : Type} {found : Option α} {go : α → Answer}
    (h : ∀ a, found = some a → (go a).Reaches s) : (Machine.orBadReference found go).Reaches s := by
  cases found with
  | none => trivial
  | some a => exact h a rfl

/-- An outcome that is a next state reached by moves. -/
def Reached (s : State) (o : Outcome) : Prop := ∀ t, o = .next t → Moves s t

theorem Reached.next {s t : State} (h : Moves s t) : Reached s (.next t) := fun _ e => by
  cases e; exact h

theorem Reached.ite {s t u : State} {c : Prop} [Decidable c] (h : Moves s t) (g : Moves s u) :
    Reached s (.next (if c then t else u)) := by
  refine .next ?_
  split
  · exact h
  · exact g

theorem Reached.request {x : Transfer} {code : Byte} {handler : State → Answer} {s : State}
    (h : (handler s).Reaches s) : Reached s (Machine.request x code handler s) := by
  intro t ht
  rcases request_cases x code handler s ht with ⟨_, rfl⟩ | ⟨_, r, _, rfl⟩ | ⟨_, f, body, u, hu, rfl⟩
  · exact .refl _
  · exact .outside rfl rfl rfl rfl rfl rfl
  · rw [hu] at h
    exact Moves.trans h (.outside rfl rfl rfl rfl rfl rfl)

theorem answer_reaches (body : List Byte) (s : State) : (answer body s).Reaches s := Moves.refl s

/-! ### Device commands and resets -/

theorem vector_map_get {α β : Type} {n : Nat} (xs : Vector α n) (f : α → β) (i : Fin n) :
    (xs.map f)[i] = f xs[i] := by simp

theorem State.reset_venue (v : Fin 24) : State.reset.venue v = Venue.free := by
  simp [State.reset, State.venue]

theorem State.reset_circuit (c : Fin 128) : State.reset.circuit c = Circuit.free := by
  simp [State.reset, State.circuit]

theorem State.reset_slot (i : Fin 128) : State.reset.slot i = Slot.reset := by
  simp [State.reset, State.slot]

theorem State.reset_source (n : Fin 16) : State.reset.source n = Source.reset := by
  simp [State.reset, State.source]

theorem State.reset_port (p : Fin 4) : State.reset.port p = Port.reset := by
  simp [State.reset, State.port]

theorem Moves.deviceClear (s : State) : Moves s s.deviceClear :=
  (Move.reset (s := s) s.deviceClear State.reset_venue State.reset_circuit rfl State.reset_slot State.reset_source
    fun p => by simp [State.deviceClear, State.port, Port.deviceClear]).moves

theorem Moves.hardwareReset (s : State) : Moves s s.hardwareReset :=
  (Move.reset (s := s) s.hardwareReset State.reset_venue State.reset_circuit rfl State.reset_slot State.reset_source
    fun p => by
      show (State.reset.port p).queue = []
      rw [State.reset_port]; rfl).moves

/-! ### Venue commands -/

section Venues

variable (s : State)

theorem State.keyTaken_eq_false {s : State} {k : BitVec 16} {but : Option (Fin 24)} (h : s.keyTaken k but = false) :
    ∀ w, some w ≠ but → (s.venue w).isOpen = true → (s.venue w).key ≠ k := by
  intro w hw ho hk
  simp only [State.keyTaken, List.any_eq_false] at h
  have := h w (List.mem_finRange w)
  simp [ho, hk, hw] at this

theorem Timebase.RateLaw.opened (a : VenueOpenArgs) : (openedVenue a).timebase.RateLaw := by
  have h (r : Int) : -1073741 ≤ clampRate r ∧ clampRate r ≤ 1073741 := by
    unfold clampRate clampInt Config.rateLimit
    omega
  exact ⟨h _, ⟨show (-1048576 : Int) ≤ 0 by decide, show (0 : Int) ≤ 1048576 by decide⟩, h _,
    ⟨show (-1073741 : Int) ≤ 0 by decide, show (0 : Int) ≤ 1073741 by decide⟩⟩

theorem venueOpen_reaches (a : VenueOpenArgs) : (venueOpen a s).Reaches s := by
  refine .refuseIf fun h1 => .refuseIf fun h2 => ?_
  split
  · trivial
  · next v hv =>
    have hf : (s.venue v).isOpen = false := by
      have := List.find?_some hv
      simpa using this
    have hk : a.key ≠ 0 := by
      intro e
      simp [e] at h1
    exact (Move.openVenue v _ hf rfl hk (fun w => State.keyTaken_eq_false h2 w (by simp)) rfl rfl
      (.opened a) rfl rfl).moves

theorem Moves.changeVenue (v : Fin 24) (a : VenueSetArgs) (m : Nat) (hk : a.key ≠ some 0)
    (hu : ∀ k, a.key = some k → ∀ w, w ≠ v → (s.venue w).isOpen = true → (s.venue w).key ≠ k) :
    Moves s (s.setVenue v ((s.venue v).change a m)) := by
  have same (t : State) (k : BitVec 16) (ht : t = s.setVenue v { s.venue v with key := k })
      (hk : k = a.key.getD (s.venue v).key) : Moves t (s.setVenue v ((s.venue v).change a m)) := by
    have : s.setVenue v ((s.venue v).change a m) = t.setVenue v ((s.venue v).change a m) := by
      subst ht
      simp only [State.setVenue]
      congr 1
      simp
    rw [this]
    refine (Move.venue v _ ?_).moves
    subst ht
    rw [State.setVenue_venue]
    exact ⟨rfl, hk.symm, rfl, rfl, rfl, id, id, id⟩
  cases hg : a.key with
  | none =>
    refine same s (s.venue v).key ?_ (by rw [hg]; rfl)
    exact (State.setVenue_self s v).symm
  | some k =>
    refine .trans ?_ (same _ k rfl (by rw [hg]; rfl))
    exact (Move.rekey v k (fun e => hk (by rw [hg, e])) (hu k hg)).moves

theorem venueSet_reaches (venue : Nat) (a : VenueSetArgs) : (venueSet venue a s).Reaches s := by
  refine .orBadReference fun v hv => .refuseIf fun h1 => .refuseIf fun h2 => ?_
  have h : Moves s (s.setVenue v ((s.venue v).change a (targetMax (s.windowsOf v)))) := by
    refine .changeVenue s v a _ ?_ ?_
    · intro e
      simp [venueSetBad, e] at h1
    · intro k hk w hw
      rw [hk] at h2
      exact State.keyTaken_eq_false (by simpa using h2) w (by simpa using hw)
  show Moves s (if _ then _ else _)
  split
  · exact h
  · exact h.trans (.holdoverIfPathless _ v)

theorem venueRetire_reaches (venue option : Nat) : (venueRetire venue option s).Reaches s := by
  refine .orBadReference fun v hv => .refuseIf fun h => .refuseIf fun _ => ?_
  exact (Move.closeVenue v fun _ => by simpa using h).moves

theorem State.freeAll_eq (cs : List (Fin 128)) : (s.freeAll cs).1 = cs.foldl State.freeRecord s := by
  unfold State.freeAll
  have : ∀ (t : State) (n : Nat), (cs.foldl (fun (acc : State × Nat) c =>
      (acc.1.freeRecord c, acc.2 + acc.1.references c)) (t, n)).1 = cs.foldl State.freeRecord t := by
    induction cs with
    | nil => intro t n; rfl
    | cons c cs ih => intro t n; exact ih _ _
  exact this s 0

theorem Moves.freeAll (cs : List (Fin 128)) : Moves s (s.freeAll cs).1 := by
  rw [State.freeAll_eq]
  exact Moves.foldl (fun t c => .freeRecord t c) cs s

theorem State.freeRecord_circuits_subset (c : Fin 128) (w : Fin 24) :
    ((s.freeRecord c).venue w).circuits ⊆ (s.venue w).circuits := by
  rw [State.freeRecord_venue]
  split
  · exact fun _ h => List.mem_of_mem_filter h
  · exact fun _ h => h

/-- Freeing circuits leaves FREE those that were freed and those that were FREE, and lengthens no list. -/
theorem State.freeAll_frees (cs : List (Fin 128)) :
    (∀ c, (s.circuit c).state = .free ∨ c ∈ cs → ((cs.foldl State.freeRecord s).circuit c).state = .free) ∧
    ∀ w, ((cs.foldl State.freeRecord s).venue w).circuits ⊆ (s.venue w).circuits := by
  induction cs generalizing s with
  | nil => exact ⟨fun c h => by simpa using h, fun w => fun _ h => h⟩
  | cons d cs ih =>
    obtain ⟨h1, h2⟩ := ih (s.freeRecord d)
    refine ⟨fun c h => h1 c ?_, fun w => fun x hx => s.freeRecord_circuits_subset d w (h2 w hx)⟩
    rw [State.freeRecord_circuit]
    by_cases hc : c = d
    · subst hc
      left
      split
      · rfl
      · next hn => simpa using hn
    · rcases h with h | h
      · left; rw [if_neg (by simp [hc])]; exact h
      · exact .inr (by simpa [hc] using h)

theorem venueRetireForce_reaches (venue : Nat) : (venueRetireForce venue s).Reaches s := by
  refine .orBadReference fun v hv => ?_
  refine (Moves.freeAll s _).trans (Move.closeVenue v fun ⟨_, h, _⟩ => ?_).moves
  obtain ⟨h1, h2⟩ := s.freeAll_frees (s.venue v).circuits
  rw [← State.freeAll_eq] at h1 h2
  refine List.eq_nil_iff_forall_not_mem.2 fun c hc => ((h v c).1 hc).1 (h1 c (.inr (h2 v hc)))

end Venues

/-! ### Circuit commands -/

section Circuits

variable (s : State)

theorem openedCircuit_holdLaw (a : CircuitOpenArgs) (v : Fin 24) (k : CircuitKind) (n : Nat) :
    (openedCircuit a v k n).HoldLaw := by
  intro _
  have : 1 ≤ clampOr 1 65535 (holdDefault k) a.hold := by
    unfold clampOr clampNat holdDefault
    split
    · cases k <;> decide
    · omega
  simp [openedCircuit]
  omega

theorem circuitOpen_reaches (a : CircuitOpenArgs) : (circuitOpen a s).Reaches s := by
  refine .orBadReference fun v hv => ?_
  simp only
  split
  · trivial
  · refine .refuseIf fun _ => .refuseIf fun _ => .refuseIf fun hc => ?_
    split
    · trivial
    · next c hf =>
      refine .refuseIf fun _ => ?_
      rw [Bool.or_eq_false_iff] at hc
      have hfree : (s.circuit c).state = .free := by
        have := List.find?_some hf
        simpa using this
      have hu : (openedCircuit a v (Option.getD ‹_› .commentary) ‹_›).units ≤ s.poolFree :=
        Nat.not_lt.1 (of_decide_eq_false hc.2)
      exact (Move.openCircuit v c _ hfree (State.openVenue_eq_some hv).2 (by simp [openedCircuit]) rfl (Nat.not_le.1 (of_decide_eq_false hc.1))
        hu
        (.of_empty rfl) (openedCircuit_holdLaw a v _ _)).moves

theorem CircuitMove.change (x : Circuit) (a : CircuitSetArgs) (hn : x.state ≠ .closing) : CircuitMove x (x.change a) := by
  refine ⟨.rfl, rfl, rfl, rfl, fun h => h.congr rfl rfl, fun h hs => ?_⟩
  have h := h hs
  have hi : 1 ≤ (x.change a).holdInit := by
    show 1 ≤ clampOr 1 65535 x.holdInit a.hold
    unfold clampOr clampNat
    split <;> omega
  refine ⟨hi, ?_⟩
  have hold : (x.change a).hold = if a.hold.isSome then x.reholdTo (x.change a).holdInit else x.hold := rfl
  have keep : a.hold.isSome = false → (x.change a).holdInit = x.holdInit := by
    intro e
    show clampOr 1 65535 x.holdInit a.hold = _
    cases ha : a.hold with
    | none => rfl
    | some n => rw [ha] at e; cases e
  have st : (x.change a).state = x.state := rfl
  rw [hold, st]
  cases hg : a.hold.isSome with
  | false => simp only [Bool.false_eq_true, if_false, keep hg]; exact h.2
  | true =>
    simp only [if_true]
    generalize (x.change a).holdInit = H at hi
    unfold Circuit.reholdTo
    rw [st] at hs
    cases hx : x.state <;> simp [hx] at h hs hn ⊢ <;> omega

theorem circuitSet_reaches (a : CircuitSetArgs) (ref : CircuitRef) : (circuitSet a ref s).Reaches s := by
  refine .orBadReference fun c hc => .refuseIf fun h => .refuseIf fun _ => ?_
  exact (Move.circuit c _ (.change _ a (by simpa using h))).moves

theorem circuitTrim_reaches (d : Int) (ref : CircuitRef) : (circuitTrim d ref s).Reaches s := by
  refine .orBadReference fun c hc => .refuseIf fun _ => ?_
  exact .modCircuit s c _ (.quiet rfl rfl rfl rfl rfl rfl rfl)

theorem CircuitMove.rearm (x : Circuit) : CircuitMove x x.rearm := by
  unfold Circuit.rearm
  split <;> rename_i hs <;>
    first
    | exact .quiet rfl rfl rfl rfl rfl rfl rfl
    | (refine ⟨by simp [hs], rfl, rfl, rfl, fun h => h.congr rfl rfl, fun h => ?_⟩
       have := h (by rw [hs]; simp)
       intro _
       simp [hs] at this ⊢
       omega)

theorem circuitRearm_reaches (ref : CircuitRef) : (circuitRearm ref s).Reaches s := by
  refine .orBadReference fun c hc => .refuseIf fun _ => ?_
  exact (Move.circuit c _ (.rearm _)).moves

theorem circuitRetire_reaches (ref : CircuitRef) (option : Nat) : (circuitRetire ref option s).Reaches s := by
  refine .orBadReference fun c hc => ?_
  split
  · trivial
  · exact .freeCircuit s c
  · refine .refuseIf fun _ => ?_
    split
    · next hf =>
      refine Moves.modCircuit s c _ ?_
      have hs : (s.circuit c).state = .running ∨ (s.circuit c).state = .concealing := by
        simp [Circuit.fades] at hf
        exact hf.1
      refine ⟨?_, rfl, rfl, rfl, fun h => h.congr rfl rfl, fun h => ?_⟩
      · rcases hs with e | e <;> simp [e]
      · have := h (by rcases hs with e | e <;> simp [e])
        intro _
        rcases hs with e | e <;> simp [e] at this ⊢ <;> omega
    · exact .freeCircuit s c

theorem circuitQuery_reaches (ref : CircuitRef) (clear : Nat) : (circuitQuery ref clear s).Reaches s := by
  refine .orBadReference fun c hc => ?_
  split
  · trivial
  · show Moves s _
    split
    · exact .modCircuit s c _ (.quiet rfl rfl rfl rfl rfl rfl rfl)
    · exact .refl s

end Circuits

/-! ### Port, timebase and slot commands -/

section Others

variable (s : State)

theorem Port.configure_queue (pt : Port) (a : PortSetArgs) (h : pt.queue.length ≤ 128) :
    (pt.configure a).queue.length ≤ 128 := by
  unfold Port.configure
  simp only
  split
  · exact Nat.zero_le _
  · exact h

theorem portSet_reaches (port : Nat) (a : PortSetArgs) : (portSet port a s).Reaches s := by
  refine .orBadReference fun p hp => .refuseIf fun _ => .refuseIf fun _ => .refuseIf fun _ => ?_
  exact .modPort s p _ (Port.configure_queue _ a)

theorem portQuery_reaches (port clear : Nat) : (portQuery port clear s).Reaches s := by
  refine .orBadReference fun p hp => ?_
  split
  · trivial
  · show Moves s _
    split
    · exact .modPort s p _ id
    · exact .refl s

theorem venueRate_reaches (venue : Nat) (mode : Option Nat) (a : RateArgs) : (venueRate venue mode a s).Reaches s := by
  refine .orBadReference fun v hv => .refuseIf fun _ => .refuseIf fun _ => .refuseIf fun _ => ?_
  exact .modVenue s v _ (.quiet rfl rfl rfl rfl rfl (fun h => h.applyRate _ a) (Nat.le_refl _) rfl)

theorem State.sourceOf_lives {s : State} {arg : SourceArg} {src : Option SlotSource} (h : s.sourceOf arg = some src) :
    ∀ y, src = some y → s.sourceLives y := by
  rintro y rfl
  unfold State.sourceOf at h
  split at h
  · cases h
  · next r ch =>
    obtain ⟨c, hc, h⟩ := Option.bind_eq_some_iff.1 h
    split at h
    · next hl =>
      cases h
      exact ⟨State.resolve_open hc, hl⟩
    · cases h
  · next r ch =>
    obtain ⟨c, hc, h⟩ := Option.bind_eq_some_iff.1 h
    split at h
    · next hl =>
      cases h
      exact ⟨State.resolve_open hc, hl⟩
    · cases h

/-- A slot command that sets a source makes a move when the slot it leaves holds only that and what was there. -/
theorem slotCommand_reaches (slot : Nat) (arg : SourceArg) (go : Fin 128 → Option SlotSource → Answer)
    (h : ∀ i src, (∀ y, src = some y → s.sourceLives y) → (go i src).Reaches s) :
    (slotCommand slot arg s go).Reaches s :=
  .orBadReference fun i _ => .orBadReference fun src hs => .refuseIf fun _ => .refuseIf fun _ =>
    h i src (State.sourceOf_lives hs)

theorem Slot.mem_sources (sl : Slot) (y : SlotSource) : y ∈ sl.sources ↔ sl.source = some y ∨ y ∈ sl.stack := by
  unfold Slot.sources
  cases sl.source <;> simp [eq_comm]

theorem slotAssign_moves (i : Fin 128) (src : Option SlotSource) (h : ∀ y, src = some y → s.sourceLives y) :
    Moves s (s.setSlot i ((s.slot i).assign src)) := by
  refine (Move.slot i ((s.slot i).assign src) (fun y hy => ?_) id).moves
  rw [Slot.mem_sources] at hy ⊢
  rcases hy with e | e
  · exact .inr (h y e)
  · exact .inl (.inr e)

theorem slotPunch_moves (i : Fin 128) (src : Option SlotSource) (h : ∀ y, src = some y → s.sourceLives y) :
    Moves s (s.setSlot i ((s.slot i).punch src)) := by
  refine (Move.slot i _ (fun y hy => ?_) fun _ => ?_).moves
  · rw [Slot.mem_sources] at hy ⊢
    rcases hy with e | e
    · exact .inr (h y e)
    · left
      have e := List.mem_of_mem_take e
      unfold Slot.pushed at e
      split at e
      · exact .inr e
      · next old ho =>
        rcases List.mem_cons.1 e with e | e
        · exact .inl (by rw [ho, e])
        · exact .inr e
  · exact List.length_take_le _ _

theorem slotRelease_moves (i : Fin 128) : Moves s (s.setSlot i (s.slot i).release) := by
  refine (Move.slot i (s.slot i).release (fun y hy => .inl ?_) fun h => ?_).moves
  · rw [Slot.mem_sources] at hy ⊢
    unfold Slot.release at hy
    split at hy <;> rename_i e
    · rcases hy with h | h
      · cases h
      · exact .inr h
    · rw [e]
      rcases hy with h | h
      · cases h; exact .inr (List.mem_cons_self ..)
      · exact .inr (List.mem_cons_of_mem _ h)
  · unfold Slot.release
    split <;> rename_i e
    · exact h
    · rw [e] at h
      exact Nat.le_of_succ_le h

theorem Moves.muteBus (bus : Nat) (mask : BitVec 32) (m : MaskMode) : Moves s (s.muteBus bus mask m) := by
  have hs (i : Fin 128) : ((s.muteBus bus mask m).slot i).source = (s.slot i).source ∧
      ((s.muteBus bus mask m).slot i).stack = (s.slot i).stack := by
    simp only [State.muteBus, State.slot, Fin.getElem_fin, Vector.getElem_ofFn]
    split <;> exact ⟨rfl, rfl⟩
  refine (Move.outside (s := s) (s.muteBus bus mask m) ?_ ?_ ?_ ?_ hs fun p h => ?_).moves <;>
    simp only [State.muteBus, State.port] at *
  exact h

theorem muteModify_reaches (bus : Nat) (mask : BitVec 32) (mode : Nat) : (muteModify bus mask mode s).Reaches s := by
  refine .orBadReference fun b hb => ?_
  split
  · trivial
  · exact Moves.muteBus s _ mask _

end Others

/-! ### Source, lane and health commands -/

section Talkback

variable (s : State)

theorem State.setSource_asks (n m : Fin 16) (x : Source) (v : Fin 24) :
    (s.setSource n x).asks v m = if m = n then x.wants v else s.asks v m := by
  unfold State.asks
  rw [State.setSource_source_eq_ite]
  split <;> rfl

@[simp] theorem Lane.follow_enable (l : Lane) (m : ArbiterMode) (n : Fin 16) (w : Bool) (asks : Fin 16 → Bool) :
    (l.follow m n w asks).enable = l.enable := by
  unfold Lane.follow
  split
  · split <;> rfl
  · split <;> simp

/-- A lane that stands follows a change of one source to one that stands (R135 to R137). -/
theorem Lane.follow_stands {l : Lane} {m : ArbiterMode} {n : Fin 16} {was asks : Fin 16 → Bool}
    (h : l.state.Stands l.enable was) (hn : ∀ k, k ≠ n → asks k = was k) :
    (l.follow m n (was n) asks).state.Stands l.enable asks := by
  have gap : ∀ g, l.state = .gap g → l.state.Stands l.enable asks := fun g e => by rw [e] at h ⊢; exact h
  have idle : l.state = .idle → l.state.Stands l.enable asks := fun e => by rw [e]; trivial
  unfold Lane.follow
  split
  · split
    · next hs =>
      rw [hs] at h
      exact ⟨h.1, by decide, by decide⟩
    · next hs =>
      cases e : l.state with
      | idle => trivial
      | gap g => rw [e] at h; exact h
      | held k =>
        rw [e] at h
        have : k ≠ n := fun hk => hs (by rw [e, hk])
        exact ⟨h.1, by rw [hn k this]; exact h.2⟩
  · next hc =>
    split
    · next hd =>
      simp only [Bool.and_eq_true] at hd
      exact Lane.arbitrate_stands m asks hd.1.2
    · cases e : l.state with
      | idle => trivial
      | gap g => rw [e] at h; exact h
      | held k =>
        rw [e] at h
        refine ⟨h.1, ?_⟩
        by_cases hk : k = n
        · subst hk
          have := h.2
          simp only [this, Bool.true_and, Bool.not_eq_true, Bool.not_eq_false'] at hc
          exact hc
        · rw [hn k hk]; exact h.2

theorem Moves.changeSource (n : Fin 16) (f : Source → Source)
    (ht : ∀ v : Fin 24, (f (s.source n)).targets.getLsbD v.val = true →
      (s.source n).targets.getLsbD v.val = true ∨ (s.venue v).isOpen = true) :
    Moves s (s.changeSource n f) := by
  obtain ⟨e, hv⟩ := s.changeSource_eq n f
  have hs : ∀ m, (s.changeSource n f).source m = (s.setSource n (f (s.source n))).source m := fun m => by
    rw [e]; rfl
  have hasks : ∀ v m, (s.changeSource n f).asks v m = (s.setSource n (f (s.source n))).asks v m := fun v m => by
    unfold State.asks; rw [hs]
  have eq : s.changeSource n f =
      { s with venues := (s.changeSource n f).venues, sources := (s.changeSource n f).sources } := by
    conv => lhs; rw [e]
    have : (s.changeSource n f).sources = (s.setSource n (f (s.source n))).sources := by rw [e]
    rw [this]
    rfl
  refine (Move.lanes _ eq (fun v => by rw [hv]; rfl) ?_).moves
  rintro ⟨h1, h2, h3⟩
  refine ⟨fun m v hb => ?_, fun v he => ?_, fun v => ?_⟩
  · rw [hs, State.setSource_source_eq_ite] at hb
    have ho : (s.venue v).isOpen = true := by
      split at hb
      · rcases ht v hb with g | g
        · exact h1 n v g
        · exact g
      · exact h1 m v hb
    rw [hv]
    exact ho
  · rw [hv] at he ⊢
    rw [Venue.modLane_lane, Lane.follow_enable] at he
    exact h2 v he
  · have h := State.laneOk_iff.1 (h3 v)
    rw [State.laneOk_iff, hv, Venue.modLane_lane, Lane.follow_enable,
      show (s.changeSource n f).asks v = (s.setSource n (f (s.source n))).asks v from funext (hasks v)]
    refine Lane.follow_stands (was := s.asks v) h fun k hk => ?_
    rw [State.setSource_asks, if_neg hk]

theorem sourceAnswer_reaches (n : Fin 16) (b : Bool) (f : Source → Source)
    (ht : ∀ v : Fin 24, (f (s.source n)).targets.getLsbD v.val = true →
      (s.source n).targets.getLsbD v.val = true ∨ (s.venue v).isOpen = true) :
    (sourceAnswer s n b f).Reaches s := Moves.changeSource s n f ht

theorem State.openMask_bit (v : Fin 24) : s.openMask.getLsbD v.val = (s.venue v).isOpen := by
  rw [State.openMask, maskOf_getLsbD]

theorem targetModify_reaches (source : Nat) (mask : BitVec 24) (mode : Nat) :
    (targetModify source mask mode s).Reaches s := by
  refine .orBadReference fun n hn => ?_
  split
  · trivial
  · next m _ =>
    refine sourceAnswer_reaches s n _ _ fun v hb => ?_
    cases m with
    | replace =>
      simp only [MaskMode.targets, State.targetMask, BitVec.getLsbD_and, State.openMask_bit, Bool.and_eq_true] at hb
      exact .inr hb.2
    | set =>
      simp only [MaskMode.targets, State.targetMask, BitVec.getLsbD_and, BitVec.getLsbD_or, State.openMask_bit,
        Bool.and_eq_true, Bool.or_eq_true] at hb
      rcases hb with h | h
      · exact .inl h
      · exact .inr h.2
    | clear =>
      simp only [MaskMode.targets, BitVec.getLsbD_and, Bool.and_eq_true] at hb
      exact .inl hb.1

theorem Lane.change_stands {l : Lane} {a : LaneSetArgs} {asks : Fin 16 → Bool} (h : l.state.Stands l.enable asks) :
    (l.change a).state.Stands (l.change a).enable asks := by
  unfold Lane.change
  simp only
  split
  · trivial
  · next hc =>
    cases e : l.state with
    | idle => trivial
    | held n =>
      rw [e] at h
      refine ⟨?_, h.2⟩
      simpa [h.1] using hc
    | gap g =>
      rw [e] at h
      refine ⟨?_, h.2⟩
      simpa [h.1] using hc

theorem State.setLane_eq (v : Fin 24) (a : LaneSetArgs) : s.setLane v a =
    s.setVenue v ((s.venue v).modLane fun l =>
      if !l.enable && (l.change a).enable then (l.change a).arbitrate s.arbiter (s.asks v) else l.change a) := by
  unfold State.setLane
  simp only [State.modVenue_eq, State.setVenue_venue, Venue.modLane_lane, State.arbitrateLane]
  split
  · next h =>
    simp only [State.setVenue, Venue.modLane, h, if_true]
    congr 1
    simp
    rfl
  · next h => simp [Venue.modLane, h]

theorem Moves.setLane (v : Fin 24) (a : LaneSetArgs) (ho : (s.venue v).isOpen = true) : Moves s (s.setLane v a) := by
  rw [State.setLane_eq]
  refine (Move.lanes _ (by simp only [State.setVenue]) (fun w => ?_) ?_).moves
  · rw [State.setVenue_venue_eq_ite]
    split
    · next h => subst h; rfl
    · rfl
  · rintro ⟨h1, h2, h3⟩
    have hv (w : Fin 24) : ((s.setVenue v ((s.venue v).modLane fun l =>
      if !l.enable && (l.change a).enable then (l.change a).arbitrate s.arbiter (s.asks v)
        else l.change a)).venue w).isOpen = (s.venue w).isOpen := by
      rw [State.setVenue_venue_eq_ite]
      split
      · next h => subst h; rfl
      · rfl
    refine ⟨fun n w hb => by rw [hv]; exact h1 n w hb, fun w he => ?_, fun w => ?_⟩
    · rw [hv]
      by_cases h : w = v
      · subst h; exact ho
      · rw [State.setVenue_venue_of_ne _ _ _ _ h] at he
        exact h2 w he
    · by_cases h : w = v
      · subst h
        have hs := State.laneOk_iff.1 (h3 w)
        rw [State.laneOk_iff, State.setVenue_venue, Venue.modLane_lane]
        show LaneState.Stands _ (s.asks w) _
        split
        · next hc =>
          simp only [Bool.and_eq_true] at hc
          rw [Lane.arbitrate_enable]
          exact Lane.arbitrate_stands _ _ hc.2
        · exact Lane.change_stands hs
      · have hs := State.laneOk_iff.1 (h3 w)
        rw [State.laneOk_iff, State.setVenue_venue_of_ne _ _ _ _ h]
        exact hs

theorem laneSet_reaches (venue : Nat) (a : LaneSetArgs) : (laneSet venue a s).Reaches s := by
  refine .orBadReference fun v hv => .refuseIf fun _ => .refuseIf fun _ => ?_
  exact .setLane s v a (State.openVenue_eq_some hv).2

theorem alarmDevice_reaches (a : AlarmArgs) : (alarmDevice a s).Reaches s := by
  refine .refuseIf fun _ => .refuseIf fun _ => ?_
  exact Moves.outside rfl rfl rfl rfl rfl rfl

theorem alarmVenue_reaches (a : AlarmArgs) (v : Fin 24) : (alarmVenue a v s).Reaches s := by
  refine .refuseIf fun _ => ?_
  refine Moves.trans (t := s.modVenue v fun ve => { ve with health := (s.venue v).health.enable a })
    (.modVenue s v _ (.quiet rfl rfl rfl rfl rfl id (Nat.le_refl _) rfl)) ?_
  exact .outside rfl rfl rfl rfl rfl rfl

theorem Moves.clearHealth (v : Fin 24) : Moves s (s.clearHealth v) := by
  unfold State.clearHealth
  split
  · refine .trans ?_ (.modCircuits _ _ _ fun x => .quiet rfl rfl rfl rfl rfl rfl rfl)
    exact .modVenue s v _ (.quiet rfl rfl rfl rfl rfl id (Nat.le_refl _) rfl)
  · exact .refl s

end Talkback

/-! ### Every command -/

section All

variable (s : State)

theorem Port.complete_queue (pt : Port) (h : pt.queue.length ≤ 128) : pt.complete.queue.length ≤ 128 := by
  unfold Port.complete
  split <;> rename_i e
  · exact h
  · rw [e] at h
    exact Nat.le_of_succ_le h

theorem Port.setLink_queue (pt : Port) (up : Bool) (h : pt.queue.length ≤ 128) :
    (pt.setLink up).queue.length ≤ 128 := by
  unfold Port.setLink
  split
  · exact h
  · split
    · exact Nat.zero_le _
    · exact h

/-- Any state that differs in the reference, the loss latch or the control port only. -/
theorem Moves.edge (i : Option Nat) : Moves s (s.edge i) := by
  unfold State.edge State.followEdge State.loseReference
  split
  · exact .outside rfl rfl rfl rfl rfl rfl
  · split
    · exact .outside rfl rfl rfl rfl rfl rfl
    · split <;> exact .outside rfl rfl rfl rfl rfl rfl

/-- A request command, by what its rule makes of it. -/
theorem runRequest_reached (i : Instr) : Reached s (runRequest i s) := by
  unfold runRequest
  split
  · exact .request (answer_reaches _ s)
  · exact .request (Moves.deviceClear s)
  · exact .request (venueOpen_reaches s _)
  · exact .request (venueSet_reaches s _ _)
  · exact .request (venueRetire_reaches s _ _)
  · exact .request (venueRetireForce_reaches s _)
  · exact .request (.orBadReference fun _ _ => answer_reaches _ s)
  · exact .request (circuitOpen_reaches s _)
  · exact .request (circuitSet_reaches s _ _)
  · exact .request (circuitTrim_reaches s _ _)
  · exact .request (circuitRearm_reaches s _)
  · exact .request (circuitRetire_reaches s _ _)
  · exact .request (.orBadReference fun _ _ => answer_reaches _ s)
  · exact .request (circuitQuery_reaches s _ _)
  · exact .request (portSet_reaches s _ _)
  · exact .request (portQuery_reaches s _ _)
  · exact .request (.orBadReference fun _ _ => answer_reaches _ s)
  · exact .request (answer_reaches _ s)
  · exact .request (venueRate_reaches s _ _ _)
  · exact .request (venueRate_reaches s _ _ _)
  · exact .request (.orBadReference fun _ _ => answer_reaches _ s)
  · exact .request (.orBadReference fun _ _ => answer_reaches _ s)
  · exact .request (slotCommand_reaches s _ _ _ fun i src h => slotAssign_moves s i src h)
  · exact .request (slotCommand_reaches s _ _ _ fun i src h => slotPunch_moves s i src h)
  · exact .request (.orBadReference fun i _ => slotRelease_moves s i)
  · exact .request (.orBadReference fun _ _ => answer_reaches _ s)
  · exact .request (muteModify_reaches s _ _ _)
  · exact .request (.orBadReference fun n _ => .refuseIf fun _ =>
      sourceAnswer_reaches s n _ _ fun _ h => .inl h)
  · exact .request (.orBadReference fun n _ => sourceAnswer_reaches s n _ _ fun _ h => .inl h)
  · refine .request (.orBadReference fun n _ => sourceAnswer_reaches s n _ _ fun _ h => .inl ?_)
    revert h
    unfold Source.unkey
    split <;> exact id
  · exact .request (targetModify_reaches s _ _ _)
  · exact .request (laneSet_reaches s _ _)
  · exact .request (.orBadReference fun _ _ => answer_reaches _ s)
  · refine .request ?_
    split
    · trivial
    · exact Moves.outside rfl rfl rfl rfl rfl rfl
  · refine .request ?_
    split
    · exact alarmDevice_reaches s _
    · exact .orBadReference fun v _ => alarmVenue_reaches s _ v
  · refine .request ?_
    split
    · trivial
    · show Moves s _
      split
      · exact .outside rfl rfl rfl rfl rfl rfl
      · exact .refl s
  · refine .request (.orBadReference fun v _ => ?_)
    split
    · trivial
    · show Moves s _
      split
      · exact .clearHealth s v
      · exact .refl s
  all_goals exact .next (.refl s)

theorem rawRequest_reached (x : Transfer) (code : Byte) (n : BitVec 16) (body : List Byte) :
    Reached s (rawRequest x code n body s) := by
  unfold rawRequest
  split
  · exact .request (s := s) (handler := fun _ => .refuse .badLength) trivial
  · exact .request (s := s) (handler := fun _ => .refuse .badCommand) trivial
  · exact runRequest_reached s _

theorem malformed_reached (b : Bool) (bytes : List Byte) : Reached s (execMalformedTransaction b bytes s) := by
  unfold execMalformedTransaction
  split
  · exact .next (.refl s)
  · split
    · exact .next (.outside rfl rfl rfl rfl rfl rfl)
    · split
      · split
        · exact rawRequest_reached s _ _ _ _
        · exact .next (.outside rfl rfl rfl rfl rfl rfl)
      · split
        · exact .next (.outside rfl rfl rfl rfl rfl rfl)
        · split <;> exact .next (.outside rfl rfl rfl rfl rfl rfl)

/-- Every command is a row of moves. -/
theorem exec_reached (i : Instr) : Reached s (exec i s) := by
  cases i with
  | identify x => exact runRequest_reached s (.identify x)
  | deviceClear x => exact runRequest_reached s (.deviceClear x)
  | venueOpen x a => exact runRequest_reached s (.venueOpen x a)
  | venueSet x v a => exact runRequest_reached s (.venueSet x v a)
  | venueRetire x v o => exact runRequest_reached s (.venueRetire x v o)
  | venueRetireForce x v => exact runRequest_reached s (.venueRetireForce x v)
  | venueQuery x v => exact runRequest_reached s (.venueQuery x v)
  | circuitOpen x a => exact runRequest_reached s (.circuitOpen x a)
  | circuitSet x a r => exact runRequest_reached s (.circuitSet x a r)
  | circuitTrim x d r => exact runRequest_reached s (.circuitTrim x d r)
  | circuitRearm x r => exact runRequest_reached s (.circuitRearm x r)
  | circuitRetire x r o => exact runRequest_reached s (.circuitRetire x r o)
  | circuitFind x r => exact runRequest_reached s (.circuitFind x r)
  | circuitQuery x r c => exact runRequest_reached s (.circuitQuery x r c)
  | portSet x p a => exact runRequest_reached s (.portSet x p a)
  | portQuery x p c => exact runRequest_reached s (.portQuery x p c)
  | windowQuery x r => exact runRequest_reached s (.windowQuery x r)
  | referenceQuery x => exact runRequest_reached s (.referenceQuery x)
  | venueRate x v m a => exact runRequest_reached s (.venueRate x v m a)
  | venueRateStepped x v a => exact runRequest_reached s (.venueRateStepped x v a)
  | timebaseCapture x v => exact runRequest_reached s (.timebaseCapture x v)
  | recoveryQuery x v => exact runRequest_reached s (.recoveryQuery x v)
  | slotAssign x i a => exact runRequest_reached s (.slotAssign x i a)
  | slotPunch x i a => exact runRequest_reached s (.slotPunch x i a)
  | slotRelease x i => exact runRequest_reached s (.slotRelease x i)
  | slotQuery x i => exact runRequest_reached s (.slotQuery x i)
  | muteModify x b m k => exact runRequest_reached s (.muteModify x b m k)
  | sourceSet x n e => exact runRequest_reached s (.sourceSet x n e)
  | sourceKey x n d => exact runRequest_reached s (.sourceKey x n d)
  | sourceUnkey x n => exact runRequest_reached s (.sourceUnkey x n)
  | targetModify x n m k => exact runRequest_reached s (.targetModify x n m k)
  | laneSet x v a => exact runRequest_reached s (.laneSet x v a)
  | laneQuery x v => exact runRequest_reached s (.laneQuery x v)
  | arbiterMode x m => exact runRequest_reached s (.arbiterMode x m)
  | alarmEnable x a => exact runRequest_reached s (.alarmEnable x a)
  | attentionRead x c => exact runRequest_reached s (.attentionRead x c)
  | healthRead x v c => exact runRequest_reached s (.healthRead x v c)
  | unknownCommandRequest x c n b => exact rawRequest_reached s x c n b
  | responseTransaction b n => exact .ite (.outside rfl rfl rfl rfl rfl rfl) (.refl s)
  | statusTransaction b n => exact .ite (.outside rfl rfl rfl rfl rfl rfl) (.refl s)
  | malformedTransaction b n => exact malformed_reached s b n
  | hardwareReset => exact .next (.hardwareReset s)
  | resetRelease => exact .next (.outside rfl rfl rfl rfl rfl rfl)
  | frameReceived p rx => exact .next (.receive s p rx)
  | transmitComplete p => exact .next (.modPort s p _ (Port.complete_queue _))
  | linkStateChange p up => exact .ite (.refl s) (.modPort s p _ (Port.setLink_queue _ up))
  | wckEdge i => exact .ite (.refl s) (.edge s i)
  | referenceQualified => exact .ite (.outside rfl rfl rfl rfl rfl rfl) (.refl s)
  | referenceLoss c => exact .ite (.outside rfl rfl rfl rfl rfl rfl) (.refl s)
  | blockBoundary a => exact .ite (.refl s) (.boundary s a)
  | intervalUpdate v => exact .next (.takeDue s _ _)
  | schedulerStep v => exact .next (.takeDue s _ _)
  | fadeEnd c =>
    refine .next ?_
    split
    · exact .refl s
    · exact .takeDue s _ _
  | terminalCount c => exact .next (.takeDue s _ _)
  | venueLossExpiry v => exact .next (.takeDue s _ _)
  | announceExpiry v => exact .next (.takeDue s _ _)
  | pathTimeout v p => exact .next (.takeDue s _ _)
  | reorderAllowanceExpiry v c n => exact .next (.takeDue s _ _)
  | softwareKeyExpiry n => exact .next (.takeDue s _ _)
  | gapEnd v => exact .next (.takeDue s _ _)
  | degradeWindowRestart => exact .next (.takeDue s _ _)

end All

/-- Every step is a row of moves: a law that every move keeps is kept by every step (`Moves.keep`). -/
theorem step_moves {s t : State} (h : step s = .next t) : Moves s t := by
  unfold step at h
  split at h
  · next c rest _ =>
    exact Moves.trans (.outside (t := { s with pending := rest }) rfl rfl rfl rfl rfl rfl) (exec_reached _ c t h)
  · cases h
    exact .idle s

end Sys2Proof.Machine
end

