-- ==== Sys2Proof/Laws/Seat.lean ====
section
/-! SUPPORT. What seating a venue (R71, R81) and the first store after it (R65) do, for the statements about
FRAME_RECEIVED. -/

namespace Sys2Proof.Machine

/-- R108: a flush empties the queue of its venue and touches its health record only beside. -/
theorem State.flush_venue_self (s : State) (v) : (s.flush v).venue v = { s.venue v with recovery := [], health := ((s.flush v).venue v).health } := by
  unfold State.flush
  simp

/-- R108: a flush counts CANCELLED only. -/
theorem State.flush_counter_of_ne (s : State) (v k) (hk : k ≠ .cancelled) : ((s.flush v).venue v).health.counter k = (s.venue v).health.counter k := by
  unfold State.flush
  simp only [State.modVenue_eq, State.setVenue_venue]
  rw [State.reports_counter_of_ne]
  intro r hr; simp at hr; obtain ⟨e, _, rfl⟩ := hr; simp [RecoveryEntry.report]; exact fun h => hk h.symm

/-- R71, R81: what a seat makes of its venue. -/
theorem State.seatVenue_venue (s : State) (v n) : (s.seatVenue v n).venue v = { s.venue v with timebase := (s.venue v).timebase.seat n (s.venue v).settings.target, newest := none, aheadStreak := 0, lateStreak := 0, recovery := [], health := ((s.seatVenue v n).venue v).health } := by
  unfold State.seatVenue
  simp only
  rw [State.flush_venue_self]
  simp

/-- A seat counts CANCELLED only. -/
theorem State.seatVenue_counter (s : State) (v n k) (hk : k ≠ .cancelled) : ((s.seatVenue v n).venue v).health.counter k = (s.venue v).health.counter k := by
  unfold State.seatVenue
  simp only
  rw [State.flush_counter_of_ne _ _ _ hk]
  simp

/-- A seat leaves every other venue. -/
theorem State.seatVenue_venue_of_ne (s : State) (v n w) (h : w ≠ v) : (s.seatVenue v n).venue w = s.venue w := by
  unfold State.seatVenue
  simp only
  rw [State.flush_venue_of_ne _ _ _ h]
  simp [State.setVenue_venue_of_ne _ _ _ _ h]

/-- R71: a seat empties the windows of its venue's list. -/
theorem State.seatVenue_circuit_of_mem (s : State) (v n d) (hn : (s.venue v).circuits.Nodup) (h : d ∈ (s.venue v).circuits) : (s.seatVenue v n).circuit d = (s.circuit d).clearWindow := by
  unfold State.seatVenue
  simp only [State.flush_circuit]
  rw [State.modCircuits_circuit_of_mem _ _ _ _ (by simpa using hn) (by simpa using h)]
  rfl

/-- A seat leaves the circuits outside the list. -/
theorem State.seatVenue_circuit_of_notMem (s : State) (v n d) (h : d ∉ (s.venue v).circuits) : (s.seatVenue v n).circuit d = s.circuit d := by
  unfold State.seatVenue
  simp only [State.flush_circuit]
  rw [State.modCircuits_circuit_of_notMem _ _ _ _ (by simpa using h)]
  rfl

/-- A seat changes venues and circuits only. -/
theorem State.seatVenue_eq (s : State) (v n) : s.seatVenue v n = { s with venues := (s.seatVenue v n).venues, circuits := (s.seatVenue v n).circuits } := by
  have hm : ∀ (cs : List (Fin 128)) (t : State) f, t.modCircuits cs f = { t with circuits := (t.modCircuits cs f).circuits } := by
    intro cs; induction cs with
    | nil => intro t f; rfl
    | cons c cs ih => intro t f; rw [State.modCircuits_cons, ih]; rfl
  unfold State.seatVenue
  simp only
  rw [State.flush_eq, hm]
  rfl

/-- R65, R66, R67: storing the first frame of an emptied window, with an empty queue. -/
theorem State.storeFrame_first (t : State) (v c) (a : Arrival) (h1 : (t.circuit c).newest = none) (h2 : (t.venue v).recovery = []) (h3 : a.repair = false) :
   t.storeFrame v c a = (t.setCircuit c { (t.circuit c).store a.frame a.chans with newest := some a.frame }).setVenue v { t.venue v with aheadStreak := 0, lateStreak := 0, newest := newer (t.venue v).newest a.frame } := by
  unfold State.storeFrame
  simp only [h1]
  have hdg : ∀ t : State, t.detectGaps v c a none = t := by intro t; unfold State.detectGaps; cases (t.venue v).timebase.phase <;> rfl
  rw [hdg]
  unfold State.settleStore
  rw [if_neg]
  · simp only [State.unmatched, h3, Bool.false_eq_true, if_false]
    simp [newer, h1, Venue.clearStreaks]
  · simp [Venue.awaits, Venue.clearStreaks, h2]

end Sys2Proof.Machine
end

