-- ==== Sys2Proof/Laws/Slots.lean ====
section
/-! SUPPORT. What becomes of the output slots when circuits are freed (R128): the slots of several freeings in a row, and
the references counted. -/

namespace Sys2Proof.Machine

/-- R128: freeing a circuit drops its references from a slot. -/
theorem Slot.dropCircuit_dropped (sl : Slot) (c : Fin 128) : sl.Dropped [c] (sl.dropCircuit c) := by
  have hf : (sl.stack.filter fun e => decide (e.circuit ∉ [c])) = sl.stack.filter fun e => e.circuit != c :=
    List.filter_congr fun e _ => by simp [bne, BEq.beq]
  rw [Slot.dropCircuit_eq]
  refine ⟨fun z hz hc => ?_, fun h => ?_, rfl, rfl⟩
  · have hn : sl.names c = true := by simpa [Slot.names, hz] using hc
    simp only [hn, hf, if_true, and_self]
  · have hn : sl.names c = false := by
      cases hs : sl.source with
      | none => simp [Slot.names, hs]
      | some z => have := h z hs; simpa [Slot.names, hs] using this
    simp only [hn, hf]
    simp

/-- R128: circuits freed one after another leave a slot as it is without any of them. -/
theorem Slot.Dropped.trans {x y z : Slot} {cs ds : List (Fin 128)} (h : x.Dropped cs y) (g : y.Dropped ds z) :
    x.Dropped (cs ++ ds) z := by
  obtain ⟨h1, h2, h3, h4⟩ := h
  obtain ⟨g1, g2, g3, g4⟩ := g
  have hf : ∀ l : List SlotSource, (l.filter fun e => decide (e.circuit ∉ cs ++ ds)) =
      (l.filter fun e => decide (e.circuit ∉ cs)).filter fun e => decide (e.circuit ∉ ds) := by
    intro l
    rw [List.filter_filter]
    exact List.filter_congr fun e _ => by simp [List.mem_append, not_or, Bool.and_comm]
  refine ⟨fun s hs hm => ?_, fun hn => ?_, g3.trans h3, g4.trans h4⟩
  · rw [hf]
    by_cases hc : s.circuit ∈ cs
    · obtain ⟨e1, e2⟩ := h1 s hs hc
      cases hl : x.stack.filter fun e => decide (e.circuit ∉ cs) with
      | nil =>
        rw [hl] at e1 e2
        obtain ⟨k1, k2⟩ := g2 (fun z hz => by rw [e1] at hz; cases hz)
        rw [k1, k2, e1, e2]; simp
      | cons a l =>
        rw [hl] at e1 e2
        simp only [List.head?_cons, List.tail_cons] at e1 e2
        by_cases ha : a.circuit ∈ ds
        · obtain ⟨k1, k2⟩ := g1 a e1 ha
          rw [k1, k2, e2, List.filter_cons_of_neg (by simpa using ha)]; exact ⟨rfl, rfl⟩
        · obtain ⟨k1, k2⟩ := g2 (fun z hz => by rw [e1] at hz; cases hz; exact ha)
          rw [k1, k2, e1, e2, List.filter_cons_of_pos (by simpa using ha)]; exact ⟨rfl, rfl⟩
    · have hd : s.circuit ∈ ds := (List.mem_append.1 hm).resolve_left hc
      obtain ⟨e1, e2⟩ := h2 (fun z hz => by rw [hs] at hz; cases hz; exact hc)
      obtain ⟨k1, k2⟩ := g1 s (e1.trans hs) hd
      rw [k1, k2, e2]; exact ⟨rfl, rfl⟩
  · obtain ⟨e1, e2⟩ := h2 (fun z hz hc => hn z hz (List.mem_append_left _ hc))
    obtain ⟨k1, k2⟩ := g2 (fun z hz hc => hn z (e1 ▸ hz) (List.mem_append_right _ hc))
    rw [k1, k2, e1, e2, hf]; exact ⟨rfl, rfl⟩

/-- No circuit freed, nothing dropped. -/
theorem Slot.Dropped.nil (x : Slot) : x.Dropped [] x := by
  refine ⟨fun z _ h => absurd h (by simp), fun _ => ⟨rfl, by simp⟩, rfl, rfl⟩

/-- A slot's references to a circuit, counted over its sources. -/
theorem Slot.references_eq (sl : Slot) (c : Fin 128) :
    sl.references c = (sl.sources.filter fun e => decide (e.circuit ∈ [c])).length := by
  have hf : ∀ l : List SlotSource, (l.filter fun e => decide (e.circuit ∈ [c])) = l.filter fun e => e.circuit == c :=
    fun l => List.filter_congr fun e _ => by simp [BEq.beq]
  rw [hf]
  cases h : sl.source with
  | none => simp [Slot.references, Slot.sources, Slot.names, h]
  | some z =>
    by_cases hz : z.circuit = c <;> simp [Slot.references, Slot.sources, Slot.names, h, hz]

/-- R128: the sources of a slot that stay are those of other circuits, in their order. -/
theorem Slot.Dropped.sources {x y : Slot} {cs : List (Fin 128)} (h : x.Dropped cs y) :
    y.sources = x.sources.filter fun e => decide (e.circuit ∉ cs) := by
  obtain ⟨h1, h2, -, -⟩ := h
  cases hs : x.source with
  | none =>
    obtain ⟨e1, e2⟩ := h2 (fun z hz => by rw [hs] at hz; cases hz)
    simp [Slot.sources, e1, e2, hs]
  | some z =>
    by_cases hz : z.circuit ∈ cs
    · obtain ⟨e1, e2⟩ := h1 z hs hz
      simp only [Slot.sources, e1, e2, hs, Option.toList_some, List.singleton_append]
      rw [List.filter_cons_of_neg (by simpa using hz)]
      cases x.stack.filter fun e => decide (e.circuit ∉ cs) <;> simp
    · obtain ⟨e1, e2⟩ := h2 (fun y hy => by rw [hs] at hy; cases hy; exact hz)
      simp only [Slot.sources, e1, e2, hs, Option.toList_some, List.singleton_append]
      rw [List.filter_cons_of_pos (by simpa using hz)]

/-- R128: the references counted when a circuit is freed are those of every slot. -/
theorem State.references_eq (s : State) (c : Fin 128) : s.references c = s.referencesTo [c] := by
  have hl : s.slots.toList = (List.finRange 128).map fun i => s.slot i := by
    apply List.ext_getElem
    · simp
    · intro i h1 h2; simp [State.slot]
  have hf : ∀ (l : List (Fin 128)) (n : Nat), (l.map fun i => s.slot i).foldl (fun n sl => n + sl.references c) n =
      n + (l.map fun i => ((s.slot i).sources.filter fun e => decide (e.circuit ∈ [c])).length).sum := by
    intro l
    induction l with
    | nil => intro n; simp
    | cons i l ih => intro n; rw [List.map_cons, List.foldl_cons, ih, List.map_cons, List.sum_cons, Slot.references_eq]; omega
  simp only [State.references, hl, hf, Nat.zero_add]
  rfl

/-- R18, R128: freeing `c` first removes its references and leaves those to `cs` to count. -/
theorem State.referencesTo_cons (s t : State) (c : Fin 128) (cs : List (Fin 128))
    (h : ∀ i, (s.slot i).Dropped [c] (t.slot i)) : s.referencesTo (c :: cs) = s.referencesTo [c] + t.referencesTo cs := by
  have hs : ∀ l : List SlotSource, (l.filter fun e => decide (e.circuit ∈ c :: cs)).length =
      (l.filter fun e => decide (e.circuit ∈ [c])).length +
        ((l.filter fun e => decide (e.circuit ∉ [c])).filter fun e => decide (e.circuit ∈ cs)).length := by
    intro l
    induction l with
    | nil => rfl
    | cons a l ih =>
      by_cases h1 : a.circuit = c
      · simp [h1] at ih ⊢; omega
      · by_cases h2 : a.circuit ∈ cs <;> simp [h1, h2] at ih ⊢ <;> omega
  unfold State.referencesTo
  generalize List.finRange 128 = is
  induction is with
  | nil => rfl
  | cons i is ih =>
    have e : ((s.slot i).source.toList ++ (s.slot i).stack) = (s.slot i).sources := rfl
    have e' : ((t.slot i).source.toList ++ (t.slot i).stack) = (t.slot i).sources := rfl
    simp only [List.map_cons, List.sum_cons, ih, e, e', (h i).sources, hs (s.slot i).sources]
    omega
theorem State.freeRecord_dropped (s : State) (c : Fin 128) (h : (s.circuit c).state ≠ .free) (i : Fin 128) :
    (s.slot i).Dropped [c] ((s.freeRecord c).slot i) := by
  rw [State.freeRecord_slot, if_pos h]
  exact Slot.dropCircuit_dropped _ c

theorem State.freeAll_nil (s : State) : s.freeAll [] = (s, 0) := rfl

/-- R18: the front of the list is freed first, and its references are counted. -/
theorem State.freeAll_cons (s : State) (c : Fin 128) (cs : List (Fin 128)) :
    s.freeAll (c :: cs) = (((s.freeRecord c).freeAll cs).1, s.references c + ((s.freeRecord c).freeAll cs).2) := by
  have : ∀ (l : List (Fin 128)) (t : State) (n : Nat),
      l.foldl (fun (acc : State × Nat) c => (acc.1.freeRecord c, acc.2 + acc.1.references c)) (t, n) =
        ((t.freeAll l).1, n + (t.freeAll l).2) := by
    intro l
    induction l with
    | nil => intro t n; rfl
    | cons d l ih =>
      intro t n
      have e : t.freeAll (d :: l) = l.foldl (fun (acc : State × Nat) c =>
        (acc.1.freeRecord c, acc.2 + acc.1.references c)) (t.freeRecord d, 0 + t.references d) := rfl
      rw [List.foldl_cons, ih, e, ih]
      simp; omega
  have := this cs (s.freeRecord c) (0 + s.references c)
  rw [Nat.zero_add] at this
  rw [← this, ← Nat.zero_add (s.references c)]
  rfl

/-- R18, R128: what freeing several circuits leaves of each slot, and how many references it removes. -/
theorem State.freeAll_slots (cs : List (Fin 128)) (hn : cs.Nodup) (s : State)
    (h : ∀ c ∈ cs, (s.circuit c).state ≠ .free) :
    (∀ i, (s.slot i).Dropped cs ((s.freeAll cs).1.slot i) ∧ ((s.freeAll cs).1.slot i).staged = (s.slot i).staged) ∧
      (s.freeAll cs).2 = s.referencesTo cs := by
  induction cs generalizing s with
  | nil => exact ⟨fun i => ⟨.nil _, rfl⟩, by simp [State.freeAll_nil, State.referencesTo]⟩
  | cons c cs ih =>
    obtain ⟨hc, hn⟩ := List.nodup_cons.1 hn
    have hd := s.freeRecord_dropped c (h c (by simp))
    have hs : ∀ d ∈ cs, ((s.freeRecord c).circuit d).state ≠ .free := fun d hd => by
      have : d ≠ c := fun e => hc (e ▸ hd)
      rw [State.freeRecord_circuit, if_neg (by simp [this])]
      exact h d (by simp [hd])
    obtain ⟨h1, h2⟩ := ih hn _ hs
    rw [State.freeAll_cons]
    refine ⟨fun i => ⟨(hd i).trans (h1 i).1, (h1 i).2.trans ?_⟩, ?_⟩
    · rw [State.freeRecord_slot]; split <;> simp
    · rw [h2, State.references_eq, ← s.referencesTo_cons _ c cs hd]

end Sys2Proof.Machine
end

