-- ==== Sys2Proof/Tests/Slice0.lean ====
section
/-! SUPPORT. Tests of the model's own, and a witness for the hypotheses of every statement. Expected results
are the spec's: the worked example or rule each test names. -/

namespace Sys2Proof.Tests

-- One theorem after another: the kernel's evaluations, waiting for each other side by side, take threads and memory.
set_option Elab.async false

open Sys2Proof Sys2Proof.Machine

/-! ### Small states -/

def x0 : Transfer := ⟨0x21, false⟩

/-- The state a command leaves. -/
def after (i : Instr) (s : State) : State :=
  match exec i s with
  | .next t => t
  | .fault _ => s
  | .refused _ => s

/-- What is held in answer to a request: result, flags, body. -/
def answerTo (i : Instr) (s : State) : Option (Result × Flags × List Byte) :=
  (after i s).control.held.map fun r => (r.result, r.flags, r.body)

def port0 : Port := { Port.reset with enable := true, address := 0x020000000001, linkUp := true }

def path0 : Path := { port := some 0, state := .up, lastArrival := some 0, reply := none }

/-- A venue with one circuit, C0, at the phase (1,000, 10, 0) of the example of section 5.4. -/
def venue0 (st : VenueState) : Venue :=
  { Venue.free with
    state := st
    key := 0x2A17
    pathA := path0
    circuits := [0]
    timebase := { Timebase.free with
      phase := if st = .waiting then none else some ⟨1000, 10, 0⟩, rhoP := 1073741, rhoEff := 1073741 } }

/-- A mono COMMENTARY circuit of V0 with a window of 64 cells. -/
def circuit0 (st : CircuitState) : Circuit :=
  { Circuit.free with
    state := st, venue := some 0, tag := some 10, hold := if st = .lost then 0 else 2000 }

/-- V0 open in the given state with C0 in the given state, LP0 enabled and up. -/
def base (vs : VenueState) (cs : CircuitState) : State :=
  { ((State.reset.setVenue 0 (venue0 vs)).setCircuit 0 (circuit0 cs)).setPort 0 port0 with poolFree := 32704 }

def active : State := base .active .running

/-- V0 changed. -/
def withV (s : State) (f : Venue → Venue) : State := s.modVenue 0 f

/-- C0 changed. -/
def withC (s : State) (f : Circuit → Circuit) : State := s.modCircuit 0 f

def noOpen : VenueOpenArgs := ⟨0x2A17, some 0, none, none, none, none, none, none, none, none⟩
def noVenueSet : VenueSetArgs := ⟨none, none, none, none, none, none, none, none, none⟩
def noCircuitOpen : CircuitOpenArgs := ⟨0, 10, 64, .direct 1 1, none, none, none⟩
def noCircuitSet : CircuitSetArgs := ⟨none, none, none, none⟩
def noPortSet : PortSetArgs := ⟨none, none, none, none, none⟩
def noRate : RateArgs := ⟨none, none, none, none⟩
def noLane : LaneSetArgs := ⟨none, none, none⟩
def noAlarm : AlarmArgs := ⟨none, none, none, none, none⟩

/-! ### WellFormed refuses an ill-formed term for each check -/

def badRefs : List CircuitRef :=
  [.absolute 256, .venueRelative 256 0, .venueRelative 0 256, .keyed 256 0, .keyed 0 256, .badForm 256 0 0,
   .badForm 2 0 0, .badForm 3 256 0, .badForm 3 0 256]

theorem test_wf_refs : badRefs.all (fun r => !r.wellFormed) = true := by decide

theorem test_wf_requests_with_refs : badRefs.all (fun r =>
    !(Instr.circuitSet x0 noCircuitSet r).wellFormed && !(Instr.circuitTrim x0 0 r).wellFormed &&
    !(Instr.circuitRearm x0 r).wellFormed && !(Instr.circuitRetire x0 r 0).wellFormed &&
    !(Instr.circuitFind x0 r).wellFormed && !(Instr.circuitQuery x0 r 0).wellFormed &&
    !(Instr.windowQuery x0 r).wellFormed && !(Instr.slotAssign x0 0 (.channel r 0)).wellFormed &&
    !(Instr.slotPunch x0 0 (.channel r 0)).wellFormed) = true := by decide

theorem test_wf_venues : ([.venueOpen x0 { noOpen with portA := some 255 }, .venueOpen x0 { noOpen with portB := some 255 },
    .venueOpen x0 { noOpen with target := some 65536 }, .venueOpen x0 { noOpen with budget := some 256 },
    .venueOpen x0 { noOpen with allowance := some 256 }, .venueOpen x0 { noOpen with attempts := some 256 },
    .venueOpen x0 { noOpen with pathTimeout := some 65536 }, .venueOpen x0 { noOpen with lossTime := some 65536 },
    .venueOpen x0 { noOpen with rate := some 2147483648 }, .venueOpen x0 { noOpen with rate := some (-2147483649) },
    .venueSet x0 256 noVenueSet, .venueSet x0 0 { noVenueSet with portA := some (some 255) },
    .venueSet x0 0 { noVenueSet with portB := some (some 255) }, .venueSet x0 0 { noVenueSet with target := some 65536 },
    .venueSet x0 0 { noVenueSet with budget := some 256 }, .venueSet x0 0 { noVenueSet with allowance := some 256 },
    .venueSet x0 0 { noVenueSet with attempts := some 256 }, .venueSet x0 0 { noVenueSet with pathTimeout := some 65536 },
    .venueSet x0 0 { noVenueSet with lossTime := some 65536 }, .venueRetire x0 256 0, .venueRetire x0 0 256,
    .venueRetire x0 0 1, .venueRetireForce x0 256, .venueQuery x0 256] : List Instr).all
    (fun i => !i.wellFormed) = true := by decide

theorem test_wf_circuits : ([.circuitOpen x0 { noCircuitOpen with venue := 256 },
    .circuitOpen x0 { noCircuitOpen with tag := 256 }, .circuitOpen x0 { noCircuitOpen with window := 65536 },
    .circuitOpen x0 { noCircuitOpen with form := .direct 256 1 }, .circuitOpen x0 { noCircuitOpen with form := .direct 1 256 },
    .circuitOpen x0 { noCircuitOpen with form := .badForm 1 }, .circuitOpen x0 { noCircuitOpen with form := .badForm 256 },
    .circuitOpen x0 { noCircuitOpen with level := some 65536 }, .circuitOpen x0 { noCircuitOpen with hold := some 65536 },
    .circuitOpen x0 { noCircuitOpen with autoRearm := some 256 },
    .circuitSet x0 { noCircuitSet with level := some 65536 } (.absolute 0),
    .circuitSet x0 { noCircuitSet with hold := some 65536 } (.absolute 0),
    .circuitSet x0 { noCircuitSet with autoRearm := some 256 } (.absolute 0),
    .circuitSet x0 { noCircuitSet with fade := some 256 } (.absolute 0), .circuitTrim x0 32768 (.absolute 0),
    .circuitRetire x0 (.absolute 0) 256, .circuitQuery x0 (.absolute 0) 256] : List Instr).all
    (fun i => !i.wellFormed) = true := by decide

theorem test_wf_ports_rates_slots : ([.portSet x0 256 noPortSet, .portSet x0 0 { noPortSet with enable := some 256 },
    .portSet x0 0 { noPortSet with tagMode := some 256 }, .portSet x0 0 { noPortSet with domain := some (.value 65536) },
    .portSet x0 0 { noPortSet with domain := some (.badFlag 1) }, .portSet x0 0 { noPortSet with domain := some (.badFlag 256) },
    .portQuery x0 256 0, .portQuery x0 0 256, .venueRate x0 256 none noRate, .venueRate x0 0 (some 256) noRate,
    .venueRate x0 0 (some 1) noRate, .venueRate x0 0 none { noRate with rate := some 2147483648 },
    .venueRate x0 0 none { noRate with step := some 65536 }, .venueRate x0 0 none { noRate with settle := some 256 },
    .venueRate x0 0 none { noRate with frozen := some 256 }, .venueRateStepped x0 256 noRate,
    .venueRateStepped x0 0 { noRate with settle := some 256 }, .timebaseCapture x0 256, .recoveryQuery x0 256,
    .slotAssign x0 256 .silence, .slotAssign x0 0 (.channel (.absolute 0) 256), .slotAssign x0 0 (.badFlag 1 (.absolute 0) 0),
    .slotAssign x0 0 (.badFlag 256 (.absolute 0) 0), .slotPunch x0 256 .silence, .slotPunch x0 0 (.badFlag 2 (.absolute 256) 0), .slotRelease x0 256,
    .slotQuery x0 256, .muteModify x0 256 0 0, .muteModify x0 0 0 256] : List Instr).all
    (fun i => !i.wellFormed) = true := by decide

theorem test_wf_foldback_health : ([.sourceSet x0 256 none, .sourceSet x0 0 (some 256), .sourceKey x0 256 0,
    .sourceKey x0 0 65536, .sourceUnkey x0 256, .targetModify x0 256 0 0, .targetModify x0 0 0 256, .laneSet x0 256 noLane,
    .laneSet x0 0 { noLane with enable := some 256 }, .laneSet x0 0 { noLane with cleanSlot := some (some 255) },
    .laneSet x0 0 { noLane with duck := some 256 }, .laneQuery x0 256, .arbiterMode x0 256,
    .alarmEnable x0 { noAlarm with venue := some 256 }, .alarmEnable x0 { noAlarm with threshold := some 65536 },
    .attentionRead x0 256, .healthRead x0 256 0, .healthRead x0 0 256,
    .malformedTransaction false [2, 0]] : List Instr).all (fun i => !i.wellFormed) = true := by decide

/-! ### Control port and device commands -/

theorem test_identify : (answerTo (.identify x0) State.reset).map (fun a => (a.1, a.2.2.take 3, a.2.2.drop 4)) =
    some (.ok, [0x3C, 0x61, 0x24], [4, 24, 128, 8, 0x80, 0, 128, 4, 16, 24, 32, 1, 0]) := by decide

theorem test_deviceClear : (after (.deviceClear x0) active).venue 0 = Venue.free ∧
    ((after (.deviceClear x0) active).port 0).enable = true := by decide +kernel

theorem test_hardwareReset : (after .hardwareReset active).port 0 = Port.reset ∧
    (after .hardwareReset active).resetLow = true := by decide

theorem test_resetRelease : (after .resetRelease (after .hardwareReset active)).resetLow = false := by decide

/-- R171, R160: the outputs in reset and after it; SPI_MISO is driven while SPI_CS_N is low. -/
theorem test_pins : ((after .hardwareReset active).pins true).spiMiso = .highImpedance ∧
    ((after .hardwareReset active).pins true).toBclk = .low ∧ (active.pins false).toBclk = .galleryClock ∧
    (active.pins false).spiMiso = .highImpedance ∧ (active.pins true).spiMiso = .transaction := by decide

/-- R165: a transaction in progress when RESET_N fell is abandoned. -/
theorem test_cut_request : exec (.venueQuery ⟨0x21, true⟩ 0) active = .next active := rfl

/-- Section 10.6 step 2. -/
theorem test_response_replaced : ((after (.portQuery x0 7 0) (after (.venueQuery x0 0) active)).control.responseLost = true) ∧
    answerTo (.portQuery x0 7 0) active = some (.badReference, {}, []) := by decide

/-- Section 10.6 step 7: NONE is clocked out after the kind byte's zeros (R160). -/
theorem test_response_none : (after (.responseTransaction false 6) active).control.spiOut =
    [0, 0, 0, 0x0A, 0, 0, 0] := by decide

/-- Section 10.6 step 5: the byte shows ready, lost and malformed, and its reading clears the latches. -/
theorem test_status : (after (.statusTransaction false 8) { active with control :=
      { held := some Response.absent, responseLost := true, malformed := true, spiOut := [] } }).control =
    { held := some Response.absent, responseLost := false, malformed := false, spiOut := [0, 7] } := by decide

/-- Section 10.6 step 4, an unknown kind byte. -/
theorem test_malformed : (after (.malformedTransaction false [9, 0]) active).control =
    { active.control with malformed := true, spiOut := [0, 0] } := by decide

/-- Section 10.6 step 8: body length 6 with 4 body bytes. -/
theorem test_badLength : answerTo (.unknownCommandRequest x0 0x41 6 [0, 0, 0, 0]) active =
    some (.badLength, {}, []) := by decide

theorem test_badCommand : answerTo (.unknownCommandRequest x0 0x00 0 []) active = some (.badCommand, {}, []) := by decide

/-! ### Request bytes (R169) -/

/-- One byte for the index, two for the duration, four for a slot mask (R169). -/
theorem test_read_venueQuery : readRequest x0 0x13 1 [5] = .fits (.venueQuery x0 5) := by decide

theorem test_read_circuitTrim : readRequest x0 0x22 5 [0xFF, 0xFE, 2, 7, 40] =
    .fits (.circuitTrim x0 (-2) (.keyed 7 40)) := by decide

theorem test_read_muteModify : readRequest x0 0x54 6 [1, 0x80, 0, 0, 0x01, 2] =
    .fits (.muteModify x0 1 0x80000001 2) := by decide

theorem test_read_sourceKey : readRequest x0 0x61 3 [11, 0x01, 0x02] = .fits (.sourceKey x0 11 258) := by decide

theorem test_no_table_word : decodeTableWord 8 0x13 = none := by decide

/-! ### Venues -/

theorem test_venueOpen : ((after (.venueOpen x0 { noOpen with target := some 100 }) State.reset).venue 0).settings.target = 480 ∧
    ((answerTo (.venueOpen x0 { noOpen with target := some 100 }) State.reset).map fun a => a.2.1) =
      some { clamped := true } := by decide

theorem test_venueOpen_duplicate : answerTo (.venueOpen x0 noOpen) active = some (.duplicateKey, {}, []) := by decide

/-- A window of 64 cells admits T up to 60 × 96 (R4). -/
theorem test_venueSet : ((after (.venueSet x0 0 { noVenueSet with target := some 9000 }) active).venue 0).settings.target =
    5760 := by decide

theorem test_venueRetire_inUse : answerTo (.venueRetire x0 0 0) active = some (.inUse, {}, []) := by decide

/-- R170: an option byte of no code is judged after R17's own check. -/
theorem test_venueRetire_option : answerTo (.venueRetire x0 0 2) active = some (.inUse, {}, []) ∧
    answerTo (.venueRetire x0 0 2) (withV active fun v => { v with circuits := [] }) = some (.badValue, {}, []) := by decide

theorem test_venueRetireForce : answerTo (.venueRetireForce x0 0) active = some (.ok, {}, [1, 0, 0]) ∧
    (after (.venueRetireForce x0 0) active).poolFree = 32768 := by decide +kernel

theorem test_venueQuery : ((answerTo (.venueQuery x0 0) active).map fun a => a.2.2.take 3) = some [2, 0x2A, 0x17] := by decide

/-! ### Circuits -/

theorem test_circuitOpen : answerTo (.circuitOpen x0 { noCircuitOpen with tag := 20, form := .direct 2 2 }) active =
    some (.ok, {}, [1, 1, 0x10, 0, 0x0F, 0xA0, 0x7F, 0x40]) := by decide

theorem test_circuitOpen_duplicate : answerTo (.circuitOpen x0 noCircuitOpen) active = some (.duplicateKey, {}, []) := by
  decide

theorem test_circuitSet : ((after (.circuitSet x0 { noCircuitSet with hold := some 3 } (.absolute 0))
    (base .active .concealing)).circuit 0).hold = 3 := by decide

/-- R36's own case: 16,000 and +500. -/
theorem test_circuitTrim : answerTo (.circuitTrim x0 500 (.keyed 0 10)) (withC active fun c => { c with level := 16000 }) =
    some (.ok, { saturated := true }, [0x3F, 0xFF]) := by decide

theorem test_circuitRearm : answerTo (.circuitRearm x0 (.venueRelative 0 0)) (base .active .lost) =
    some (.ok, {}, [1, 0x07, 0xD0]) := by decide

/-- Section 2.12: FADE with F = 4. -/
theorem test_circuitRetire_fade : answerTo (.circuitRetire x0 (.absolute 0) 1)
    (withC active fun c => { c with fadeLength := 4 }) = some (.ok, {}, [4]) := by decide

/-- R12: the last circuit freed unseats its venue. -/
theorem test_circuitRetire_now : ((after (.circuitRetire x0 (.absolute 0) 0) active).venue 0).state = .waiting ∧
    answerTo (.circuitRetire x0 (.absolute 0) 0) active = some (.ok, {}, [0, 0, 0x80, 0]) := by decide +kernel

theorem test_circuitFind : answerTo (.circuitFind x0 (.keyed 0 10)) active = some (.ok, {}, [0, 0, 0, 10, 1, 1, 2]) := by decide

theorem test_circuitQuery_clear : ((after (.circuitQuery x0 (.absolute 0) 1)
    (withC active fun c => { c with placed := 6 })).circuit 0).placed = 0 := by decide

/-! ### Ports and links -/

/-- R58: enabled with station address 0. -/
theorem test_portSet_bad : answerTo (.portSet x0 1 { noPortSet with enable := some 1 }) active = some (.badValue, {}, []) := by
  decide

theorem test_portSet : ((after (.portSet x0 0 { noPortSet with tagMode := some 1, domain := some (.value 4) })
    active).port 0).domain = some 4 := by decide

theorem test_portQuery : ((after (.portQuery x0 0 1) (active.modPort 0 fun p => { p with taken := 3 })).port 0).taken = 0 := by
  decide

/-- A frame to LP0, untagged, as in section 3.6. -/
def frame (rest : List Byte) : RxFrame := ⟨wireFrame 0x020000000001 0x02AA00000001 [] 0x88B5 rest, true, true⟩

/-- Frame `n` of circuit tag `tag` in domain 4, mono, every sample 0x000102. -/
def audio (tag : Byte) (n : FrameNo) (flags : Byte) : RxFrame :=
  frame (wireVct 1 1 flags 4 0x2A17 tag 1 n 288 0 ++ (List.replicate 96 ([0, 1, 2] : List Byte)).flatten)

/-- Section 4.8 step 1: a seat at T = 480 puts Nr at N − 4 with k = 0. -/
theorem test_frame_seats : ((after (.frameReceived 0 (audio 10 1000 0))
    (withV (base .waiting .armed) fun v => { v with settings := { v.settings with target := 480 } })).venue 0).timebase.phase =
    some ⟨996, 0, 0⟩ := by decide +kernel

/-- Section 4.8 steps 6 and 7: distance 74 in a window of 64 is AHEAD. -/
theorem test_frame_ahead : ((after (.frameReceived 0 (audio 10 1074 0)) active).venue 0).aheadStreak = 1 ∧
    (((after (.frameReceived 0 (audio 10 1074 0)) active).venue 0).health.counter .ahead) = 1 := by decide +kernel

theorem test_transmitComplete : ((after (.transmitComplete 0)
    (active.modPort 0 fun p => { p with queue := [[1], [2]] })).port 0).queue = [[2]] := by decide

theorem test_linkStateChange : ((after (.linkStateChange 0 false)
    (active.modPort 0 fun p => { p with queue := [[1], [2]] })).port 0).dropped = 2 := by decide

/-! ### Windows, timebase, recovery -/

theorem test_windowQuery : ((answerTo (.windowQuery x0 (.absolute 0)) active).map fun a => a.1) = some .ok := by decide

theorem test_referenceQuery : answerTo (.referenceQuery x0) { active with reference := ⟨.freeRun, 5, 0, 258⟩ } =
    some (.ok, {}, [0, 5, 0, 0, 0, 1, 2, 0]) := by decide

/-- 48,000 edges in a second: 20,833,333 ps lies in range, and is the 48th. -/
theorem test_wckEdge : (after (.wckEdge (some 20833333)) { active with reference := ⟨.freeRun, 47, 0, 0⟩ }).reference.state =
    .wck := by decide

theorem test_referenceQualified : (after .referenceQualified { active with reference := ⟨.freeRun, 47, 0, 0⟩ }).reference.state =
    .wck := by decide

theorem test_referenceLoss : (after (.referenceLoss .silence) { active with reference := ⟨.wck, 0, 0, 0⟩ }).refLoss = true := by
  decide

/-- Section 5.7's second case: IMMEDIATE 10,000 under a trim of 16,384. -/
theorem test_venueRate : ((after (.venueRate x0 0 (some 0) { noRate with rate := some 10000 })
    (withV active fun v => { v with timebase := { v.timebase with rhoT := 16384, active := true } })).venue 0).timebase.rhoEff =
    26384 := by decide

/-- Section 5.7: σ = 4,096 and z = 16, a walk toward 20,000. -/
theorem test_venueRateStepped : (((after (.venueRateStepped x0 0 ⟨some 20000, some 4096, some 16, none⟩)
    (withV active fun v => { v with timebase := { v.timebase with rhoP := 0 } })).venue 0).timebase.countdown) = 16 := by decide

theorem test_timebaseCapture : ((answerTo (.timebaseCapture x0 0) active).map fun a => a.2.2.take 11) =
    some [2, 1, 0, 0, 3, 0xE8, 10, 0, 0, 0, 0] := by decide

theorem test_recoveryQuery : ((answerTo (.recoveryQuery x0 0) active).map fun a => a.2.2.take 6) =
    some [2, 1, 0, 0, 3, 0xE8] := by decide

/-- Section 5.3: T = 4,850 gives Nr = N − 50 and k = 46. -/
theorem test_seatPhase : seatPhase 1000 4850 = ⟨950, 46, 0⟩ := by decide

/-- Section 5.4: 48 steps at the rate limit. -/
theorem test_phase_steps : (fun p : Phase => p.step 1073741)^[48] ⟨1000, 10, 0⟩ = ⟨1000, 58, 51539568⟩ := by decide +kernel

/-- Section 5.4: a small negative rate holds k back at the first step. -/
theorem test_phase_step_negative : (⟨2000, 0, 0⟩ : Phase).step (-24576) = ⟨2000, 0, 4294942720⟩ := by decide +kernel

/-- Section 5.5, interval 18: the 16th error within ±48 locks, and the trim is clamped. -/
theorem test_interval_locks : ({ Timebase.free with lockRun := 15, sum := 256 * 4848 }.intervalUpdate 4800).loop = .locked ∧
    ({ Timebase.free with lockRun := 15, sum := 256 * 4848 }.intervalUpdate 4800).rhoT = 1048576 := by decide

/-! ### Slots, foldback, health -/

theorem test_slotAssign : ((after (.slotAssign x0 70 (.channel (.absolute 0) 0)) active).slot 70).source = some ⟨0, 0⟩ := by
  decide

/-- Section 7.7 step 3: a channel not below the circuit's count. -/
theorem test_slotPunch_channel : answerTo (.slotPunch x0 70 (.channel (.absolute 0) 1)) active = some (.badReference, {}, []) := by
  decide

/-- Section 7.7 step 6. -/
theorem test_slotRelease_empty : ((answerTo (.slotRelease x0 70) active).map fun a => a.2.1) = some { empty := true } := by decide

theorem test_slotQuery : answerTo (.slotQuery x0 128) active = some (.badReference, {}, []) := by decide

theorem test_muteModify : answerTo (.muteModify x0 2 0x80000000 2) active = some (.ok, {}, [0x7F, 0xFF, 0xFF, 0xFF]) := by decide +kernel

/-- V0 with its lane enabled and IDLE, TS2, TS7 and TS11 targeting it (section 8.7). -/
def laned (st : LaneState) (last : Option (Fin 16)) : State :=
  (((withV active fun v => { v with lane := { v.lane with enable := true, state := st, lastHolder := last } }).setSource 2
      { Source.reset with targets := 1, lineEnable := true, lineSample := true }).setSource 7
      { Source.reset with targets := 1, lineEnable := true, lineSample := true }).setSource 11
      { Source.reset with targets := 1, softKey := true }

theorem test_sourceSet : ((after (.sourceSet x0 2 (some 0)) (laned (.held 2) (some 2))).venue 0).lane.state = .gap 2 := by decide +kernel

theorem test_sourceKey : ((after (.sourceKey x0 5 9) (laned (.held 2) (some 2))).source 5).remaining = 9 := by decide +kernel

/-- Section 8.7 at 1,030: SOURCE_UNKEY of the holder. -/
theorem test_sourceUnkey : ((after (.sourceUnkey x0 11) (laned (.held 11) (some 11))).venue 0).lane.state = .gap 2 := by decide +kernel

/-- Section 8.7 at 1,025: the holder loses the venue. -/
theorem test_targetModify : ((after (.targetModify x0 7 1 2) (laned (.held 7) (some 7))).venue 0).lane.state = .gap 2 := by decide +kernel

theorem test_laneSet : ((after (.laneSet x0 0 { noLane with enable := some 0 }) (laned (.held 7) (some 7))).venue 0).lane.state =
    .idle := by decide

/-- Section 8.7 at 1,020: the waiting list runs TS11, TS2. -/
theorem test_laneQuery : ({ laned (.held 7) (some 7) with arbiter := .rotating }).waiting 0 = [11, 2] ∧
    ((answerTo (.laneQuery x0 0) (laned (.held 7) (some 7))).map fun a => a.1) = some .ok := by decide

theorem test_arbiterMode : (after (.arbiterMode x0 1) active).arbiter = .rotating := by decide

theorem test_alarmEnable : ((after (.alarmEnable x0 ⟨some 3, some 0, some 0x0401, some 1, some 3⟩) active).venue 0).health.threshold =
    3 := by decide

theorem test_attentionRead : (after (.attentionRead x0 1) { active with refLoss := true }).refLoss = false := by decide

theorem test_healthRead : ((after (.healthRead x0 0 1) (withV active fun v =>
    { v with health := { v.health with degraded := true, windowCount := 3 } })).venue 0).health =
    { Health.reset with windowCount := 3 } := by decide

/-- Section 9.7 at 61,010: the LATE report is counted, captured, and counted in the window. -/
theorem test_health_late : ({ Health.reset with captureEnable := 0x4401, rateEnable := 1, threshold := 3 }.take
      ⟨.late, some 40, some 90001, some 2⟩ 61010).capture = some ⟨.late, some 40, some 90001, some 2, 61010⟩ := by decide

/-! ### Playout (section 7.1) -/

theorem test_interpolate : interpolate 1000000 1010000 786 = 1000120 ∧ interpolate 400000 180000 16384 = 345000 := by decide

theorem test_scaled : scaled 1000120 16383 = 4000236 ∧ scaled 3000000 16383 = 8388607 ∧ (scaled (-1000003) 2048).toInt = -500001 := by
  decide

/-! ### The block boundary and the events within it -/

def allLater : BoundaryArgs := ⟨4, Vector.replicate 48 [], [], worksOf 1⟩

theorem test_blockBoundary : (after (.blockBoundary allLater) active).reference.blockCount = 1 ∧
    (after (.blockBoundary allLater) active).keyLow = 4 := by decide +kernel

def dueNow (w : Work) (s : State) : State := { s with due := [w] }

theorem test_intervalUpdate : ((after (.intervalUpdate 0) (dueNow (.venueStep 0) (withV active fun v =>
    { v with newest := some 1049, timebase := { v.timebase with count := 255 } }))).venue 0).timebase.count = 0 := by decide +kernel

/-- Section 5.7 at b + 80: the last step is 3,616. -/
theorem test_schedulerStep : ((after (.schedulerStep 0) (dueNow (.venueStep 0) (withV active fun v =>
    { v with timebase := { v.timebase with rhoP := 16384, rhoT := 16384, active := true, rhoCmd := 20000, countdown := 1 } }))).venue
      0).timebase.rhoEff = 36384 := by decide +kernel

/-- Section 2.12 at 900,004: freed at r = 0. -/
theorem test_fadeEnd : (after (.fadeEnd 0) (dueNow (.venueStep 0) (withC (base .active .closing) fun c =>
    { c with fadeLength := 4, fade := 1 }))).circuit 0 = Circuit.free := by decide +kernel

/-- R128: a slot that the ended fade fed falls back, and the venue step of the fallback's venue leaves the ramp's block. -/
theorem test_fadeEnd_fallback : let sl := (after (.fadeEnd 0) ((dueNow (.venueStep 0) (withC (base .active .closing) fun c =>
      { c with fadeLength := 4, fade := 1 })).setSlot 3
        { Slot.reset with source := some ⟨0, 0⟩, stack := [⟨5, 1⟩], muted := false })).slot 3
    sl.source = some ⟨5, 1⟩ ∧ sl.fellBack = some ⟨5, 1⟩ ∧ (sl.staged[0]).isSome = true ∧ sl.stage [5] [] 0 = sl := by
  decide +kernel

/-- Section 2.13 at b + 4: LOST with h = 0. -/
theorem test_terminalCount : ((after (.terminalCount 0) (dueNow (.holdoverCountdown 0) (withC (base .active .concealing) fun c =>
    { c with hold := 1 }))).circuit 0).state = .lost := by decide

theorem test_venueLossExpiry : ((after (.venueLossExpiry 0) (dueNow (.holdoverCount 0) (withV (base .holdover .running) fun v =>
    { v with holdoverElapsed := 9999 }))).venue 0).state = .waiting := by decide

theorem test_announceExpiry : ((after (.announceExpiry 0) (dueNow (.announceAge 0) (withV active fun v =>
    { v with announceAge := some 4999 }))).venue 0).announceAge = none := by decide

/-- 100 ms without a frame on the only path. -/
theorem test_pathTimeout : ((after (.pathTimeout 0 .a) (dueNow (.pathTimeout 0 .a)
    { active with reference := ⟨.freeRun, 0, 0, 100⟩ })).venue 0).state = .holdover := by decide

/-- An entry 39 frames ahead of Nr is too late for R = 40. -/
theorem test_reorderAllowance : ((after (.reorderAllowanceExpiry 0 0 1039) (dueNow (.requestPass 0)
    (withV { active with reference := ⟨.freeRun, 0, 0, 3⟩ } fun v => { v with recovery := [⟨0, 1039, 0, 0, none⟩] }))).venue
      0).health.counter .tooLate = 1 := by decide

theorem test_softwareKeyExpiry : ((after (.softwareKeyExpiry 5) (dueNow .foldbackStep ({ active with
    reference := ⟨.freeRun, 0, 0, 1⟩ }.setSource 5 { Source.reset with softKey := true, remaining := 1 }))).source 5).softKey =
    false := by decide

/-- Section 8.7 at 1,027: the order from TS8 gives the lane to TS11. -/
theorem test_gapEnd : ((after (.gapEnd 0) (dueNow .foldbackStep ({ laned (.gap 1) (some 7) with
    arbiter := .rotating, keyLow := 0x84, reference := ⟨.freeRun, 0, 0, 1⟩ }))).venue 0).lane.state = .held 11 := by decide

theorem test_degradeWindowRestart : ((after .degradeWindowRestart (dueNow .windowRestart (withV active fun v =>
    { v with health := { v.health with windowCount := 4 } }))).venue 0).health.windowCount = 0 := by decide +kernel

/-! ### Witnesses: the hypotheses of every statement can be met, for each clause -/

/-- Every venue but V0 and every circuit but C0 is FREE. -/
def Small (s : State) : Prop := (∀ v, v ≠ 0 → s.venue v = Venue.free) ∧ ∀ c, c ≠ 0 → s.circuit c = Circuit.free

theorem reset_venue (v : Fin 24) : State.reset.venue v = Venue.free := by
  simp [State.venue, State.reset]

theorem reset_circuit (c : Fin 128) : State.reset.circuit c = Circuit.free := by
  simp [State.circuit, State.reset]

theorem small_base (vs : VenueState) (cs : CircuitState) : Small (base vs cs) := by
  constructor
  · intro v hv
    exact (State.setVenue_venue_of_ne _ _ _ _ hv).trans (reset_venue v)
  · intro c hc
    exact (State.setCircuit_circuit_of_ne _ _ _ _ hc).trans (reset_circuit c)

theorem small_withV {s : State} (h : Small s) (f : Venue → Venue) : Small (withV s f) :=
  ⟨fun v hv => (State.setVenue_venue_of_ne _ _ _ _ hv).trans (h.1 v hv), h.2⟩

theorem small_withC {s : State} (h : Small s) (f : Circuit → Circuit) : Small (withC s f) :=
  ⟨h.1, fun c hc => (State.setCircuit_circuit_of_ne _ _ _ _ hc).trans (h.2 c hc)⟩

theorem small_due {s : State} {w : Work} (h : Small s) : Small (dueNow w s) := h

theorem small_setSlot {s : State} {i : Fin 128} {x : Slot} (h : Small s) : Small (s.setSlot i x) := h

theorem small_setSource {s : State} {n : Fin 16} {x : Source} (h : Small s) : Small (s.setSource n x) := h

theorem small_lists {s : State} (h : Small s) (hl : (s.venue 0).circuits = [0]) (ho : (s.venue 0).state ≠ .free)
    (hc : (s.circuit 0).state ≠ .free) (hv : (s.circuit 0).venue = some 0) : ListLaw s := by
  refine ⟨fun v => ?_, fun v c => ?_, fun v hf => ?_⟩
  · by_cases e : v = 0
    · subst e; rw [hl]; decide
    · rw [h.1 v e]; decide
  · by_cases e : v = 0
    · subst e; rw [hl]
      by_cases d : c = 0
      · subst d; simp [hc, hv]
      · simp [h.2 c d, Circuit.free, d]
    · rw [h.1 v e]
      by_cases d : c = 0
      · subst d; simp [Venue.free, hv]; intro _ x; exact e x.symm
      · simp [h.2 c d, Circuit.free, Venue.free]
  · by_cases e : v = 0
    · subst e; exact absurd hf ho
    · rw [h.1 v e]; rfl

theorem small_keys {s : State} (h : Small s) (hk : (s.venue 0).key ≠ 0) : KeyLaw s := by
  have free : ∀ v, (s.venue v).isOpen = true → v = 0 := by
    intro v hv
    by_cases e : v = 0
    · exact e
    · rw [h.1 v e] at hv; exact absurd hv (by decide)
  exact ⟨fun u v hu hv _ => (free u hu).trans (free v hv).symm, fun v hv => free v hv ▸ hk⟩

theorem small_windows {s : State} (h : Small s) (hw : (s.circuit 0).WindowLaw) : WindowLaw s := by
  intro c
  by_cases e : c = 0
  · subst e; exact hw
  · rw [h.2 c e]; exact ⟨List.Pairwise.nil, fun y hy => absurd hy (by simp [Circuit.free])⟩

theorem taken (s : State) (h : s.resetLow = false) : Taken x0 s := ⟨h, rfl⟩

theorem base_lists (vs : VenueState) (cs : CircuitState) (hv : vs ≠ .free) (hc : cs ≠ .free) :
    ListLaw (base vs cs) := small_lists (small_base vs cs) rfl hv hc rfl

theorem base_keys (vs : VenueState) (cs : CircuitState) : KeyLaw (base vs cs) :=
  small_keys (small_base vs cs) (show (0x2A17 : BitVec 16) ≠ 0 by decide)

theorem others_free (vs : VenueState) (cs : CircuitState) (v : Fin 24) (h : ((base vs cs).venue v).state ≠ .free) : v = 0 := by
  by_cases e : v = 0
  · exact e
  · rw [(small_base vs cs).1 v e] at h; exact absurd rfl h

/-! Control port, queries, device commands -/

theorem witness_StepTakesFrontCommand : (dueNow .foldbackStep active).pending = [] ∧
    (dueNow .foldbackStep active).due = [.foldbackStep] ∧ active.due = [] := ⟨rfl, rfl, rfl⟩

theorem witness_EveryRequestHoldsOneResponse : Taken x0 active := taken _ rfl

theorem witness_EveryRequestHoldsOneResponse_length :
    Taken x0 active ∧ 252 < (List.replicate 253 (0 : Byte)).length ∧ (6 : BitVec 16).toNat ≠ [(0 : Byte)].length :=
  ⟨taken _ rfl, by rw [List.length_replicate]; decide, by decide⟩

theorem witness_EveryRequestHoldsOneResponse_code :
    Taken x0 active ∧ ([] : List Byte).length ≤ 252 ∧ (0 : BitVec 16).toNat = ([] : List Byte).length ∧
      (0x67 : Byte).toNat ∉ [0x01, 0x02, 0x10, 0x11, 0x12, 0x13, 0x20, 0x21, 0x22, 0x23, 0x24, 0x25, 0x26, 0x30,
        0x31, 0x38, 0x40, 0x41, 0x42, 0x48, 0x50, 0x51, 0x52, 0x53, 0x54, 0x60, 0x61, 0x62, 0x63, 0x64,
        0x65, 0x66, 0x70, 0x71, 0x72] := ⟨taken _ rfl, by decide, by decide, by decide⟩

theorem witness_WrittenRequestReadsBack : (Instr.sourceKey x0 11 258).wellFormed = true ∧
    (Instr.sourceKey x0 11 258).transfer = some x0 ∧
    writeRequest (.sourceKey x0 11 258) = some (0x61, [11, 0x01, 0x02]) := by decide

theorem witness_HardwareResetAndDeviceClear : Taken x0 active := taken _ rfl

theorem witness_IdentifyReportsThePart : Taken x0 active := taken _ rfl

theorem witness_QueriesAnswerAndChangeNothing : Taken x0 active ∧ active.resolve (.absolute 0) = some 0 ∧
    active.resolve (.absolute 1) = none ∧ active.resolve (.badForm 3 0 0) = none ∧ 24 ≤ 24 ∧ 128 ≤ 128 :=
  ⟨taken _ rfl, by decide, by decide, by decide, by decide, by decide⟩

/-- The helpers the statement speaks of, and a venue of each kind. -/
theorem witness_ReportsCarryTheirFields : (∃ flag : Bool → List Byte, ∀ b, flag b = [if b then 1 else 0]) ∧
    (∃ seq : Option (BitVec 32) → List Byte, ∀ n, seq n = match n with | none => [0, 0, 0, 0, 0] | some k => 1 :: be 4 k.toNat) ∧
    (∃ index : {n : Nat} → Option (Fin n) → List Byte, ∀ (n : Nat) (i : Option (Fin n)), index i =
      match i with | none => [255] | some k => be 1 k.val) ∧
    (∃ rate : Int → List Byte, ∀ r, rate r = be 4 (r % 4294967296).toNat) ∧ (active.venue 0).state ≠ .free ∧
    (active.venue 0).timebase.phase = some ⟨1000, 10, 0⟩ ∧ (active.venue 1).state = .free :=
  ⟨⟨_, fun _ => rfl⟩, ⟨_, fun _ => rfl⟩, ⟨fun i => match i with | none => [255] | some k => be 1 k.val, fun _ _ => rfl⟩,
    ⟨_, fun _ => rfl⟩, by decide, by decide, by decide⟩

theorem witness_ReferenceQueryReports : Taken x0 active := taken _ rfl

theorem witness_CircuitFindAndRecordReads_find : Taken x0 active ∧ ListLaw active ∧ (active.venue 0).circuits[0]? = some 0 ∧
    (active.circuit 0).tag = some 10 ∧ 10 ≤ 254 ∧
    (∀ d ∈ (active.venue 0).circuits, (active.circuit d).tag = some 10 → d = 0) ∧
    active.resolve (.venueRelative 0 1) = none :=
  ⟨taken _ rfl, base_lists _ _ (by decide) (by decide), by decide, by decide, by decide, by decide, by decide⟩

theorem witness_CircuitFindAndRecordReads_clear : Taken x0 active ∧ active.resolve (.keyed 0 10) = some 0 ∧
    active.resolve (.keyed 0 11) = none ∧ 2 ≤ 2 ∧ 4 ≤ 4 := ⟨taken _ rfl, by decide, by decide, by decide, by decide⟩

theorem witness_HealthCommandsReadAndStore_reads : Taken x0 active ∧ (active.venue 0).state ≠ .free ∧
    (active.venue 1).state = .free ∧ 24 ≤ 24 ∧ 2 ≤ 2 := ⟨taken _ rfl, by decide, by decide, by decide, by decide⟩

/-! Venues -/

theorem witness_VenueOpenSetsUpLowestFreeRecord :
    Taken x0 active ∧ (0x3100 : BitVec 16) ≠ 0 ∧ some (1 : Nat) = some ((1 : Fin 4).val) ∧
    (none : Option Nat) = (none : Option (Fin 4)).map (fun p => p.val) ∧ (none : Option (Fin 4)) ≠ some 1 ∧
    (∀ w, (active.venue w).state ≠ .free → (active.venue w).key ≠ 0x3100) ∧ (active.venue 1).state = .free ∧
    (∀ w : Fin 24, w < 1 → (active.venue w).state ≠ .free) := by
  refine ⟨taken _ rfl, by decide, rfl, rfl, by decide, fun w hw => ?_, by decide, by decide⟩
  rw [others_free _ _ w hw]; decide

theorem witness_RefusalsInOrderOfChecks_venue_values : Taken x0 active ∧ ({ noOpen with key := 0 } : VenueOpenArgs).key = 0 ∧
    ({ noOpen with portA := none } : VenueOpenArgs).portA = none ∧ 3 < 4 ∧
    ({ noOpen with portB := some 0 } : VenueOpenArgs).portA = ({ noOpen with portB := some 0 } : VenueOpenArgs).portB :=
  ⟨taken _ rfl, rfl, rfl, by decide, rfl⟩

theorem witness_RefusalsInOrderOfChecks_venue_duplicate : Taken x0 active ∧ noOpen.key ≠ 0 ∧ noOpen.portA = some ((0 : Fin 4).val) ∧
    noOpen.portB = (none : Option (Fin 4)).map (fun p => p.val) ∧
    ((active.venue 0).state ≠ .free ∧ (active.venue 0).key = noOpen.key) :=
  ⟨taken _ rfl, by decide, rfl, rfl, by decide, rfl⟩

/-- Every venue record open, with another key than 0x3100. -/
def full : State := { State.reset with venues := Vector.replicate 24 (venue0 .waiting) }

theorem witness_RefusalsInOrderOfChecks_venue_full : Taken x0 full ∧
    ∀ w, (full.venue w).state ≠ .free ∧ (full.venue w).key ≠ 0x3100 := by
  refine ⟨taken _ rfl, fun w => ?_⟩
  have e : full.venue w = venue0 .waiting := by simp [State.venue, full]
  rw [e]; decide

theorem witness_RefusalsInOrderOfChecks_circuit : Taken x0 active ∧ 24 ≤ 24 ∧ (active.venue 1).state = .free ∧
    (active.venue 0).state ≠ .free ∧ (∀ e ∈ (active.venue 0).announced, e.tag ≠ 10) ∧
    (4 : Nat) ∉ [1, 2, 3] ∧ (3 : Nat) ∉ [1, 2] ∧ (65 : Nat) ∉ [64, 128, 256, 512] :=
  ⟨taken _ rfl, by decide, by decide, by decide, by decide, by decide, by decide, by decide⟩

theorem witness_RefusalsInOrderOfChecks_circuit_target : (64 - 4) * 96 <
    ((withV active fun v => { v with settings := { v.settings with target := 5761 } }).venue 0).settings.target := by decide

theorem witness_RefusalsInOrderOfChecks_circuit_duplicate : 10 ≠ 255 ∧ (1 : Nat) ∈ [1, 2, 3] ∧ (1 : Nat) ∈ [1, 2] ∧
    64 ∈ [64, 128, 256, 512] ∧ (active.venue 0).settings.target ≤ (64 - 4) * 96 ∧
    (∃ d ∈ (active.venue 0).circuits, (active.circuit d).tag = some 10) := by decide +kernel

theorem witness_RefusalsInOrderOfChecks_circuit_capacity :
    (∀ d ∈ (active.venue 0).circuits, (active.circuit d).tag ≠ some 20) ∧
    8 ≤ ((withV active fun v => { v with circuits := List.replicate 8 0 }).venue 0).circuits.length ∧
    ({ active with poolFree := 127 } : State).poolFree < 2 * 64 := by decide

theorem witness_VenueSetStoresSettings : Taken x0 active ∧ (active.venue 0).state ≠ .free ∧
    noVenueSet.portA = none ∧ noVenueSet.portB = none ∧ noVenueSet.key ≠ some 0 ∧
    (active.venue 0).pathA.port ≠ (active.venue 0).pathB.port ∧
    (∀ w, w ≠ 0 → (active.venue w).state ≠ .free → (active.venue w).key ≠ 0x3100) ∧
    (∃ c ∈ (active.venue 0).circuits, 5760 = min 48768 (((active.circuit c).window - 4) * 96)) ∧
    (∀ c ∈ (active.venue 0).circuits, 5760 ≤ ((active.circuit c).window - 4) * 96) := by
  refine ⟨taken _ rfl, by decide, rfl, rfl, by decide, by decide, fun w hw ho => ?_, by decide +kernel, by decide +kernel⟩
  exact absurd (others_free _ _ w ho) hw

theorem witness_VenueSetStoresSettings_empty :
    ((withV active fun v => { v with circuits := [] }).venue 0).circuits = [] := by decide

/-- The only path of V0 moved to LP1 (its last UP path is gone), and a path B bound beside it. -/
theorem witness_VenueSetRebindsPaths : Taken x0 active ∧ (active.venue 0).state = .active ∧
    (active.venue 0).pathA.port = some 0 ∧ (active.venue 0).pathB.port = none ∧ (none : Option (Fin 4)) ≠ some 1 ∧
    (active.venue 0).pathB.state ≠ .up ∧
    ({ port := some 1, state := .down, lastArrival := none, reply := none } : Path) ≠ (active.venue 0).pathA ∧
    (some 1 : Option (Fin 4)) ≠ some 0 ∧ (active.venue 0).pathA.state = .up ∧
    (active.venue 0).health.counter .cancelled ≤ 65535 :=
  ⟨taken _ rfl, by decide, by decide, by decide, by decide, by decide, by decide, by decide, by decide, by decide⟩

theorem witness_RefusalsInOrderOfChecks_venue_set : Taken x0 active ∧ 24 ≤ 24 ∧ (active.venue 1).state = .free ∧
    (active.venue 0).state ≠ .free ∧ ({ noVenueSet with key := some 0 } : VenueSetArgs).key = some 0 ∧
    ({ noVenueSet with portA := some none } : VenueSetArgs).portA = some none ∧ 3 < 4 ∧
    (active.venue 0).pathA.port = some 0 ∧ 2 ≤ 2 ∧ (active.venue 0).circuits ≠ [] ∧
    ((withV active fun v => { v with circuits := [] }).venue 0).circuits = [] :=
  ⟨taken _ rfl, by decide, by decide, by decide, rfl, rfl, by decide, by decide, by decide, by decide, by decide⟩

/-- V1 open beside V0, with its key taken by the request. -/
theorem witness_RefusalsInOrderOfChecks_venue_key : ∀ s : State, s = active.setVenue 1 { venue0 .waiting with key := 0x3100 } →
    (s.venue 0).pathA.port ≠ (s.venue 0).pathB.port ∧ (1 : Fin 24) ≠ 0 ∧ (s.venue 1).state ≠ .free ∧
    (s.venue 1).key = 0x3100 := by
  rintro s rfl; decide

theorem witness_VenueRetireFreesRecord_empty : Taken x0 active ∧ (active.venue 0).state ≠ .free ∧
    (active.venue 0).circuits ≠ [] ∧
    ((withV active fun v => { v with circuits := [] }).venue 0).state ≠ .free ∧
    ((withV active fun v => { v with circuits := [] }).venue 0).circuits = [] :=
  ⟨taken _ rfl, by decide, by decide, by decide, by decide⟩

theorem witness_VenueRetireFreesRecord_force : Taken x0 active ∧ ListLaw active ∧ (active.venue 0).state ≠ .free :=
  ⟨taken _ rfl, base_lists _ _ (by decide) (by decide), by decide⟩

/-! Circuits -/

theorem witness_CircuitOpenTakesRecordAndUnits_direct : Taken x0 active ∧ (active.venue 0).state ≠ .free ∧ 20 ≠ 255 ∧
    64 ∈ [64, 128, 256, 512] ∧ (active.venue 0).settings.target ≤ (64 - 4) * 96 ∧
    OpenForm.direct 2 2 = .direct (kindCode .crowd) 2 ∧
    (∀ d ∈ (active.venue 0).circuits, (active.circuit d).tag ≠ some 20) ∧ (active.venue 0).circuits.length < 8 ∧
    2 * 64 ≤ active.poolFree ∧ (active.circuit 1).state = .free ∧
    (∀ d : Fin 128, d < 1 → (active.circuit d).state ≠ .free) := by
  refine ⟨taken _ rfl, by decide, by decide, by decide, by decide, rfl, by decide, by decide, by decide, by decide, fun d hd => ?_⟩
  have e : d = 0 := Fin.ext (by have := Fin.lt_def.mp hd; simp at this; simpa using this)
  rw [e]; decide

theorem witness_CircuitOpenTakesRecordAndUnits_announced :
    ((withV active fun v => { v with announced := [⟨20, .crowd, 2⟩] }).venue 0).announced.find? (fun e => e.tag == 20) =
      some ⟨20, .crowd, 2⟩ := by decide

theorem witness_CircuitSettingsFollowCommands_set : Taken x0 active ∧ active.resolve (.absolute 1) = none ∧
    active.resolve (.absolute 0) = some 0 ∧ (active.circuit 0).state ≠ .closing ∧
    (base .active .closing).resolve (.absolute 0) = some 0 ∧ ((base .active .closing).circuit 0).state = .closing ∧
    (∀ k, ({ noCircuitSet with autoRearm := some 1 } : CircuitSetArgs).autoRearm = some k → k ≤ 1) :=
  ⟨taken _ rfl, by decide, by decide, by decide, by decide, by decide, fun k hk => by cases hk; decide⟩

theorem witness_CircuitSettingsFollowCommands_trim : Taken x0 active ∧ active.resolve (.absolute 1) = none ∧
    active.resolve (.absolute 0) = some 0 ∧ (active.circuit 0).state ≠ .closing ∧
    (base .active .closing).resolve (.absolute 0) = some 0 ∧ ((base .active .closing).circuit 0).state = .closing :=
  ⟨taken _ rfl, by decide, by decide, by decide, by decide, by decide⟩

theorem witness_CircuitSettingsFollowCommands_rearm : Taken x0 active ∧ active.resolve (.absolute 1) = none ∧
    ∀ cs ∈ [CircuitState.closing, .lost, .concealing, .armed, .running],
      (base .active cs).resolve (.absolute 0) = some 0 ∧ ((base .active cs).circuit 0).state = cs :=
  ⟨taken _ rfl, by decide, by decide⟩

theorem witness_CircuitRetireFreesOrFades : Taken x0 active ∧ ListLaw active ∧ (active.circuit 0).venue = some 0 ∧
    1 ≤ (active.circuit 0).fadeLength ∧
    ((withC active fun c => { c with fadeLength := 0 }).circuit 0).fadeLength = 0 ∧
    ∀ cs ∈ [CircuitState.closing, .running, .concealing, .armed, .lost],
      (base .active cs).resolve (.absolute 0) = some 0 ∧ ((base .active cs).circuit 0).state = cs :=
  ⟨taken _ rfl, base_lists _ _ (by decide) (by decide), by decide, by decide, by decide, by decide⟩

/-- The only circuit of a seated venue, and a circuit of a WAITING one. -/
theorem witness_CircuitRetireFreesOrFades_last : (active.venue 0).circuits = [0] ∧ (active.venue 0).state = .active ∧
    ListLaw (base .waiting .armed) ∧ ((base .waiting .armed).circuit 0).venue = some 0 ∧
    ¬ (((base .waiting .armed).venue 0).state = .active ∨ ((base .waiting .armed).venue 0).state = .holdover) :=
  ⟨by decide, by decide, base_lists _ _ (by decide) (by decide), by decide, by decide⟩

/-- Section 7.7, "A full stack": circuit 15 is freed under slot 71; two references are removed. -/
theorem test_dropped : let sl := { Slot.reset with
      source := some ⟨15, 0⟩, stack := [⟨12, 0⟩, ⟨13, 0⟩, ⟨13, 1⟩, ⟨15, 0⟩] }
    (sl.dropCircuit 15).source = some ⟨12, 0⟩ ∧ (sl.dropCircuit 15).stack = [⟨13, 0⟩, ⟨13, 1⟩] ∧ sl.references 15 = 2 := by
  decide

/-! Ports, rates, slots -/

theorem witness_PortSetStoresSettings_refused : Taken x0 active ∧ 4 ≤ 4 ∧ (0x05FF : BitVec 16).toNat < 0x0600 ∧ 2 < 3 ∧
    255 < 256 ∧ (0x010000000001 : BitVec 48).getLsbD 40 = true ∧
    (({ noPortSet with enable := some 1 } : PortSetArgs).enable = some 1 ∧
      ({ noPortSet with enable := some 1 } : PortSetArgs).address.getD (active.port 1).address = 0) :=
  ⟨taken _ rfl, by decide, by decide, by decide, by decide, by decide, by decide⟩

def portArgs : PortSetArgs := ⟨some 0, none, some 0x0600, some 2, some (.value 255)⟩

theorem witness_PortSetStoresSettings_stored :
    (∀ e, portArgs.etherType = some e → 0x0600 ≤ e.toNat ∧ e ≠ 0x8100 ∧ e ≠ 0x88A8) ∧
    (∀ m, portArgs.tagMode = some m → m ≤ 2) ∧ (∀ d, portArgs.domain = some d → d = .off ∨ ∃ k ≤ 255, d = .value k) ∧
    (∀ m, portArgs.address = some m → m.getLsbD 40 = false) ∧ (∀ k, portArgs.enable = some k → k ≤ 1) ∧
    (((portArgs.enable = none ∧ (active.port 0).enable = true) ∨ portArgs.enable = some 1) →
      portArgs.address.getD (active.port 0).address ≠ 0) ∧ (active.port 0).enable = true := by
  simp [portArgs]; decide

theorem witness_VenueRateSetsRates_immediate : Taken x0 active ∧ (none : Option Nat) ≠ some 1 ∧ some 0 ≠ some 1 ∧ 24 ≤ 24 ∧
    (active.venue 1).state = .free ∧ (active.venue 0).state ≠ .free ∧ 2 ≤ 2 ∧
    ({ noRate with rate := some 5 } : RateArgs).rate ≠ none ∧ noRate.rate = none ∧
    (∀ k, ({ noRate with frozen := some 2 } : RateArgs).frozen = some k → k ≤ 2) :=
  ⟨taken _ rfl, by decide, by decide, by decide, by decide, by decide, by decide, by decide, rfl,
    fun k h => by cases h; decide⟩

theorem witness_VenueRateSetsRates_stepped : Taken x0 active ∧ (∀ k, some 2 = some k → k ≤ 2) ∧
    (active.venue 1).state = .free ∧ ((base .waiting .armed).venue 0).state = .waiting ∧
    (active.venue 0).state = .active ∧ ((base .holdover .armed).venue 0).state = .holdover :=
  ⟨taken _ rfl, fun k h => by cases h; decide, by decide, by decide, by decide, by decide⟩

theorem witness_RefusalsInOrderOfChecks_slots : Taken x0 active ∧ 128 ≤ 128 ∧ active.resolve (.absolute 1) = none ∧
    active.resolve (.absolute 0) = some 0 ∧ (active.circuit 0).channels ≤ 1 ∧
    (base .active .closing).resolve (.absolute 0) = some 0 ∧ 0 < ((base .active .closing).circuit 0).channels ∧
    ((base .active .closing).circuit 0).state = .closing :=
  ⟨taken _ rfl, by decide, by decide, by decide, by decide, by decide, by decide, by decide⟩

theorem witness_SlotAssignAndRelease : Taken x0 active ∧ active.resolve (.absolute 0) = some 0 ∧
    0 < (active.circuit 0).channels ∧ (active.circuit 0).state ≠ .closing ∧ (active.slot 0).stack = [] ∧
    ((active.setSlot 0 { Slot.reset with stack := [⟨0, 0⟩] }).slot 0).stack = [⟨0, 0⟩] :=
  ⟨taken _ rfl, by decide, by decide, by decide, by decide, by decide⟩

theorem witness_SlotPunchPushesOldSource : Taken x0 active ∧ active.resolve (.absolute 0) = some 0 ∧
    0 < (active.circuit 0).channels ∧ (active.circuit 0).state ≠ .closing ∧ (active.slot 0).source = none ∧
    (active.slot 0).stack.length ≤ 4 ∧
    ((active.setSlot 0 { Slot.reset with source := some ⟨0, 0⟩, stack := [⟨0, 0⟩, ⟨0, 0⟩, ⟨0, 0⟩] }).slot 0).stack.length ≤ 3 ∧
    ((active.setSlot 0 { Slot.reset with source := some ⟨0, 0⟩, stack := [⟨0, 0⟩, ⟨0, 0⟩, ⟨0, 0⟩, ⟨0, 0⟩] }).slot 0).stack =
      [⟨0, 0⟩, ⟨0, 0⟩, ⟨0, 0⟩, ⟨0, 0⟩] :=
  ⟨taken _ rfl, by decide, by decide, by decide, by decide, by decide, by decide, by decide⟩

theorem witness_MuteModifyChangesOneBus : Taken x0 active ∧ 4 ≤ 4 ∧ 3 ≤ 3 ∧ 2 ≤ 2 :=
  ⟨taken _ rfl, by decide, by decide, by decide⟩

/-! Foldback, health, transactions -/

theorem witness_SourceCommandsChangeTheirSource : Taken x0 active ∧ (1 : Nat) ≤ 1 ∧
    ((laned .idle none).source 11).softKey = true ∧ ((laned .idle none).source 2).softKey = false ∧
    (∀ v : Fin 24, (1 : BitVec 24).getLsbD v.val = true → (active.venue v).state ≠ .free) ∧
    ((laned (.held 11) (some 11)).source 11).wants 0 = true ∧
    ({ (laned (.held 11) (some 11)).source 11 with softKey := false, remaining := 0 } : Source).wants 0 = false ∧
    ((laned (.held 11) (some 11)).venue 0).lane.state = .held 11 := by
  refine ⟨taken _ rfl, by decide, by decide, by decide, fun v hv => ?_, by decide, by decide, by decide⟩
  have e : v = 0 := by revert v; decide
  rw [e]; decide

/-- V0's lane enabled and IDLE, TS5 targeting it. -/
def idleLane : State :=
  (withV active fun v => { v with lane := { v.lane with enable := true } }).setSource 5 { Source.reset with targets := 1 }

/-- A source that begins to ask for an IDLE lane no other source asks for. -/
theorem witness_SourceCommandsChangeTheirSource_grant :
    (idleLane.source 5).wants 0 = false ∧ ({ idleLane.source 5 with softKey := true, remaining := 9 } : Source).wants 0 = true ∧
    (idleLane.venue 0).lane.enable = true ∧ (idleLane.venue 0).lane.state = .idle ∧
    ∀ k, k ≠ 5 → (idleLane.source k).wants 0 = false := by decide

theorem witness_SourceCommandsChangeTheirSource_targets : Taken x0 active ∧ 3 ≤ 3 ∧ 16 ≤ 16 ∧ (2 : BitVec 24).getLsbD (1 : Fin 24).val = true ∧
    (active.venue 1).state = .free ∧ 1 ≤ 1 := ⟨taken _ rfl, by decide, by decide, by decide, by decide, by decide⟩

theorem witness_LaneSetAndArbiterMode : Taken x0 active ∧ 24 ≤ 24 ∧ (active.venue 1).state = .free ∧
    (active.venue 0).state ≠ .free ∧ 15 < 16 ∧ 31 < 32 ∧
    (∀ k, ({ noLane with cleanSlot := some (some 31) } : LaneSetArgs).cleanSlot = some (some k) → 16 ≤ k ∧ k ≤ 31) ∧
    (∀ k, ({ noLane with enable := some 1 } : LaneSetArgs).enable = some k → k ≤ 1) ∧
    (active.venue 0).lane.enable = false ∧ (∀ n, (active.source n).wants 0 = false) ∧
    ((laned .idle none).venue 0).lane.enable = true :=
  ⟨taken _ rfl, by decide, by decide, by decide, by decide, by decide, fun k h => by cases h; decide,
    fun k h => by cases h; decide, by decide, by decide, by decide⟩

/-- TS5 keyed and targeting V0. -/
def keyed5 : State := active.setSource 5 { Source.reset with targets := 1, softKey := true }

theorem witness_LaneSetAndArbiterMode_grant : (keyed5.venue 0).lane.enable = false ∧ (keyed5.source 5).wants 0 = true ∧
    ∀ k, k ≠ 5 → (keyed5.source k).wants 0 = false := by decide

theorem witness_LaneSetAndArbiterMode_arbiter : Taken x0 active ∧ 2 ≤ 2 := ⟨taken _ rfl, by decide⟩

theorem witness_HealthCommandsReadAndStore_alarm : Taken x0 active ∧ 24 ≤ 24 ∧ (active.venue 1).state = .free ∧
    ({ noAlarm with threshold := some 3 } : AlarmArgs).venue = none ∧
    ({ noAlarm with threshold := some 3 } : AlarmArgs).threshold ≠ none ∧
    (31 : BitVec 8).toNat < 32 ∧ 32 ≤ (32 : BitVec 8).toNat ∧ 32768 ≤ (32768 : BitVec 16).toNat ∧
    (32767 : BitVec 16).toNat < 32768 ∧ (active.venue 0).state ≠ .free :=
  ⟨taken _ rfl, by decide, by decide, rfl, by decide, by decide, by decide, by decide, by decide, by decide⟩

theorem witness_ControlPortTransactions : active.resetLow = false ∧ active.control.held = none ∧
    ({ active with control := { active.control with held := some Response.absent } } : State).control.held = some Response.absent ∧
    5 < 6 + Response.absent.body.length ∧ 6 + Response.absent.body.length ≤ 6 ∧ 7 < 8 ∧ 8 ≤ 8 ∧
    ((9 : Byte) ≠ 1 ∧ (9 : Byte) ≠ 2 ∧ (9 : Byte) ≠ 3) ∧ ([0, 0, 0] : List Byte).length < 4 ∧
    ({ active with resetLow := true } : State).resetLow = true := by decide


/-! Frames -/

/-- What the ports make of `audio 10 1010 flags`. -/
def heard (restart : Bool) : VctIn where
  audio := true
  repair := false
  restart := restart
  domain := 4
  key := 0x2A17
  tag := 10
  channels := 1
  frame := 1010
  entries := 0
  payload := (List.replicate 96 ([0, 1, 2] : List Byte)).flatten
  address := 0x02AA00000001
  tags := []

theorem read_plain : readFrame port0 (audio 10 1010 0) = .vct (heard false) := by decide +kernel

theorem read_restart : readFrame port0 (audio 10 1010 2) = .vct (heard true) := by decide +kernel

/-- Two entries: tag 10, COMMENTARY, mono, and tag 11, CROWD, stereo. -/
def announce : RxFrame := frame (wireVct 1 2 0 4 0x2A17 255 0 0 6 2 ++ [10, 1, 1, 11, 2, 2] ++ List.replicate 24 0)

def announced : VctIn where
  audio := false
  repair := false
  restart := false
  domain := 4
  key := 0x2A17
  tag := 255
  channels := 0
  frame := 0
  entries := 2
  payload := [10, 1, 1, 11, 2, 2]
  address := 0x02AA00000001
  tags := []

theorem read_announce : readFrame port0 announce = .vct announced := by decide +kernel

theorem handed {s : State} {rx : RxFrame} {f : VctIn} (h : Small s) (hr : s.resetLow = false) (hp : s.port 0 = port0)
    (hx : rx.fresh = true) (hf : readFrame port0 rx = .vct f) (hk : f.key = 0x2A17) (hv : (s.venue 0).key = 0x2A17)
    (ho : (s.venue 0).state ≠ .free) (ha : (s.venue 0).pathA = path0) (hb : (s.venue 0).pathB = Path.absent) :
    Handed s 0 rx f 0 .a where
  listening := ⟨hr, by rw [hp]; rfl, by rw [hp]; rfl⟩
  fresh := hx
  read := by rw [hp]; exact hf
  keys := small_keys h (by rw [hv]; decide)
  isOpen := ho
  key := by rw [hv, hk]
  twoPorts := by rw [ha, hb]; decide
  port := by show (s.venue 0).pathA.port = some 0; rw [ha]; rfl
  bound := by show (s.venue 0).pathA.state ≠ .absent; rw [ha]; decide

/-- V0 ACTIVE, HOLDOVER or WAITING with Nr at `n`. -/
def atFrame (vs : VenueState) (n : FrameNo) : State :=
  withV (base vs .running) fun v => { v with timebase := { v.timebase with phase := some ⟨n, 10, 0⟩ } }

theorem small_atFrame (vs : VenueState) (n : FrameNo) : Small (atFrame vs n) := small_withV (small_base _ _) _

theorem names {s : State} {f : VctIn} (ha : f.audio = true) (ht : f.tag = 10) (hc : f.channels = 1)
    (hl : (s.venue 0).circuits = [0]) (hs : (s.circuit 0).state ≠ .lost) (hg : (s.circuit 0).tag = some 10)
    (hm : (s.circuit 0).channels = 1) : Names s f 0 0 where
  audio := ha
  tag := by simp [State.tagged, hl, ht, hg]
  alive := hs
  channels := by rw [hc, hm]

theorem witness_PortTestsCount_malformed : Listening active 0 ∧ (0x88B5 : BitVec 16) ≠ 0x8100 ∧ (0x88B5 : BitVec 16) ≠ 0x88A8 ∧
    { audio 10 1010 0 with fresh := false }.fresh = false ∧ { audio 10 1010 0 with fcsOk := false }.fcsOk = false ∧
    (frame (List.replicate 45 0)).bytes.length + 4 < 64 ∧ 1518 + 4 * 0 < (frame (List.replicate 1501 0)).bytes.length + 4 ∧
    64 ≤ (frame (List.replicate 46 0)).bytes.length + 4 ∧ (frame (List.replicate 1500 0)).bytes.length + 4 ≤ 1518 + 4 * 0 :=
  ⟨⟨rfl, rfl, rfl⟩, by decide, by decide, rfl, rfl, by decide +kernel, by decide +kernel, by decide +kernel, by decide +kernel⟩

theorem witness_PortTestsCount_address : (0x020000000009 : BitVec 48) ≠ (active.port 0).address ∧
    (0x020000000009 : BitVec 48).getLsbD 40 = false ∧ (0xFFFFFFFFFFFF : BitVec 48).getLsbD 40 = true ∧
    (0x020000000001 : BitVec 48) = (active.port 0).address ∧ (0x010000000001 : BitVec 48).getLsbD 40 = true ∧
    (0x02AA00000001 : BitVec 48).getLsbD 40 = false ∧ (0 : Nat) < [(false, (300 : BitVec 16))].length ∧
    (0x0800 : BitVec 16) ≠ (active.port 0).etherType ∧ (0x88B5 : BitVec 16) = (active.port 0).etherType := by decide

/-- Each way a VCT frame is MALFORMED: version 2, kind 3, three channels, a length that is not 288 a channel or 3
an entry, a payload too short, and one too long. -/
theorem witness_PortTestsCount_vct_malformed : (2 : Byte) ≠ 1 ∧ ((3 : Byte) ≠ 1 ∧ (3 : Byte) ≠ 2) ∧
    ((3 : Byte) ≠ 1 ∧ (3 : Byte) ≠ 2) ∧ (287 : BitVec 16).toNat ≠ 288 * (1 : Byte).toNat ∧
    (6 : BitVec 16).toNat ≠ 3 * (1 : Byte).toNat ∧ ([0] : List Byte).length < (6 : BitVec 16).toNat ∧
    (frame (wireVct 1 1 0 4 0x2A17 10 1 7 288 0 ++ List.replicate 289 0)).bytes.length + 4 ≠ 64 ∧
    (288 : BitVec 16).toNat ≠ (List.replicate 289 (0 : Byte)).length :=
  ⟨by decide, by decide, by decide, by decide, by decide, by decide, by decide +kernel, by rw [List.length_replicate]; decide⟩

/-- A VCT frame well formed without padding, and one of 64 bytes with it; its domain and key other than the part's. -/
theorem witness_PortTestsCount_vct : (288 : BitVec 16).toNat = (List.replicate 288 (0 : Byte)).length ∧
    (frame (wireVct 1 2 0 4 0x2A17 255 0 0 6 2 ++ List.replicate 30 0)).bytes.length + 4 = 64 ∧
    (6 : BitVec 16).toNat ≤ (List.replicate 30 (0 : Byte)).length ∧ (288 : BitVec 16).toNat = 288 * (1 : Byte).toNat ∧
    (6 : BitVec 16).toNat = 3 * (2 : Byte).toNat ∧
    (∃ d, (active.setPort 0 { port0 with domain := some 7 }).port 0 = { port0 with domain := some d } ∧ d ≠ 4) ∧
    (∀ d : Byte, (active.port 0).domain = some d → d = 4) ∧
    (∀ v, (active.venue v).state ≠ .free → (active.venue v).key ≠ 0x5555) :=
  ⟨by rw [List.length_replicate]; decide, by decide +kernel, by rw [List.length_replicate]; decide, by decide, by decide,
    ⟨7, by simp, by decide⟩, by decide, fun v hv => by rw [others_free _ _ v hv]; decide⟩

/-- LP1 takes the frame, V0 has no path there. -/
def wrongPort : State := active.setPort 1 port0

theorem witness_AnnounceAndWrongPath_wrong : Listening wrongPort 1 ∧ (audio 10 1010 0).fresh = true ∧
    readFrame (wrongPort.port 1) (audio 10 1010 0) = .vct (heard false) ∧ KeyLaw wrongPort ∧
    (wrongPort.venue 0).state ≠ .free ∧ (wrongPort.venue 0).key = (heard false).key ∧
    (wrongPort.venue 0).pathA.port ≠ some 1 ∧ (wrongPort.venue 0).pathB.port ≠ some 1 :=
  ⟨⟨rfl, rfl, rfl⟩, rfl, read_plain, base_keys .active .running, by decide, rfl, by decide, by decide⟩

/-- One entry of an ANNOUNCE frame on the list built so far, as R13 says. -/
def keepEntry (l : List Announced × Nat) (e : Byte × Byte × Byte) : List Announced × Nat :=
  if e.1 = 255 ∨ e.2.1 ∉ [1, 2, 3] ∨ e.2.2 ∉ [1, 2] ∨ (∃ x ∈ l.1, x.tag = e.1.toNat) then (l.1, l.2 + 1)
  else if l.1.length < 8 then (l.1 ++ [⟨e.1.toNat,
    if e.2.1 = 1 then .commentary else if e.2.1 = 2 then .crowd else .coord, e.2.2.toNat⟩], l.2)
  else l

/-- Two valid entries handed, and of three a repeated one dropped with a report. -/
theorem witness_AnnounceAndWrongPath_announce : Handed active 0 announce announced 0 .a ∧ announced.audio = false ∧
    announced.payload = ([(10, 1, 1), (11, 2, 2)] : List (Byte × Byte × Byte)).flatMap (fun e => [e.1, e.2.1, e.2.2]) ∧
    (∀ l e, (l ++ [e]).foldl keepEntry ([], 0) = keepEntry (l.foldl keepEntry ([], 0)) e) ∧
    ([(10, 1, 1), (11, 2, 2)] : List (Byte × Byte × Byte)).foldl keepEntry ([], 0) =
      ([⟨10, .commentary, 1⟩, ⟨11, .crowd, 2⟩], 0) ∧
    ([(10, 1, 1), (10, 2, 2)] : List (Byte × Byte × Byte)).foldl keepEntry ([], 0) = ([⟨10, .commentary, 1⟩], 1) ∧
    ((withV active fun v => { v with health := { v.health with captureEnable := 0x40 } }).venue 0).health.captureEnable.getLsbD
      ErrorKind.malformed.index.val = true ∧ (active.venue 0).health.capture = none :=
  ⟨handed (small_base _ _) rfl rfl rfl read_announce rfl rfl (by decide) rfl rfl, rfl, by decide,
    fun l e => by rw [List.foldl_append]; rfl, by decide, by decide, by decide, by decide⟩

theorem emptyWindow (vs : VenueState) (n : FrameNo) : WindowLaw (atFrame vs n) :=
  small_windows (small_atFrame vs n) ⟨List.Pairwise.nil, by intro y hy; cases hy⟩

/-- Frame 1010 at distance 10, in an ACTIVE and in a HOLDOVER venue; and at the ends of the window. -/
theorem witness_PlaceableFrameIsStored : ∀ vs ∈ [VenueState.active, .holdover], ∀ n ∈ [(1000 : FrameNo), 1010, 947],
    Handed (atFrame vs n) 0 (audio 10 1010 0) (heard false) 0 .a ∧ Names (atFrame vs n) (heard false) 0 0 ∧
    WindowLaw (atFrame vs n) ∧ ((atFrame vs n).venue 0).state = vs ∧ ((atFrame vs n).venue 0).timebase.phase = some ⟨n, 10, 0⟩ ∧
    0 ≤ Machine.dist (heard false).frame n ∧ Machine.dist (heard false).frame n < ((atFrame vs n).circuit 0).window ∧
    ((atFrame vs n).circuit 0).present (heard false).frame = false ∧
    (∀ e ∈ ((atFrame vs n).venue 0).recovery, e.circuit = 0 → e.frame ≠ (heard false).frame) ∧
    ((atFrame vs n).circuit 0).newest = none := by
  intro vs hvs n hn
  have ho : ((atFrame vs n).venue 0).state ≠ .free := by
    show vs ≠ .free
    revert vs; decide
  have near : ∀ n ∈ [(1000 : FrameNo), 1010, 947], 0 ≤ Machine.dist 1010 n ∧ Machine.dist 1010 n < 64 := by
    intro n hn
    simp only [List.mem_cons, List.not_mem_nil, or_false] at hn
    rcases hn with rfl | rfl | rfl <;> decide
  have hc : ((atFrame vs n).circuit 0).cells = [] := rfl
  have hp : ((atFrame vs n).circuit 0).present (heard false).frame = false := by
    simp [Circuit.present, Circuit.held, hc, cellAt]
  exact ⟨handed (small_atFrame _ _) rfl rfl rfl read_plain rfl rfl ho rfl rfl,
    names rfl rfl rfl rfl (show CircuitState.running ≠ .lost by decide) rfl rfl, emptyWindow vs n, rfl, rfl, (near n hn).1, (near n hn).2, hp,
    fun e (he : e ∈ []) => (nomatch he), rfl⟩

/-- Frame 1010 held in its cell. -/
def holding : State := withC (atFrame .active 1000) fun c => { c with cells := [⟨50, 1010, [silentFrame]⟩] }

/-- Frame 1010 one frame late, and at the first distance past the window. -/
theorem witness_UnplaceableFrameIsCounted : (∀ n ∈ [(1011 : FrameNo), 946],
      Handed (atFrame .active n) 0 (audio 10 1010 0) (heard false) 0 .a ∧ Names (atFrame .active n) (heard false) 0 0 ∧
      ((atFrame .active n).venue 0).timebase.phase = some ⟨n, 10, 0⟩ ∧ (heard false).restart = false ∧
      ((atFrame .active n).venue 0).lateStreak < 63 ∧ ((atFrame .active n).venue 0).aheadStreak < 7) ∧
    Machine.dist (heard false).frame 1011 < 0 ∧ ((atFrame .active 946).circuit 0).window ≤ Machine.dist (heard false).frame 946 :=
  ⟨fun n _ => ⟨handed (small_atFrame _ _) rfl rfl rfl read_plain rfl rfl (show VenueState.active ≠ .free by decide) rfl rfl,
    names rfl rfl rfl rfl (show CircuitState.running ≠ .lost by decide) rfl rfl, rfl, rfl, show 0 < 63 by decide, show 0 < 7 by decide⟩, by decide, by decide⟩

theorem witness_UnplaceableFrameIsCounted_duplicate : Handed holding 0 (audio 10 1010 0) (heard false) 0 .a ∧
    Names holding (heard false) 0 0 ∧ (holding.venue 0).state = .active ∧
    (holding.venue 0).timebase.phase = some ⟨1000, 10, 0⟩ ∧ Machine.dist (heard false).frame 1000 < (holding.circuit 0).window ∧
    (holding.circuit 0).present (heard false).frame = true :=
  ⟨handed (small_withC (small_atFrame _ _) _) rfl rfl rfl read_plain rfl rfl (by decide) rfl rfl,
    names rfl rfl rfl rfl (by decide) rfl rfl, rfl, rfl, by decide, by decide +kernel⟩

/-! Discards, gaps, settlement and REPAIR frames -/

/-- What the ports make of `audio 10 1010 1`. -/
def resent : VctIn := { heard false with repair := true }

theorem read_repair : readFrame port0 (audio 10 1010 1) = .vct resent := by decide +kernel

/-- A REPAIR frame that is placeable, late, and one that seats. -/
theorem witness_repair : (∀ n ∈ [(1000 : FrameNo), 1011], Handed (atFrame .active n) 0 (audio 10 1010 1) resent 0 .a ∧
      Names (atFrame .active n) resent 0 0) ∧ resent.repair = true ∧
    Handed (base .waiting .armed) 0 (audio 10 1010 1) resent 0 .a ∧ Names (base .waiting .armed) resent 0 0 :=
  ⟨fun n _ => ⟨handed (small_atFrame _ _) rfl rfl rfl read_repair rfl rfl (show VenueState.active ≠ .free by decide) rfl rfl,
    names rfl rfl rfl rfl (show CircuitState.running ≠ .lost by decide) rfl rfl⟩, rfl,
    handed (small_base _ _) rfl rfl rfl read_repair rfl rfl (show VenueState.waiting ≠ .free by decide) rfl rfl,
    names rfl rfl rfl rfl (show CircuitState.armed ≠ .lost by decide) rfl rfl⟩

/-- No circuit of the tag, a LOST one, and one of two channels, at a WAITING venue and at a seated one. -/
theorem witness_DiscardedAudioIsReported : ∀ vs ∈ [VenueState.waiting, .active, .holdover],
    (∀ c ∈ [{ circuit0 .running with tag := some 20 }, circuit0 .lost, { circuit0 .running with channels := 2 }],
      Handed ((base vs .running).setCircuit 0 c) 0 (audio 10 1010 0) (heard false) 0 .a) ∧
    (vs ≠ .waiting → ((base vs .running).venue 0).timebase.phase ≠ none) ∧
    (∀ c ∈ ((base vs .running).venue 0).circuits,
      (((base vs .running).setCircuit 0 { circuit0 .running with tag := some 20 }).circuit c).tag ≠ some (heard false).tag) ∧
    (base vs .lost).tagged 0 (heard false).tag = some 0 ∧
    ((base vs .running).setCircuit 0 { circuit0 .running with channels := 2 }).tagged 0 (heard false).tag = some 0 ∧
    (heard false).channels ≠ 2 := by
  intro vs hvs
  have ho : vs ≠ .free := by revert vs; decide
  refine ⟨fun c _ => handed (s := withC (base vs .running) fun _ => c) (small_withC (small_base _ _) _) rfl rfl rfl read_plain
    rfl rfl ho rfl rfl, ?_, ?_, ?_, ?_, ?_⟩ <;> (revert vs; decide)

/-- A capture that is enabled and empty, and one that is held; a kind that feeds the monitor at its threshold. -/
theorem witness_DiscardedAudioIsReported_health :
    ({ Health.reset with captureEnable := 0x10 } : Health).captureEnable.getLsbD ErrorKind.unknownCircuit.index.val = true ∧
    Health.reset.capture = none ∧
    ({ Health.reset with capture := some ⟨.late, none, none, none, 0⟩ } : Health).capture = some ⟨.late, none, none, none, 0⟩ ∧
    ({ Health.reset with rateEnable := 0x10, threshold := 3, windowCount := 2 } : Health).rateEnable.getLsbD
      ErrorKind.unknownCircuit.index.val = true := by decide

/-- V0 ACTIVE at Nr = 1,000, the newest frame of C0 being `o`. -/
def upTo (o : FrameNo) : State := withC (atFrame .active 1000) fun c => { c with newest := some o }

/-- Frames 1,005 to 1,009 skipped; with the newest frame at 1,000 and the window's last frame stored, 62 of them. -/
theorem witness_StoredFrameHandsGaps : Handed (upTo 1004) 0 (audio 10 1010 0) (heard false) 0 .a ∧
    Names (upTo 1004) (heard false) 0 0 ∧ ((upTo 1004).venue 0).timebase.phase = some ⟨1000, 10, 0⟩ ∧
    0 ≤ Machine.dist (heard false).frame 1000 ∧ Machine.dist (heard false).frame 1000 < ((upTo 1004).circuit 0).window ∧
    ((upTo 1004).circuit 0).newest = some 1004 ∧ 2 ≤ Machine.dist (heard false).frame 1004 ∧
    0 < ((upTo 1004).venue 0).settings.attempts ∧ ((5 : Nat) : Int) = max (Machine.dist 1004 1000) 0 + 1 ∧
    (List.range ((Machine.dist (heard false).frame 1000).toNat - 5)).map (fun i => (1000 : FrameNo) + BitVec.ofNat 32 (5 + i)) =
      [1005, 1006, 1007, 1008, 1009] ∧
    (upTo 1004).QueueOk 0 1000 ∧ 16 < (Machine.dist 1063 1000).toNat - 1 ∧
    (∀ k, ((upTo 1004).venue 0).health.counter k ≤ 65535) :=
  ⟨handed (small_withC (small_atFrame _ _) _) rfl rfl rfl read_plain rfl rfl (by decide) rfl rfl,
    names rfl rfl rfl rfl (by decide) rfl rfl, rfl, by decide, by decide, rfl, by decide, by decide, by decide, by decide,
    ⟨List.Pairwise.nil, fun e (he : e ∈ []) => (nomatch he)⟩, by decide, fun k => by cases k <;> decide⟩

/-- An entry for frame 1,010 of C0, whose newest frame is 1,012. -/
def awaited : State := withV (upTo 1012) fun v => { v with recovery := [⟨0, 1010, 0, 1, some 990⟩] }

theorem witness_StoredFrameSettlesEntry : Handed awaited 0 (audio 10 1010 1) resent 0 .a ∧ Names awaited resent 0 0 ∧
    (awaited.venue 0).state = .active ∧ (awaited.venue 0).timebase.phase = some ⟨1000, 10, 0⟩ ∧
    0 ≤ Machine.dist resent.frame 1000 ∧ Machine.dist resent.frame 1000 < (awaited.circuit 0).window ∧
    ⟨0, 1010, 0, 1, some 990⟩ ∈ (awaited.venue 0).recovery ∧ (awaited.circuit 0).newest = some 1012 ∧
    Machine.dist resent.frame 1012 ≤ 1 ∧ Handed awaited 0 (audio 10 1010 0) (heard false) 0 .a :=
  ⟨handed (small_withV (small_withC (small_atFrame _ _) _) _) rfl rfl rfl read_repair rfl rfl (by decide) rfl rfl,
    names rfl rfl rfl rfl (by decide) rfl rfl, rfl, rfl, by decide, by decide, .head _, rfl, by decide,
    handed (small_withV (small_withC (small_atFrame _ _) _) _) rfl rfl rfl read_plain rfl rfl (by decide) rfl rfl⟩

/-- R82, R91: a step of the present boundary left over is not taken by a venue seated after it. -/
theorem test_seat_misses_step : ((after (.frameReceived 0 (audio 10 1010 0)) (dueNow (.venueStep 0) (base .waiting .armed))).venue
      0).state = .active ∧
    (after (.frameReceived 0 (audio 10 1010 0)) (dueNow (.venueStep 0) (base .waiting .armed))).due = [] := by decide +kernel

theorem witness_FrameSeatsVenue_first : ∀ cs ∈ [CircuitState.armed, .running, .concealing],
    Handed (base .waiting cs) 0 (audio 10 1010 0) (heard false) 0 .a ∧ Names (base .waiting cs) (heard false) 0 0 ∧
    ListLaw (base .waiting cs) ∧ ((base .waiting cs).venue 0).state = .waiting ∧ ((base .waiting cs).circuit 0).state = cs := by
  intro cs hcs
  have h1 : cs ≠ .free := by revert cs; decide
  have h2 : cs ≠ .lost := by revert cs; decide
  exact ⟨handed (small_base _ _) rfl rfl rfl read_plain rfl rfl (show VenueState.waiting ≠ .free by decide) rfl rfl,
    names rfl rfl rfl rfl h2 rfl rfl, base_lists _ _ (by decide) h1, rfl, rfl⟩

/-- One frame late at streak 63, and 64 ahead at streak 7. -/
def streaked (n : FrameNo) : State := withV (atFrame .active n) fun v => { v with lateStreak := 63, aheadStreak := 7 }

theorem witness_FrameSeatsVenue_streaks : (∀ n ∈ [(1011 : FrameNo), 946],
      Handed (streaked n) 0 (audio 10 1010 0) (heard false) 0 .a ∧ Names (streaked n) (heard false) 0 0 ∧
      ListLaw (streaked n) ∧ ((streaked n).venue 0).timebase.phase = some ⟨n, 10, 0⟩ ∧
      ((streaked n).venue 0).lateStreak = 63 ∧ ((streaked n).venue 0).aheadStreak = 7) ∧
    Machine.dist (heard false).frame 1011 < 0 ∧ ((streaked 946).circuit 0).window ≤ Machine.dist (heard false).frame 946 := by
  refine ⟨fun n _ => ⟨handed (small_withV (small_atFrame _ _) _) rfl rfl rfl read_plain rfl rfl (show VenueState.active ≠ .free by decide) rfl rfl,
    names rfl rfl rfl rfl (show CircuitState.running ≠ .lost by decide) rfl rfl, small_lists (small_withV (small_atFrame _ _) _) rfl (show VenueState.active ≠ .free by decide) (show CircuitState.running ≠ .free by decide) rfl,
    rfl, rfl, rfl⟩, by decide, by decide⟩

theorem witness_FrameSeatsVenue_restart : (∀ n ∈ [(1011 : FrameNo), 946],
      Handed (atFrame .active n) 0 (audio 10 1010 2) (heard true) 0 .a ∧ Names (atFrame .active n) (heard true) 0 0 ∧
      ListLaw (atFrame .active n)) ∧ (heard true).restart = true ∧
    ((atFrame .active 946).venue 0).health.counter .reseat < 65535 :=
  ⟨fun n _ => ⟨handed (small_atFrame _ _) rfl rfl rfl read_restart rfl rfl (show VenueState.active ≠ .free by decide) rfl rfl,
    names rfl rfl rfl rfl (show CircuitState.running ≠ .lost by decide) rfl rfl, small_lists (small_atFrame _ _) rfl (show VenueState.active ≠ .free by decide) (show CircuitState.running ≠ .free by decide) rfl⟩,
    rfl, by decide⟩

theorem witness_TransmitAndLink : ((active.modPort 0 fun p => { p with queue := [[1], [2]] }).port 0).queue = [[1], [2]] ∧
    (active.port 0).queue = [] ∧ active.resetLow = false ∧ (active.port 0).linkUp = true ∧ (active.port 1).linkUp = false ∧
    ({ active with resetLow := true } : State).resetLow = true := by decide

/-! The reference, the block boundary, and the events within it -/

theorem witness_ReferenceFollowsEdges : active.resetLow = false ∧ active.reference.state = .freeRun ∧
    (990000000000 ≤ 48000 * 20625000 ∧ 48000 * 20625000 ≤ 1010000000000) ∧
    (990000000000 ≤ 48000 * 21041666 ∧ 48000 * 21041666 ≤ 1010000000000) ∧
    ¬ (990000000000 ≤ 48000 * 20624999 ∧ 48000 * 20624999 ≤ 1010000000000) ∧
    ¬ (990000000000 ≤ 48000 * 21041667 ∧ 48000 * 21041667 ≤ 1010000000000) ∧ active.reference.qualification < 47 ∧
    (⟨.freeRun, 47, 0, 0⟩ : Reference).qualification = 47 ∧ (⟨.wck, 0, 2, 0⟩ : Reference).state = .wck ∧
    (⟨.wck, 0, 2, 0⟩ : Reference).strayEdges < 3 ∧ 48000 * 83333333 < 4000000000000 ∧ 4000000000000 ≤ 48000 * 83333334 ∧
    (⟨.wck, 0, 3, 0⟩ : Reference).strayEdges = 3 := by decide

theorem witness_BlockBoundaryBegins : active.resetLow = false ∧ active.due = [] ∧ allLater.first = [] ∧
    ∀ w ∈ worksOf (active.reference.blockCount + 1), w ∈ allLater.later :=
  ⟨rfl, rfl, rfl, fun _ h => h⟩

/-- A venue step left over from the boundary before, and V1's step asked for first. -/
theorem witness_BoundaryTakesItsWorks : active.resetLow = false ∧ ([.venueStep 1] : List Work).Nodup ∧
    (((dueNow (.venueStep 0) active).due.foldl State.takeWork { active with due := [] }).reference.blockCount + 1 = 1) ∧
    (∀ w ∈ ([.venueStep 1] : List Work), w ∈ worksOf 1) := by decide +kernel

theorem witness_WorksWhereNothingExpires : active.pending = [] ∧ (dueNow (.holdoverCount 0) active).due = [.holdoverCount 0] ∧
    ((base .holdover .running).venue 0).state = .holdover ∧
    ((base .holdover .running).venue 0).holdoverSince ≠ some active.reference.blockCount ∧
    ((base .holdover .running).venue 0).holdoverElapsed + 1 < 1000 * ((base .holdover .running).venue 0).settings.lossTime ∧
    (active.venue 0).state ≠ .holdover ∧
    ((withV active fun v => { v with announceAge := some 4998 }).venue 0).announceAge = some 4998 ∧
    (active.venue 0).announceAge = none ∧ (active.venue 1).state = .free ∧
    ((base .active .concealing).circuit 0).state = .concealing ∧ 2 ≤ ((base .active .concealing).circuit 0).hold ∧
    (active.circuit 0).state ≠ .concealing ∧ ((active.venue 0).path .b).state ≠ .up ∧
    ((active.venue 0).path .a).lastArrival = some 0 ∧
    ((99 : BlockCount) - 0).toNat < (active.venue 0).settings.pathTimeout ∧ (active.venue 1).state ≠ .active ∧
    ((withV active fun v => { v with settings := { v.settings with attempts := 0 } }).venue 0).settings.attempts = 0 := by decide

/-- A venue step left over at which the 256th margin sample is taken. -/
def interval : State := dueNow (.venueStep 0) (withV active fun v =>
  { v with newest := some 1049, timebase := { v.timebase with count := 255 } })

theorem witness_VenueStepUpdatesRates_phase : (95 : Nat) < 96 ∧ (-1073741 : Int) ≤ 1073741 ∧
    ((95 : Nat) : Int) * 4294967296 + (0 : BitVec 32).toNat + 4294967296 + -1073741 < 96 * 4294967296 ∧
    96 * 4294967296 ≤ ((95 : Nat) : Int) * 4294967296 + (0 : BitVec 32).toNat + 4294967296 + 1073741 := by decide

theorem witness_VenueStepUpdatesRates_interval : .venueStep 0 ∈ interval.due ∧ (interval.venue 0).state = .active ∧
    (interval.venue 0).timebase.phase = some ⟨1000, 10, 0⟩ ∧
    (∀ c ∈ (interval.venue 0).circuits, (interval.circuit c).state ≠ .closing) ∧ (interval.venue 0).newest = some 1049 ∧
    (interval.venue 0).timebase.count = 255 ∧ (interval.venue 0).timebase.active = false := by decide

/-- A venue step left over at which a walk makes a step, in an ACTIVE and in a HOLDOVER venue. -/
def walking (vs : VenueState) : State := dueNow (.venueStep 0) (withV (base vs .running) fun v =>
  { v with timebase := { v.timebase with active := true, countdown := 1 } })

theorem witness_VenueStepUpdatesRates_walk : (∀ vs ∈ [VenueState.active, .holdover], .venueStep 0 ∈ (walking vs).due ∧
    (∀ c ∈ ((walking vs).venue 0).circuits, ((walking vs).circuit c).state ≠ .closing) ∧
    ((walking vs).venue 0).timebase.active = true ∧ ((walking vs).venue 0).timebase.countdown = 1 ∧
    ((walking vs).venue 0).state = vs) ∧ ((walking .active).venue 0).newest = none ∧
    ((walking .active).venue 0).timebase.count < 256 := by decide

/-- An ordinary venue step left over: one margin sample short of the last but one, no walk or one 2 blocks from its step. -/
def ordinary (vs : VenueState) (walk : Bool) : State := dueNow (.venueStep 0) (withV (base vs .running) fun v =>
  { v with newest := some 1049
           timebase := { v.timebase with count := 254, active := walk, countdown := if walk then 2 else 0 } })

theorem witness_VenueStepUpdatesRates_ordinary : ∀ vs ∈ [VenueState.active, .holdover], ∀ walk : Bool,
    (ordinary vs walk).pending = [] ∧ (ordinary vs walk).due = [.venueStep 0] ∧ ListLaw (ordinary vs walk) ∧
    ((ordinary vs walk).venue 0).timebase.phase = some ⟨1000, 10, 0⟩ ∧ (ordinary vs walk).fadesEnding 0 = [] ∧
    ((ordinary vs walk).venue 0).state = vs ∧ ((ordinary vs walk).venue 0).newest = some 1049 ∧
    ((ordinary vs walk).venue 0).timebase.count < 255 ∧ ((ordinary vs walk).venue 0).timebase.active = walk ∧
    (walk = true → 2 ≤ ((ordinary vs walk).venue 0).timebase.countdown) := by
  intro vs hvs walk
  have ho : vs ≠ .free := by revert vs; decide
  have hs : Small (ordinary vs walk) := small_due (s := withV _ _) (small_withV (small_base vs .running) _)
  refine ⟨rfl, rfl, small_lists hs rfl ho (show CircuitState.running ≠ .free by decide) rfl, ?_, ?_, rfl, rfl, ?_, rfl, ?_⟩ <;>
    (clear ho hs; revert vs; cases walk <;> decide)

/-- A walk 16 blocks from its step, at the 256th margin sample and before it. -/
def pacing (count countdown : Nat) : State := dueNow (.venueStep 0) (withV active fun v =>
  { v with newest := some 1049
           timebase := { v.timebase with active := true, countdown := countdown, count := count, rhoCmd := 0 } })

theorem witness_VenueStepUnderWalk : ∀ s ∈ [pacing 255 16, pacing 255 1, pacing 254 1, pacing 254 2], s.pending = [] ∧
    s.due = [.venueStep 0] ∧ .venueStep 0 ∈ s.due ∧
    (s.venue 0).state = .active ∧ (s.venue 0).timebase.phase = some ⟨1000, 10, 0⟩ ∧
    (∀ c ∈ (s.venue 0).circuits, (s.circuit c).state ≠ .closing) ∧ (s.venue 0).newest = some 1049 ∧
    (s.venue 0).timebase.active = true ∧ 1 ≤ (s.venue 0).timebase.countdown := by decide

/-- C0 unmuted in slot 3, its venue's step left over. -/
def playing : State := dueNow (.venueStep 0) (active.setSlot 3 { Slot.reset with source := some ⟨0, 0⟩, muted := false })

theorem witness_VenueStepStagesSamples : playing.pending = [] ∧ playing.due = [.venueStep 0] ∧
    (playing.venue 0).state = .active ∧ (playing.venue 0).timebase.phase = some ⟨1000, 10, 0⟩ ∧
    (playing.slot 3).muted = false ∧ (playing.slot 3).source = some ⟨0, 0⟩ ∧ 0 ∈ (playing.venue 0).circuits ∧
    0 < (playing.circuit 0).channels ∧ (playing.slot 4).source = none ∧
    (playing.slot 3).fellBack ≠ some ⟨0, 0⟩ := by decide

theorem witness_VenueStepStagesSamples_waits : ∀ s ∈ [dueNow (.venueStep 0) (active.setSlot 3
      { Slot.reset with source := some ⟨0, 0⟩, muted := false, fellBack := some ⟨0, 0⟩ })], s.pending = [] ∧
    s.due = [.venueStep 0] ∧ (s.venue 0).state = .active ∧ (s.slot 3).source = some ⟨0, 0⟩ ∧
    (s.slot 3).fellBack = some ⟨0, 0⟩ ∧ (s.venue 0).timebase.phase = some ⟨1000, 10, 0⟩ := by decide

theorem witness_VenueStepStagesSamples_advances : ListLaw playing ∧ playing.fadesEnding 0 = [] :=
  ⟨small_lists (small_due (s := State.setSlot _ _ _) (small_setSlot (small_base .active .running))) rfl
    (show VenueState.active ≠ .free by decide) (show CircuitState.running ≠ .free by decide) rfl, by decide⟩

def fading (vs : VenueState) (r : Nat := 1) : State :=
  (dueNow (.venueStep 0) (withC (base vs .closing) fun c => { c with fade := r })).setSlot 3
    { Slot.reset with source := some ⟨0, 0⟩, muted := false }

theorem witness_FadeEndAndTerminalCount_fade : ∀ vs ∈ [VenueState.active, .holdover], .venueStep 0 ∈ (fading vs).due ∧
    ListLaw (fading vs) ∧ ((fading vs).venue 0).state = vs ∧ 0 ∈ ((fading vs).venue 0).circuits ∧
    ((fading vs).circuit 0).state = .closing ∧ ((fading vs).circuit 0).fade = 1 ∧
    ((fading vs).slot 3).source = some ⟨0, 0⟩ ∧ 0 ∈ (fading vs).fadesEnding 0 := by
  intro vs hvs
  have ho : vs ≠ .free := by revert vs; decide
  have hs : Small (fading vs) :=
    small_setSlot (s := dueNow _ _) (small_due (s := withC _ _) (small_withC (small_base vs .closing) _))
  exact ⟨.head _, small_lists hs rfl ho (show CircuitState.closing ≠ .free by decide) rfl, rfl, .head _, rfl, rfl, rfl,
    .head _⟩

theorem witness_FadeEndAndTerminalCount_ramp : ∀ vs ∈ [VenueState.active, .holdover], (fading vs 2).pending = [] ∧
    (fading vs 2).due = [.venueStep 0] ∧ ListLaw (fading vs 2) ∧ ((fading vs 2).venue 0).state = vs ∧
    0 ∈ ((fading vs 2).venue 0).circuits ∧ ((fading vs 2).circuit 0).state = .closing ∧
    2 ≤ ((fading vs 2).circuit 0).fade := by
  intro vs hvs
  have ho : vs ≠ .free := by revert vs; decide
  have hs : Small (fading vs 2) :=
    small_setSlot (s := dueNow _ _) (small_due (s := withC _ _) (small_withC (small_base vs .closing) _))
  exact ⟨rfl, rfl, small_lists hs rfl ho (show CircuitState.closing ≠ .free by decide) rfl, rfl, .head _, rfl, le_refl 2⟩

/-- Section 2.12: r decrements within the venue step, and the circuit stays CLOSING. -/
theorem test_fade_ramp : ((fading .active 2).idle.circuit 0).fade = 1 ∧
    ((fading .active 2).idle.circuit 0).state = .closing := by decide +kernel

def expiring : State := dueNow (.holdoverCountdown 0) (withC (base .active .concealing) fun c => { c with hold := 1 })

theorem witness_FadeEndAndTerminalCount_terminal : .holdoverCountdown 0 ∈ expiring.due ∧
    (expiring.circuit 0).state = .concealing ∧ (expiring.circuit 0).hold = 1 ∧ (expiring.circuit 0).venue = some 0 := by decide

def lossy (elapsed : Nat := 9999) : State :=
  dueNow (.holdoverCount 0) (withV (base .holdover .running) fun v => { v with holdoverElapsed := elapsed })

theorem small_lossy (elapsed : Nat) : Small (lossy elapsed) :=
  small_due (s := withV _ _) (small_withV (small_base .holdover .running) _)

/-- At the loss time of 10 s, and past one that was lowered to it. -/
theorem witness_BoundaryExpiries_loss : ∀ n ∈ [9999, 30000], .holdoverCount 0 ∈ (lossy n).due ∧ ListLaw (lossy n) ∧
    ((lossy n).venue 0).state = .holdover ∧ ((lossy n).venue 0).holdoverSince ≠ some (lossy n).reference.blockCount ∧
    1000 * ((lossy n).venue 0).settings.lossTime ≤ ((lossy n).venue 0).holdoverElapsed + 1 := by
  intro n hn
  refine ⟨.head _, small_lists (small_lossy n) rfl (show VenueState.holdover ≠ .free by decide)
    (show CircuitState.running ≠ .free by decide) rfl, rfl, ?_, ?_⟩ <;> (revert n; decide)

/-- R8: a loss time lowered below the count already elapsed unseats the venue at the next boundary. -/
theorem test_lossLowered : ((after (.venueLossExpiry 0) (lossy 30000)).venue 0).state = .waiting := by decide

def stale : State := dueNow (.announceAge 0) (withV active fun v => { v with announceAge := some 4999 })

theorem witness_BoundaryExpiries_announce : .announceAge 0 ∈ stale.due ∧ (stale.venue 0).state ≠ .free ∧
    (stale.venue 0).announceAge = some 4999 := by decide

def silent : State := dueNow (.pathTimeout 0 .a) { active with reference := ⟨.freeRun, 0, 0, 100⟩ }

theorem witness_BoundaryExpiries_path : .pathTimeout 0 .a ∈ silent.due ∧ PathId.b ≠ .a ∧ (silent.venue 0).state ≠ .free ∧
    ((silent.venue 0).path .a).state = .up ∧ ((silent.venue 0).path .a).lastArrival = some 0 ∧
    (silent.venue 0).settings.pathTimeout ≤ (silent.reference.blockCount - 0).toNat := by decide

/-- Path B DOWN or absent, so that HOLDOVER follows, and UP, so that it does not. -/
theorem witness_BoundaryExpiries_lost : (silent.venue 0).state = .active ∧ ((silent.venue 0).path .b).state ≠ .up ∧
    (((withV silent fun v => { v with pathB := { path0 with port := some 1 } }).venue 0).path .b).state = .up ∧
    (silent.venue 0).health.counter .cancelled ≤ 65535 := by decide

/-- Three entries: one due for its first request, one for its second, one too late. -/
def asking : State := dueNow (.requestPass 0) (withV { active with reference := ⟨.freeRun, 0, 0, 3⟩ } fun v =>
  { v with settings := { v.settings with attempts := 2 }
           recovery := [⟨0, 1039, 0, 0, none⟩, ⟨0, 1040, 0, 0, none⟩, ⟨0, 1045, 0, 1, some 980⟩] })

theorem witness_RequestPassJudgesEntries : .requestPass 0 ∈ asking.due ∧ (asking.venue 0).state = .active ∧
    (asking.venue 0).timebase.phase = some ⟨1000, 10, 0⟩ ∧ 0 < (asking.venue 0).settings.attempts ∧
    ⟨0, 1040, 0, 0, none⟩ ∈ (asking.venue 0).recovery ∧
    (asking.venue 0).settings.allowance ≤ (asking.reference.blockCount - 0).toNat ∧
    ((asking.venue 0).settings.budget : Int) ≤ Machine.dist 1040 1000 ∧
    Machine.dist 1039 1000 < (asking.venue 0).settings.budget ∧
    (((asking.venue 0).settings.budget + 1) / 2 : Nat) ≤ Machine.dist 1000 980 ∧
    (asking.venue 0).health.counter .tooLate ≤ 65535 := by decide

/-- The pass of `asking`, with a reply address on path A, as the oldest work left over. -/
def sending : State := withV asking fun v => { v with pathA := { v.pathA with reply := some ⟨0x02AA00000001, [0x0123], 4⟩ } }

theorem witness_RequestPassSendsRecoveryFrame : sending.pending = [] ∧ sending.due = [.requestPass 0] ∧
    (sending.venue 0).state = .active ∧ (sending.venue 0).timebase.phase = some ⟨1000, 10, 0⟩ ∧
    0 < (sending.venue 0).settings.attempts ∧ (sending.venue 0).pathA.port ≠ (sending.venue 0).pathB.port ∧
    (sending.venue 0).recovery.filter (fun y => y.frame != 1039) = [⟨0, 1040, 0, 0, none⟩, ⟨0, 1045, 0, 1, some 980⟩] ∧
    (sending.venue 0).settings.allowance ≤ (sending.reference.blockCount - 0).toNat ∧
    ((sending.venue 0).settings.budget : Int) ≤ Machine.dist 1040 1000 ∧
    Machine.dist 1039 1000 < (sending.venue 0).settings.budget ∧
    (((sending.venue 0).settings.budget + 1) / 2 : Nat) ≤ Machine.dist 1000 980 ∧
    ((sending.venue 0).path .a).port = some 0 ∧ ((sending.venue 0).path .a).state = .up ∧
    ((sending.venue 0).path .a).reply = some ⟨0x02AA00000001, [0x0123], 4⟩ ∧ (sending.port 0).enable = true ∧
    (sending.port 0).linkUp = true ∧ (sending.port 0).queue.length < 128 := by decide

def keyEnding : State := dueNow .foldbackStep ((laned (.held 11) (some 11)).setSource 11
  { Source.reset with targets := 1, softKey := true, remaining := 1 })

theorem witness_FoldbackEventsAndWindowRestart_key : .foldbackStep ∈ keyEnding.due ∧ (keyEnding.source 11).softKey = true ∧
    (keyEnding.source 11).remaining = 1 ∧ (keyEnding.venue 0).lane.enable = true ∧
    (keyEnding.venue 0).lane.state = .held 11 := by decide

def gapEnding : State := dueNow .foldbackStep { laned (.gap 1) (some 7) with keyLow := 0x84 }

theorem witness_FoldbackEventsAndWindowRestart_gap : .foldbackStep ∈ gapEnding.due ∧ gapEnding.arbiter = .fixed ∧
    (gapEnding.venue 0).lane.state = .gap 1 ∧
    ((gapEnding.source 2).targets.getLsbD 0 = true ∧ (gapEnding.source 2).lineEnable = true ∧
      gapEnding.keyLow.getLsbD 2 = true) ∧
    (∀ k : Fin 16, k < 2 → (gapEnding.source k).targets.getLsbD 0 = false) := by decide

/-- Sources 2, 7 and 11 ask: from TS8 on, under ROTATING with last holder TS7, TS11 stands first; under FIXED TS2 does. -/
theorem witness_LaneGoesToFirstInPriority : ((({ gapEnding with arbiter := .rotating } : State).venue 0).lane.lastHolder = some 7 ∧
      (gapEnding.venue 0).lane.state = .gap 1 ∧ .foldbackStep ∈ gapEnding.due ∧
      ∀ k : Fin 16, k = 2 ∨ k = 7 ∨ k = 11 → ((11 : Fin 16).val + 15 - 7) % 16 ≤ (k.val + 15 - 7) % 16) ∧
    (keyed5.venue 0).state ≠ .free ∧ (keyed5.venue 0).lane.enable = false ∧ (keyed5.source 5).wants 0 = true ∧
    (∀ k : Fin 16, (keyed5.source k).wants 0 = true → (5 : Fin 16).val ≤ k.val) ∧
    (idleLane.venue 0).lane.enable = true ∧ (idleLane.venue 0).lane.state = .idle ∧ (idleLane.source 5).wants 0 = false ∧
    (idleLane.source 5).targets.getLsbD 0 = true ∧
    (∀ k : Fin 16, k = 5 ∨ (idleLane.source k).wants 0 = true → (5 : Fin 16).val ≤ k.val) := by decide

theorem witness_FoldbackEventsAndWindowRestart_gap_unasked :
    ({ dueNow .foldbackStep (withV active fun v => { v with lane := { v.lane with enable := true, state := .gap 1 } }) with
      keyLow := 0 } : State).sources.toList.all (fun x => x.targets == 0) = true := by decide +kernel

/-- The foldback step left over at block count `b`, V0's lane HELD by TS2 and its path able to send. -/
def talking (b : BlockCount) : State := dueNow .foldbackStep (withV { laned (.held 2) (some 2) with reference := ⟨.freeRun, 0, 0, b⟩ }
  fun v => { v with pathA := { v.pathA with reply := some ⟨0x02AA00000001, [], 4⟩ } })

theorem small_laned (st : LaneState) (last : Option (Fin 16)) : Small (laned st last) :=
  small_setSource (small_setSource (small_setSource (small_withV (small_base .active .running) _)))

theorem small_talking (b : BlockCount) : Small (talking b) :=
  small_due (small_withV (s := { laned (.held 2) (some 2) with reference := ⟨.freeRun, 0, 0, b⟩ })
    (small_laned (.held 2) (some 2)) _)

theorem witness_FoldbackStepKeepsOrSends : (∀ b ∈ [(0 : BlockCount), 1], (talking b).pending = [] ∧
      (talking b).due = [.foldbackStep]) ∧ (talking 1).reference.blockCount.toNat % 2 = 1 ∧
    (talking 0).reference.blockCount.toNat % 2 = 0 ∧ ((talking 0).venue 0).state ≠ .free ∧
    ((talking 0).venue 0).lane.enable = true ∧
    (∀ w, w ≠ 0 → ((talking 0).venue w).state ≠ .free → ((talking 0).venue w).lane.enable = false) ∧
    ((talking 0).venue 0).circuits.length ≤ 8 ∧ ((talking 0).venue 0).pathA.port ≠ ((talking 0).venue 0).pathB.port ∧
    ((talking 0).venue 0).pathA.reply = some ⟨0x02AA00000001, [], 4⟩ ∧ ((talking 0).venue 0).pathA.state = .up ∧
    ((talking 0).port 0).enable = true ∧ (talking 0).port 1 = Port.reset :=
  ⟨fun _ _ => ⟨rfl, rfl⟩, by decide, by decide, by decide, by decide,
    fun w hw hs => absurd (by rw [(small_talking 0).1 w hw]; rfl) hs, by decide, by decide, by decide, by decide, by decide, by decide⟩

theorem witness_FoldbackEventsAndWindowRestart_restart : .windowRestart ∈ (dueNow .windowRestart active).due ∧
    active.due = [] := by decide

/-- A mono CROWD circuit with frame 1,000 in its cell and last present. -/
def crowd (cs : CircuitState) : Circuit :=
  { circuit0 cs with
    kind := .crowd, lastPresent := some 1000, fadeLength := 4, fade := 1, conceal := [silentFrame, silentFrame]
    cells := [⟨40, 1000, [silentFrame]⟩] }

/-- At the last sample of frame 1,000, with entries for 1,001 and 1,002 and the UNRECOVERED capture enabled. -/
def leaving : State := withV active fun v =>
  { v with
    timebase := { v.timebase with phase := some ⟨1000, 95, 0⟩ }
    recovery := [⟨0, 1001, 0, 0, none⟩, ⟨0, 1002, 0, 0, none⟩]
    health := { v.health with captureEnable := 0x7FFF } }

theorem witness_JudgementsAndSamples_advance : (leaving.venue 0).timebase.phase = some ⟨1000, 95, 0⟩ ∧
    (Phase.step ⟨1000, 95, 0⟩ (leaving.venue 0).timebase.rhoEff).nr = 1001 ∧
    (Phase.step ⟨1000, 10, 0⟩ (active.venue 0).timebase.rhoEff).nr = 1000 ∧ (leaving.venue 0).circuits.Nodup ∧
    (leaving.venue 0).recovery.filter (fun e => decide (e.frame = 1001)) = [⟨0, 1001, 0, 0, none⟩] ∧
    (leaving.venue 0).health.capture = none ∧
    (leaving.venue 0).health.captureEnable.getLsbD ErrorKind.unrecovered.index.val = true ∧
    (leaving.venue 0).health.counter .unrecovered ≤ 65535 := by decide

/-- R85, R102: the frame advance judges C0 missing, and the entry for the frame entered is counted and captured. -/
theorem test_frameAdvance : ((leaving.advanceStep 0).circuit 0).state = .concealing ∧
    ((leaving.advanceStep 0).venue 0).recovery = [⟨0, 1002, 0, 0, none⟩] ∧
    ((leaving.advanceStep 0).venue 0).health.counter .unrecovered = 1 ∧
    ((leaving.advanceStep 0).venue 0).health.capture = some ⟨.unrecovered, some 0, some 1001, none, 0⟩ := by decide

theorem witness_JudgementsAndSamples : (∀ cs ∈ [CircuitState.armed, .running, .concealing, .closing],
      (crowd cs).held 1000 = some ⟨40, 1000, [silentFrame]⟩ ∧ (crowd cs).held 1001 = none ∧ (crowd cs).state = cs) ∧
    ([silentFrame] : List FrameSamples)[0]? = some silentFrame ∧ (94 : Nat) < 95 ∧
    (crowd .closing).level * (crowd .closing).fade / (crowd .closing).fadeLength = 1024 ∧
    Machine.dist 1023 1000 = (23 : Nat) ∧ Machine.dist 1024 1000 = (24 : Nat) ∧ (crowd .running).conceal[0]? = some silentFrame ∧
    (crowd .running).held 1024 = none := by decide +kernel

/-- At the last offset of frame 1,000, held in its cell, and of 1,001, missing: a COMMENTARY circuit draws 0, a CROWD one halves its
store, one that has played no frame draws 0. -/
theorem witness_VenueStepStagesSamples_draws : (crowd .running).Draws 0 1000 95 0 ∧ (crowd .closing).Draws 0 1001 0 0 ∧
    (circuit0 .running).Draws 0 1001 0 0 ∧ ({ crowd .running with lastPresent := none } : Circuit).Draws 0 1001 0 0 := by
  refine ⟨.inl ⟨⟨40, 1000, [silentFrame]⟩, silentFrame, by decide, by decide +kernel, rfl, by decide +kernel⟩,
    .inr (.inr ⟨by decide +kernel, rfl, 1000, silentFrame, 1, by decide, rfl, by decide, by decide +kernel, by decide +kernel⟩),
    .inr (.inl ⟨by decide, .inl (by decide), rfl⟩), .inr (.inl ⟨by decide +kernel, .inr rfl, rfl⟩)⟩

/-! ### A live state under every law, and its step -/

/-- V0 ACTIVE with C0 RUNNING in slot 3, its lane HELD by TS2, and one command waiting. -/
def live : State := { (laned (.held 2) (some 2)).setSlot 3 { Slot.reset with source := some ⟨0, 0⟩, muted := false } with
  pending := [.venueQuery x0 0] }

theorem small_live : Small live := small_laned (.held 2) (some 2)

theorem live_slot (i : Fin 128) (h : i ≠ 3) : live.slot i = Slot.reset := by
  exact (State.setSlot_slot_of_ne _ _ _ _ h).trans (by simp [State.slot, laned, withV, active, base, State.reset,
    State.setVenue, State.setCircuit, State.setPort, State.setSource, State.modVenue])

theorem live_pool : PoolLaw live := by
  show live.poolFree + (allCircuits.map fun c => (live.circuit c).charge).sum = 32768
  decide +kernel

theorem rates_of {s : State} (h : Small s) (h0 : (s.venue 0).timebase.RateLaw) : RateLaw s := by
  intro v
  by_cases e : v = 0
  · subst e; exact h0
  · rw [h.1 v e]; refine ⟨?_, ?_, ?_, ?_⟩ <;> decide

theorem live_rates : RateLaw live := rates_of small_live (by refine ⟨?_, ?_, ?_, ?_⟩ <;> decide)

theorem live_holds : HoldLaw live := by
  intro c
  by_cases e : c = 0
  · subst e; intro _; refine ⟨?_, ?_, ?_, ?_⟩ <;> decide
  · rw [small_live.2 c e]; intro h; exact absurd rfl h

theorem live_slots : SlotLaw live := by
  intro i
  by_cases e : i = 3
  · subst e
    refine ⟨fun x hx => ?_, fun x hx => ?_, by decide⟩
    · have : (some ⟨0, 0⟩ : Option SlotSource) = some x := hx
      cases this
      exact ⟨by decide, by decide⟩
    · have : x ∈ ([] : List SlotSource) := hx
      cases this
  · rw [live_slot i e]
    exact ⟨fun x (hx : none = some x) => (nomatch hx), fun x (hx : x ∈ []) => (nomatch hx), by decide⟩

theorem live_lanes : LaneLaw live := by
  refine ⟨by decide +kernel, by decide +kernel, fun v => ?_⟩
  by_cases e : v = 0
  · subst e
    exact (⟨by decide, by decide⟩ : (live.venue 0).lane.enable = true ∧ live.asks 0 2 = true)
  · have hl : (live.venue v).lane.state = .idle := by rw [small_live.1 v e]; rfl
    unfold State.LaneOk
    rw [hl]
    trivial

theorem live_capacity : CapacityLaw live := by
  refine ⟨fun v => ?_, by decide⟩
  by_cases e : v = 0
  · subst e; decide
  · rw [small_live.1 v e]; decide

theorem live_settings : SettingsLaw live := by
  intro v
  by_cases e : v = 0
  · subst e; decide
  · rw [small_live.1 v e]; decide

theorem live_places : PlaceLaw live := by
  intro v
  by_cases e : v = 0
  · subst e
    exact ⟨fun _ => rfl, rfl, ⟨List.Pairwise.nil, fun y (h : y ∈ []) => (nomatch h)⟩, fun c hc y hy => by
      have e : c = 0 := (List.mem_singleton.mp hc)
      subst e; exact (nomatch (hy : y ∈ []))⟩
  · have hv := small_live.1 v e
    refine ⟨fun _ => by rw [hv]; rfl, ?_⟩
    rw [hv]
    exact ⟨rfl, fun c (h : c ∈ []) => (nomatch h)⟩

theorem live_lists : ListLaw live := small_lists small_live rfl (by decide) (by decide) rfl

theorem live_keys : KeyLaw live := small_keys small_live (show (0x2A17 : BitVec 16) ≠ 0 by decide)

theorem live_windows : WindowLaw live := small_windows small_live ⟨List.Pairwise.nil, by intro y hy; cases hy⟩

theorem live_steps : ∃ t, step live = .next t := ⟨_, rfl⟩

theorem witness_StepKeepsWindowLaw : WindowLaw live ∧ ∃ t, step live = .next t := ⟨live_windows, live_steps⟩
theorem witness_StepKeepsPoolLaw : PoolLaw live ∧ ∃ t, step live = .next t := ⟨live_pool, live_steps⟩
theorem witness_StepKeepsRateAndHoldLaws_rate : RateLaw live ∧ ∃ t, step live = .next t := ⟨live_rates, live_steps⟩
theorem witness_StepKeepsRateAndHoldLaws_hold : HoldLaw live ∧ ∃ t, step live = .next t := ⟨live_holds, live_steps⟩
theorem witness_StepKeepsListLaw : ListLaw live ∧ ∃ t, step live = .next t := ⟨live_lists, live_steps⟩
theorem witness_StepKeepsSettingsLaw : ListLaw live ∧ SettingsLaw live ∧ ∃ t, step live = .next t :=
  ⟨live_lists, live_settings, live_steps⟩
theorem witness_StepKeepsPlaceLaw : ListLaw live ∧ WindowLaw live ∧ SettingsLaw live ∧ PlaceLaw live ∧ ∃ t, step live = .next t :=
  ⟨live_lists, live_windows, live_settings, live_places, live_steps⟩
theorem witness_StepKeepsKeyAndCapacityLaws_key : KeyLaw live ∧ ∃ t, step live = .next t := ⟨live_keys, live_steps⟩
theorem witness_StepKeepsSlotLaw : SlotLaw live ∧ ∃ t, step live = .next t := ⟨live_slots, live_steps⟩
theorem witness_StepKeepsLaneLaw : LaneLaw live ∧ ∃ t, step live = .next t := ⟨live_lanes, live_steps⟩
theorem witness_StepKeepsKeyAndCapacityLaws_capacity : CapacityLaw live ∧ ∃ t, step live = .next t := ⟨live_capacity, live_steps⟩

end Sys2Proof.Tests
end

section
/-! PROOFS. The gallery reference as REFERENCE_QUERY reports it (section 5.1, R79). -/

namespace Sys2Proof.Machine

/-! ### One-byte fields of a response body -/

theorem u8_eq_singleton (n : Nat) : u8 n = [BitVec.ofNat 8 n] := by simp [u8, be]

theorem flagByte_eq_singleton (b : Bool) : flagByte b = [if b then 0x01 else 0x00] := by
  cases b <;> rfl

/-! ### REFERENCE_QUERY (R79) -/

theorem exec_referenceQuery (x : Transfer) (s : State) :
    exec (.referenceQuery x) s = request x 0x40 (fun s => answer (referenceReport s) s) s := rfl

/-- In FREE-RUN the report carries the qualification count. -/
theorem referenceReport_of_freeRun {s : State} (h : s.reference.state = .freeRun) :
    referenceReport s = [0x00, BitVec.ofNat 8 s.reference.qualification] ++
      be 5 s.reference.blockCount.toNat ++ [if s.refLoss then 0x01 else 0x00] := by
  simp only [referenceReport, h, u8_eq_singleton, flagByte_eq_singleton]
  rfl

/-- In WCK the report carries 0 for the count, whatever the record holds. -/
theorem referenceReport_of_wck {s : State} (h : s.reference.state = .wck) :
    referenceReport s = [0x01, 0x00] ++
      be 5 s.reference.blockCount.toNat ++ [if s.refLoss then 0x01 else 0x00] := by
  simp only [referenceReport, h, u8_eq_singleton, flagByte_eq_singleton]
  rfl

/-- Settles O8, by the two states of the gallery reference. -/
theorem referenceQueryReports : Obligations.ReferenceQueryReports := by
  intro x s hTaken
  rw [exec_referenceQuery, request_ok x 0x40 _ s hTaken (by rfl)]
  cases hState : s.reference.state with
  | freeRun => rw [referenceReport_of_freeRun hState]
  | wck => rw [referenceReport_of_wck hState]

end Sys2Proof.Machine
end

section
/-! PROOFS. The output slots: SLOT_ASSIGN and SLOT_RELEASE (section 7.3, R122, R123, R125). -/

namespace Sys2Proof.Machine

/-! ### The checks of a command that sets a slot's source (R122) -/

@[simp] theorem State.sourceOf_silence (s : State) : s.sourceOf .silence = some none := rfl

theorem State.sourceOf_channel {s : State} {r : CircuitRef} {c : Fin 128} {ch : Nat} (hRef : s.resolve r = some c)
    (hCh : ch < (s.circuit c).channels) : s.sourceOf (.channel r ch) = some (some ⟨c, ch⟩) := by
  simp [State.sourceOf, hRef, hCh]

theorem State.sourceClosing_some {s : State} {y : SlotSource} (h : (s.circuit y.circuit).state ≠ .closing) :
    s.sourceClosing (some y) = false := beq_eq_false_iff_ne.mpr h

/-- Past the checks of R122, the command's own rule answers. -/
theorem slotCommand_of_checks {s : State} {i : Fin 128} {arg : SourceArg} {src : Option SlotSource}
    {go : Fin 128 → Option SlotSource → Answer} (hSrc : s.sourceOf arg = some src)
    (hOpen : s.sourceClosing src = false) (hFlag : sourceFlagBad arg = false) :
    slotCommand i.val arg s go = go i src := by
  simp only [slotCommand, inTable_val, hSrc, hOpen, hFlag, orBadReference_some, refuseIf_false]

/-! ### The slot a release leaves (R125) -/

theorem Slot.release_of_empty {sl : Slot} (h : sl.stack = []) : sl.release = { sl with source := none } := by
  simp only [Slot.release, h]

theorem Slot.release_of_top {sl : Slot} {top : SlotSource} {rest : List SlotSource} (h : sl.stack = top :: rest) :
    sl.release = { sl with source := some top, stack := rest } := by
  simp only [Slot.release, h]

/-! ### The two commands -/

theorem exec_slotAssign (x : Transfer) (slot : Nat) (arg : SourceArg) (s : State) :
    exec (.slotAssign x slot arg) s = request x 0x50 (fun s => slotCommand slot arg s fun i src =>
      .ok {} (slotReport ((s.slot i).assign src)) (s.setSlot i ((s.slot i).assign src))) s := rfl

theorem exec_slotRelease (x : Transfer) (slot : Nat) (s : State) :
    exec (.slotRelease x slot) s = request x 0x52 (fun s => orBadReference (inTable 128 slot) fun i =>
      .ok { empty := (s.slot i).stack.isEmpty } (slotReport (s.slot i).release)
        (s.setSlot i (s.slot i).release)) s := rfl

/-- R123: a SLOT_ASSIGN taken, past the checks of R122. -/
theorem exec_slotAssign_of_checks {x : Transfer} {s : State} {arg : SourceArg} {src : Option SlotSource}
    (i : Fin 128) (hTaken : Taken x s) (hSrc : s.sourceOf arg = some src)
    (hOpen : s.sourceClosing src = false) (hFlag : sourceFlagBad arg = false) :
    exec (.slotAssign x i.val arg) s =
      .next ((s.setSlot i ((s.slot i).assign src)).hold x 0x50 .ok {} (slotReport ((s.slot i).assign src))) := by
  rw [exec_slotAssign]
  exact request_ok x 0x50 _ s hTaken (slotCommand_of_checks hSrc hOpen hFlag)

/-- R125: a SLOT_RELEASE taken. -/
theorem exec_slotRelease_of_slot {x : Transfer} {s : State} (i : Fin 128) (hTaken : Taken x s) :
    exec (.slotRelease x i.val) s =
      .next ((s.setSlot i (s.slot i).release).hold x 0x52 .ok { empty := (s.slot i).stack.isEmpty }
        (slotReport (s.slot i).release)) := by
  rw [exec_slotRelease]
  exact request_ok x 0x52 _ s hTaken (by rw [inTable_val, orBadReference_some])

/-- Settles O21: an assignment by the two forms of its source, a release by the two shapes of the stack. -/
theorem slotAssignAndRelease : Obligations.SlotAssignAndRelease := by
  intro x s i hTaken
  refine ⟨?silence, ?channel, ?empty, ?top⟩
  case silence => exact exec_slotAssign_of_checks i hTaken s.sourceOf_silence rfl rfl
  case channel =>
    intro r c ch hRef hCh hOpen
    exact exec_slotAssign_of_checks i hTaken (State.sourceOf_channel hRef hCh) (State.sourceClosing_some hOpen) rfl
  case empty =>
    intro hStack
    have hEmpty : (s.slot i).stack.isEmpty = true := List.isEmpty_iff.mpr hStack
    rw [exec_slotRelease_of_slot i hTaken, Slot.release_of_empty hStack, hEmpty]
  case top =>
    intro top rest hStack
    have hFilled : (s.slot i).stack.isEmpty = false := by rw [hStack, List.isEmpty_cons]
    rw [exec_slotRelease_of_slot i hTaken, Slot.release_of_top hStack, hFilled]

end Sys2Proof.Machine
end

section
/-! PROOFS. The identity of the part, which IDENTIFY reports (section 11.2.3, R166). -/

namespace Sys2Proof.Machine

theorem u16_eq_pair (n : Nat) : u16 n = [BitVec.ofNat 8 (n / 256), BitVec.ofNat 8 n] := by
  simp [u16, be]

/-- The silicon revision the part reports: a free value of R166 (log 8). -/
def siliconRevision : Nat := Config.revisionLessOne.val + 1

theorem one_le_siliconRevision : 1 ≤ siliconRevision := Nat.le_add_left 1 _

theorem siliconRevision_le : siliconRevision ≤ 255 := Config.revisionLessOne.isLt

/-- The body of IDENTIFY byte by byte: the codes, the revision, then the table sizes of R166. -/
theorem identity_eq_bytes : identity =
    [0x3C, 0x61, 0x24, BitVec.ofNat 8 siliconRevision,
      4, 24, 128, 8, 0x80, 0x00, 128, 4, 16, 24, 32, 0x01, 0x00] := by
  simp only [identity, u8_eq_singleton, u16_eq_pair]
  rfl

theorem exec_identify (x : Transfer) (s : State) :
    exec (.identify x) s = request x 0x01 (answer identity) s := rfl

/-- Settles O5, with the model's silicon revision as the free value. -/
theorem identifyReportsThePart : Obligations.IdentifyReportsThePart := by
  refine ⟨siliconRevision, one_le_siliconRevision, siliconRevision_le, ?_⟩
  intro x s hTaken
  have hAnswer : answer identity s = .ok {} identity s := rfl
  rw [exec_identify, request_ok x 0x01 _ s hTaken hAnswer, identity_eq_bytes]

end Sys2Proof.Machine
end

section
/-! PROOFS. The laws that every move keeps, and so every step (`step_moves`): the windows, the pool, the rates, the
holdover counts, the lists, the keys, the depths, the slots' sources and the lanes; and the state after reset. -/

namespace Sys2Proof.Machine

/-! ### What a move does to one record -/

theorem CircuitMove.refl (x : Circuit) : CircuitMove x x := .quiet rfl rfl rfl rfl rfl rfl rfl

@[simp] theorem State.closeVenue_circuit (s : State) (v : Fin 24) (c : Fin 128) :
    (s.closeVenue v).circuit c = s.circuit c := rfl
@[simp] theorem State.closeVenue_slot (s : State) (v : Fin 24) (i : Fin 128) : (s.closeVenue v).slot i = s.slot i := rfl
@[simp] theorem State.closeVenue_port (s : State) (v : Fin 24) (p : Fin 4) : (s.closeVenue v).port p = s.port p := rfl
@[simp] theorem State.closeVenue_poolFree (s : State) (v : Fin 24) : (s.closeVenue v).poolFree = s.poolFree := rfl

theorem State.closeVenue_venue (s : State) (v w : Fin 24) :
    (s.closeVenue v).venue w = if w = v then Venue.free else s.venue w := by
  show ((s.untarget v).setVenue v Venue.free).venue w = _
  rw [State.setVenue_venue_eq_ite]
  rfl

/-- R17: the source keeps all but the closed venue's place in its target set. -/
theorem State.closeVenue_source (s : State) (v : Fin 24) (n : Fin 16) :
    (s.closeVenue v).source n =
      { s.source n with targets := (s.source n).targets &&& ~~~(1#24 <<< v.val) } := by
  simp [State.closeVenue, State.untarget, State.source]

theorem State.openCircuit_circuit (s : State) (v : Fin 24) (c d : Fin 128) (x : Circuit) :
    (s.openCircuit v c x).circuit d = if d = c then x else s.circuit d := by
  show ((State.setCircuit { s with poolFree := s.poolFree - x.units } c x)).circuit d = _
  rw [State.setCircuit_circuit_eq_ite]
  rfl

theorem State.openCircuit_venue (s : State) (v w : Fin 24) (c : Fin 128) (x : Circuit) :
    (s.openCircuit v c x).venue w =
      if w = v then { s.venue v with circuits := (s.venue v).circuits ++ [c] } else s.venue w := by
  show (State.setVenue _ v _).venue w = _
  rw [State.setVenue_venue_eq_ite]
  rfl

@[simp] theorem State.openCircuit_slot (s : State) (v : Fin 24) (c i : Fin 128) (x : Circuit) :
    (s.openCircuit v c x).slot i = s.slot i := rfl
@[simp] theorem State.openCircuit_port (s : State) (v : Fin 24) (c : Fin 128) (x : Circuit) (p : Fin 4) :
    (s.openCircuit v c x).port p = s.port p := rfl
@[simp] theorem State.openCircuit_source (s : State) (v : Fin 24) (c : Fin 128) (x : Circuit) (n : Fin 16) :
    (s.openCircuit v c x).source n = s.source n := rfl
@[simp] theorem State.openCircuit_poolFree (s : State) (v : Fin 24) (c : Fin 128) (x : Circuit) :
    (s.openCircuit v c x).poolFree = s.poolFree - x.units := rfl

/-- The records that `Move.lanes` leaves. -/
theorem State.lanes_circuit {s t : State} (eq : t = { s with venues := t.venues, sources := t.sources }) (c : Fin 128) :
    t.circuit c = s.circuit c := by rw [eq]; rfl

/-- A circuit record after a move: changed by a move of its own, FREE, or opened under its laws. -/
theorem Move.circuit_cases {s t : State} (h : Move s t) (d : Fin 128) :
    CircuitMove (s.circuit d) (t.circuit d) ∨ t.circuit d = Circuit.free ∨
      ((t.circuit d).WindowLaw ∧ (t.circuit d).HoldLaw) := by
  have same : t.circuit d = s.circuit d → CircuitMove (s.circuit d) (t.circuit d) := fun e => e ▸ .refl _
  cases h with
  | outside _ _ circuits => exact .inl (same (by simp only [State.circuit, circuits]))
  | venue v x => exact .inl (same rfl)
  | rekey v k => exact .inl (same rfl)
  | openVenue v x => exact .inl (same rfl)
  | closeVenue v => exact .inl (same rfl)
  | slot i x => exact .inl (same rfl)
  | lanes _ eq => exact .inl (same (State.lanes_circuit eq d))
  | reset _ _ circuits => exact .inr (.inl (circuits d))
  | circuit c x h =>
    rw [State.setCircuit_circuit_eq_ite]
    split
    · next hd => subst hd; exact .inl h
    · exact .inl (.refl _)
  | free c =>
    rw [State.freeRecord_circuit]
    split
    · exact .inr (.inl rfl)
    · exact .inl (.refl _)
  | openCircuit v c x _ _ _ _ _ _ windowLaw holdLaw =>
    rw [State.openCircuit_circuit]
    split
    · exact .inr (.inr ⟨windowLaw, holdLaw⟩)
    · exact .inl (.refl _)

/-! ### Windows, holdover counts (R60, R26) -/

theorem Circuit.free_holdLaw : Circuit.free.HoldLaw := fun h => absurd rfl h

theorem Move.keeps_windowLaw (s t : State) (h : Move s t) (hs : WindowLaw s) : WindowLaw t := fun d => by
  rcases h.circuit_cases d with hm | hf | ho
  · exact hm.windowLaw (hs d)
  · exact hf ▸ Circuit.free_windowLaw
  · exact ho.1

theorem Move.keeps_holdLaw (s t : State) (h : Move s t) (hs : HoldLaw s) : HoldLaw t := fun d => by
  rcases h.circuit_cases d with hm | hf | ho
  · exact hm.holdLaw (hs d)
  · exact hf ▸ Circuit.free_holdLaw
  · exact ho.2

/-- Settles O51: every move keeps the windows, and a step is a row of moves. -/
theorem stepKeepsWindowLaw : Obligations.StepKeepsWindowLaw := fun _ _ hs h => (step_moves h).keep Move.keeps_windowLaw hs

/-! ### Rates and depths of a venue (R80, R10, R13, R98) -/

/-- The depths of a venue's queue and lists. -/
def Venue.Depths (x : Venue) : Prop := x.recovery.length ≤ 32 ∧ x.circuits.length ≤ 8 ∧ x.announced.length ≤ 8

/-- A venue record after a move keeps the law of its rates and its depths. -/
theorem Move.venue_keeps {s t : State} (h : Move s t) (w : Fin 24) :
    ((s.venue w).timebase.RateLaw → (t.venue w).timebase.RateLaw) ∧ ((s.venue w).Depths → (t.venue w).Depths) := by
  have same (x : Venue) : x.timebase = (s.venue w).timebase → x.recovery = (s.venue w).recovery →
      x.circuits = (s.venue w).circuits → x.announced = (s.venue w).announced →
      ((s.venue w).timebase.RateLaw → x.timebase.RateLaw) ∧ ((s.venue w).Depths → x.Depths) :=
    fun h1 h2 h3 h4 => ⟨fun h => h1 ▸ h, fun h => by unfold Venue.Depths; rw [h2, h3, h4]; exact h⟩
  have free (x : Venue) (hx : x = Venue.free) :
      ((s.venue w).timebase.RateLaw → x.timebase.RateLaw) ∧ ((s.venue w).Depths → x.Depths) := by
    subst hx
    exact ⟨fun _ => by unfold Timebase.RateLaw; decide, fun _ => by unfold Venue.Depths; decide⟩
  cases h with
  | outside _ venues =>
    have e : t.venue w = s.venue w := by simp only [State.venue, venues]
    rw [e]; exact ⟨id, id⟩
  | venue v x h =>
    rw [State.setVenue_venue_eq_ite]
    split
    · next hw =>
      subst hw
      exact ⟨h.rates, fun ⟨h1, h2, h3⟩ => ⟨h.recovery h1, h.circuits ▸ h2, h.announced h3⟩⟩
    · exact ⟨id, id⟩
  | rekey v k =>
    rw [State.setVenue_venue_eq_ite]
    split
    · next hw => subst hw; exact same _ rfl rfl rfl rfl
    · exact ⟨id, id⟩
  | circuit c x => exact ⟨id, id⟩
  | free c =>
    rw [State.freeRecord_venue]
    split
    · refine ⟨id, fun ⟨h1, h2, h3⟩ => ⟨?_, ?_, h3⟩⟩
      · exact (List.length_filter_le _ _).trans h1
      · exact (List.length_filter_le _ _).trans h2
    · exact ⟨id, id⟩
  | openVenue v x _ _ _ _ circuits _ rates recovery announced =>
    rw [State.setVenue_venue_eq_ite]
    split
    · exact ⟨fun _ => rates, fun _ => ⟨by simp [recovery], by simp [circuits], by simp [announced]⟩⟩
    · exact ⟨id, id⟩
  | closeVenue v =>
    rw [State.closeVenue_venue]
    split
    · exact free _ rfl
    · exact ⟨id, id⟩
  | openCircuit v c x _ _ _ _ room =>
    rw [State.openCircuit_venue]
    split
    · next hw =>
      subst hw
      refine ⟨id, fun ⟨h1, _, h3⟩ => ⟨h1, ?_, h3⟩⟩
      simp only [List.length_append, List.length_singleton]
      omega
    · exact ⟨id, id⟩
  | slot i x => exact ⟨id, id⟩
  | lanes _ _ venues => rw [venues w]; exact same _ rfl rfl rfl rfl
  | reset _ venues => exact free _ (venues w)

theorem Move.keeps_rateLaw (s t : State) (h : Move s t) (hs : RateLaw s) : RateLaw t :=
  fun w => (h.venue_keeps w).1 (hs w)

/-- Settles O55: every move keeps the rates and the holdover counts, and a step is a row of moves. -/
theorem stepKeepsRateAndHoldLaws : Obligations.StepKeepsRateAndHoldLaws :=
  ⟨fun _ _ hs h => (step_moves h).keep Move.keeps_rateLaw hs,
   fun _ _ hs h => (step_moves h).keep Move.keeps_holdLaw hs⟩

/-! ### Transmit queues (R56) -/

theorem Move.keeps_queues {s t : State} (h : Move s t) (p : Fin 4) (hs : (s.port p).queue.length ≤ 128) :
    (t.port p).queue.length ≤ 128 := by
  cases h with
  | outside _ _ _ _ _ _ queues => exact queues p hs
  | venue v x => exact hs
  | rekey v k => exact hs
  | circuit c x => exact hs
  | free c => rw [State.freeRecord_port]; exact hs
  | openVenue v x => exact hs
  | closeVenue v => exact hs
  | openCircuit v c x => exact hs
  | slot i x => exact hs
  | lanes _ eq => rw [eq]; exact hs
  | reset _ _ _ _ _ _ queues => rw [queues p]; exact Nat.zero_le _

theorem Move.keeps_capacityLaw (s t : State) (h : Move s t) (hs : CapacityLaw s) : CapacityLaw t :=
  ⟨fun w => (h.venue_keeps w).2 (hs.1 w), fun p => h.keeps_queues p (hs.2 p)⟩

/-! ### Keys (R2) -/

/-- A venue takes a key that no other open venue holds, the rest staying. -/
theorem KeyLaw.setVenue {s : State} (hs : KeyLaw s) (v : Fin 24) (x : Venue) (zero : x.isOpen = true → x.key ≠ 0)
    (unique : x.isOpen = true → ∀ w, w ≠ v → (s.venue w).isOpen = true → (s.venue w).key ≠ x.key) :
    KeyLaw (s.setVenue v x) := by
  refine ⟨fun u w => ?_, fun w => ?_⟩
  · simp only [State.setVenue_venue_eq_ite]
    split <;> split
    · next hu hw => exact fun _ _ _ => hu.trans hw.symm
    · next hu hw => exact fun hx ho e => absurd e.symm (unique hx w hw ho)
    · next hu hw => exact fun ho hx e => absurd e (unique hx u hu ho)
    · exact hs.1 u w
  · rw [State.setVenue_venue_eq_ite]
    split
    · exact zero
    · exact hs.2 w

/-- The keys and the open venues stay. -/
theorem KeyLaw.congr {s t : State} (hs : KeyLaw s)
    (h : ∀ w, (t.venue w).isOpen = (s.venue w).isOpen ∧ (t.venue w).key = (s.venue w).key) : KeyLaw t :=
  ⟨fun u w => by rw [(h u).1, (h w).1, (h u).2, (h w).2]; exact hs.1 u w,
   fun w => by rw [(h w).1, (h w).2]; exact hs.2 w⟩

theorem Move.keeps_keyLaw (s t : State) (h : Move s t) (hs : KeyLaw s) : KeyLaw t := by
  cases h with
  | outside _ venues =>
    have same : ∀ w, t.venue w = s.venue w := fun w => by simp only [State.venue, venues]
    exact hs.congr fun w => by rw [same w]; exact ⟨rfl, rfl⟩
  | venue v x h =>
    refine hs.setVenue v x (fun hx => ?_) fun hx w hw ho e => ?_
    · rw [h.key]; exact hs.2 v (h.isOpen ▸ hx)
    · exact hw (hs.1 w v ho (h.isOpen ▸ hx) (e.trans h.key))
  | rekey v k zero unique => exact hs.setVenue v _ (fun _ => zero) fun _ => unique
  | circuit c x => exact hs
  | free c =>
    refine hs.congr fun w => ?_
    rw [State.freeRecord_venue]
    split <;> exact ⟨rfl, rfl⟩
  | openVenue v x _ _ zero unique => exact hs.setVenue v x (fun _ => zero) fun _ w _ ho => unique w ho
  | closeVenue v => exact hs.setVenue v Venue.free (fun h => absurd h (by decide)) fun h => absurd h (by decide)
  | openCircuit v c x =>
    refine hs.congr fun w => ?_
    rw [State.openCircuit_venue]
    split
    · next hw => subst hw; exact ⟨rfl, rfl⟩
    · exact ⟨rfl, rfl⟩
  | slot i x => exact hs
  | lanes _ _ venues => exact hs.congr fun w => by rw [venues w]; exact ⟨rfl, rfl⟩
  | reset _ venues =>
    have closed : ∀ w, (t.venue w).isOpen ≠ true := fun w => by rw [venues w]; decide
    exact ⟨fun u _ hu => absurd hu (closed u), fun w hw => absurd hw (closed w)⟩

/-- Settles O57: every move keeps the keys and the depths, and a step is a row of moves. -/
theorem stepKeepsKeyAndCapacityLaws : Obligations.StepKeepsKeyAndCapacityLaws :=
  ⟨fun _ _ hs h => (step_moves h).keep Move.keeps_keyLaw hs,
   fun _ _ hs h => (step_moves h).keep Move.keeps_capacityLaw hs⟩

end Sys2Proof.Machine
end

section
/-! PROOFS. The laws that every move keeps, continued: the pool (R22), the lists (R10), the slots' sources (R121), the
lanes (R132, R135 to R138); and the state after reset. -/

namespace Sys2Proof.Machine

/-! ### The pool (R22) -/

/-- The units that all circuit records account for. -/
def State.charges (s : State) : Nat := (allCircuits.map fun c => (s.circuit c).charge).sum

theorem poolLaw_iff (s : State) : PoolLaw s ↔ s.poolFree + s.charges = 32768 := by
  unfold PoolLaw State.charges
  exact Iff.rfl

theorem State.charges_eq_sum (s : State) : s.charges = ∑ c : Fin 128, (s.circuit c).charge := by
  rw [Fin.sum_univ_def]; rfl

theorem State.charges_congr {s t : State} (h : ∀ c, (t.circuit c).charge = (s.circuit c).charge) :
    t.charges = s.charges := by
  simp only [State.charges, h]

/-- One record changes what it accounts for. -/
theorem State.charges_change {s t : State} (c : Fin 128) (h : ∀ d, d ≠ c → t.circuit d = s.circuit d) :
    t.charges + (s.circuit c).charge = s.charges + (t.circuit c).charge := by
  have rest : ∑ d ∈ Finset.univ.erase c, (t.circuit d).charge = ∑ d ∈ Finset.univ.erase c, (s.circuit d).charge :=
    Finset.sum_congr rfl fun d hd => by rw [h d (Finset.ne_of_mem_erase hd)]
  have hs := Finset.add_sum_erase Finset.univ (fun d => (s.circuit d).charge) (Finset.mem_univ c)
  have ht := Finset.add_sum_erase Finset.univ (fun d => (t.circuit d).charge) (Finset.mem_univ c)
  rw [State.charges_eq_sum, State.charges_eq_sum]
  omega

theorem CircuitMove.charge {y x : Circuit} (h : CircuitMove y x) : x.charge = y.charge := by
  simp only [Circuit.charge, Circuit.units, h.channels, h.window, h.free]

theorem State.charges_setCircuit {s : State} (c : Fin 128) {x : Circuit} (h : x.charge = (s.circuit c).charge) :
    (s.setCircuit c x).charges = s.charges :=
  State.charges_congr fun d => by
    rw [State.setCircuit_circuit_eq_ite]
    split
    · next hd => rw [hd, h]
    · rfl

theorem Move.keeps_poolLaw (s t : State) (h : Move s t) (hs : PoolLaw s) : PoolLaw t := by
  have sum : s.poolFree + s.charges = 32768 := (poolLaw_iff s).1 hs
  rw [poolLaw_iff]
  have same (h1 : t.poolFree = s.poolFree) (h2 : ∀ c, t.circuit c = s.circuit c) :
      t.poolFree + t.charges = 32768 := by
    have charges : t.charges = s.charges := State.charges_congr fun c => by rw [h2 c]
    omega
  cases h with
  | outside _ _ circuits poolFree => exact same poolFree fun c => by simp only [State.circuit, circuits]
  | venue v x => exact sum
  | rekey v k => exact sum
  | circuit c x h => rw [State.charges_setCircuit c h.charge]; exact sum
  | free c =>
    have change := State.charges_change (s := s) (t := s.freeRecord c) c fun d hd => by
      rw [State.freeRecord_circuit, if_neg fun h => hd h.1]
    rw [State.freeRecord_circuit] at change
    rw [State.freeRecord_poolFree]
    by_cases hf : (s.circuit c).state = .free
    · simp only [hf, ne_eq, not_true, and_false, if_false] at change ⊢
      omega
    · have charge : (s.circuit c).charge = (s.circuit c).units := if_neg hf
      have zero : Circuit.free.charge = 0 := rfl
      simp only [hf, ne_eq, not_false_iff, and_true, if_true, charge, zero] at change ⊢
      omega
  | openVenue v x => exact sum
  | closeVenue v => exact sum
  | openCircuit v c x isFree _ state _ _ units =>
    have change := State.charges_change (s := s) (t := s.openCircuit v c x) c fun d hd => by
      rw [State.openCircuit_circuit, if_neg hd]
    have charge : x.charge = x.units := if_neg state
    have zero : (s.circuit c).charge = 0 := if_pos isFree
    rw [State.openCircuit_circuit, if_pos rfl, charge, zero] at change
    rw [State.openCircuit_poolFree]
    omega
  | slot i x => exact sum
  | lanes _ eq => exact same (by rw [eq]) (State.lanes_circuit eq)
  | reset _ _ circuits poolFree =>
    have zero : t.charges = 0 := List.sum_eq_zero fun n hn => by
      obtain ⟨c, _, rfl⟩ := List.mem_map.1 hn
      rw [circuits c]; rfl
    omega

/-- Settles O53: every move keeps the pool's account, and a step is a row of moves. -/
theorem stepKeepsPoolLaw : Obligations.StepKeepsPoolLaw := fun _ _ hs h => (step_moves h).keep Move.keeps_poolLaw hs

/-! ### Lists (R10) -/

/-- The lists stay, and each circuit stays FREE or of its venue. -/
theorem ListLaw.congr {s t : State} (hs : ListLaw s) (hl : ∀ w, (t.venue w).circuits = (s.venue w).circuits)
    (ho : ∀ w, (t.venue w).isOpen = (s.venue w).isOpen)
    (hf : ∀ c, (t.circuit c).state = .free ↔ (s.circuit c).state = .free)
    (hv : ∀ c, (t.circuit c).venue = (s.circuit c).venue) : ListLaw t := by
  obtain ⟨nodup, mem, empty⟩ := hs
  refine ⟨fun w => by rw [hl]; exact nodup w, fun w c => ?_, fun w hw => ?_⟩
  · rw [hl, hv, mem w c, ne_eq, ne_eq, hf]
  · rw [hl]
    refine empty w ?_
    have h : (t.venue w).isOpen = false := by simp [Venue.isOpen, hw]
    rw [ho] at h
    simpa [Venue.isOpen] using h

theorem ListLaw.circuits_of_closed {s : State} (hs : ListLaw s) {v : Fin 24} (h : (s.venue v).isOpen = false) :
    (s.venue v).circuits = [] := hs.2.2 v (by simpa [Venue.isOpen] using h)

theorem ListLaw.setVenue_empty {s : State} (hs : ListLaw s) (v : Fin 24) (x : Venue)
    (old : (s.venue v).circuits = []) (new : x.circuits = []) : ListLaw (s.setVenue v x) := by
  obtain ⟨nodup, mem, empty⟩ := hs
  have lists : ∀ w, ((s.setVenue v x).venue w).circuits = (s.venue w).circuits := fun w => by
    rw [State.setVenue_venue_eq_ite]
    split
    · next hw => rw [hw, new, old]
    · rfl
  refine ⟨fun w => by rw [lists]; exact nodup w, fun w c => by rw [lists]; exact mem w c, fun w hw => ?_⟩
  rw [lists]
  rw [State.setVenue_venue_eq_ite] at hw
  split at hw
  · next e => rw [e, old]
  · exact empty w hw

/-- The list of a venue after a circuit is freed: without it, whether or not it stood there. -/
theorem ListLaw.freeRecord_circuits {s : State} (hs : ListLaw s) (c : Fin 128) (w : Fin 24) :
    ((s.freeRecord c).venue w).circuits = (s.venue w).circuits.filter fun d => d != c := by
  rw [State.freeRecord_venue]
  split
  · rfl
  · next h =>
    have : c ∉ (s.venue w).circuits := fun hm => h ((hs.2.1 w c).1 hm)
    exact (List.filter_eq_self.2 fun d hd => by simpa using fun e : d = c => this (e ▸ hd)).symm

theorem ListLaw.freeRecord {s : State} (hs : ListLaw s) (c : Fin 128) : ListLaw (s.freeRecord c) := by
  have lists := hs.freeRecord_circuits c
  obtain ⟨nodup, mem, empty⟩ := hs
  refine ⟨fun w => by rw [lists]; exact (nodup w).filter _, fun w d => ?_, fun w hw => ?_⟩
  · rw [lists, List.mem_filter, mem w d, State.freeRecord_circuit]
    by_cases hd : d = c
    · subst hd
      by_cases hf : (s.circuit d).state = .free <;> simp [hf, Circuit.free]
    · simp [hd]
  · have : (s.venue w).state = .free := by
      rw [State.freeRecord_venue] at hw
      split at hw <;> exact hw
    rw [lists, empty w this]; rfl

theorem ListLaw.openCircuit {s : State} (hs : ListLaw s) (v : Fin 24) (c : Fin 128) (x : Circuit)
    (isFree : (s.circuit c).state = .free) (isOpen : (s.venue v).isOpen = true) (state : x.state ≠ .free)
    (venue : x.venue = some v) : ListLaw (s.openCircuit v c x) := by
  obtain ⟨nodup, mem, empty⟩ := hs
  have out : ∀ w, c ∉ (s.venue w).circuits := fun w h => ((mem w c).1 h).1 isFree
  refine ⟨fun w => ?_, fun w d => ?_, fun w hw => ?_⟩
  · rw [State.openCircuit_venue]
    split
    · exact List.nodup_append.2 ⟨nodup v, List.nodup_singleton c, fun d hd e he => by
        rw [List.mem_singleton.1 he]; exact fun h => out v (h ▸ hd)⟩
    · exact nodup w
  · have listed : d ∈ ((s.openCircuit v c x).venue w).circuits ↔ d ∈ (s.venue w).circuits ∨ (w = v ∧ d = c) := by
      rw [State.openCircuit_venue]
      split
      · next hw => simp [hw]
      · next hw => simp [hw]
    rw [listed, State.openCircuit_circuit]
    split
    · next hd =>
      rw [hd, venue, Option.some_inj]
      exact ⟨fun h => h.elim (fun h => absurd h (out w)) fun h => ⟨state, h.1.symm⟩, fun h => .inr ⟨h.2.symm, rfl⟩⟩
    · next hd => simp [hd, mem w d]
  · rw [State.openCircuit_venue] at hw ⊢
    split at hw
    · simp [Venue.isOpen] at isOpen; exact absurd hw isOpen
    · next h => rw [if_neg h]; exact empty w hw

theorem Move.keeps_listLaw (s t : State) (h : Move s t) (hs : ListLaw s) : ListLaw t := by
  cases h with
  | outside _ venues circuits =>
    have hv : ∀ w, t.venue w = s.venue w := fun w => by simp only [State.venue, venues]
    have hc : ∀ c, t.circuit c = s.circuit c := fun c => by simp only [State.circuit, circuits]
    exact hs.congr (fun w => by rw [hv]) (fun w => by rw [hv]) (fun c => by rw [hc]) fun c => by rw [hc]
  | venue v x h =>
    refine hs.congr (fun w => ?_) (fun w => ?_) (fun c => Iff.rfl) fun c => rfl
    · rw [State.setVenue_venue_eq_ite]
      split
      · next hw => rw [hw, h.circuits]
      · rfl
    · rw [State.setVenue_venue_eq_ite]
      split
      · next hw => rw [hw, h.isOpen]
      · rfl
  | rekey v k =>
    refine hs.congr (fun w => ?_) (fun w => ?_) (fun c => Iff.rfl) fun c => rfl <;>
      rw [State.setVenue_venue_eq_ite] <;> split
    · next hw => rw [hw]
    · rfl
    · next hw => rw [hw]; rfl
    · rfl
  | circuit c x h =>
    refine hs.congr (fun w => rfl) (fun w => rfl) (fun d => ?_) fun d => ?_ <;>
      rw [State.setCircuit_circuit_eq_ite] <;> split
    · next hd => rw [hd, h.free]
    · rfl
    · next hd => rw [hd, h.venue]
    · rfl
  | free c => exact hs.freeRecord c
  | openVenue v x isFree _ _ _ circuits => exact hs.setVenue_empty v x (hs.circuits_of_closed isFree) circuits
  | closeVenue v circuits => exact hs.setVenue_empty v Venue.free (circuits hs) rfl
  | openCircuit v c x isFree isOpen state venue => exact hs.openCircuit v c x isFree isOpen state venue
  | slot i x => exact hs
  | lanes _ eq venues =>
    have hc := State.lanes_circuit eq
    exact hs.congr (fun w => by rw [venues w]) (fun w => by rw [venues w]; rfl) (fun c => by rw [hc]) fun c => by rw [hc]
  | reset _ venues circuits =>
    refine ⟨fun w => ?_, fun w c => ?_, fun w _ => ?_⟩
    · rw [venues w]; exact List.nodup_nil
    · rw [venues w, circuits c]; simp [Venue.free, Circuit.free]
    · rw [venues w]; rfl

/-- Settles O56: every move keeps the lists, and a step is a row of moves. -/
theorem stepKeepsListLaw : Obligations.StepKeepsListLaw := fun _ _ hs h => (step_moves h).keep Move.keeps_listLaw hs

end Sys2Proof.Machine
end

section
/-! PROOFS. The laws that every move keeps, ended: the slots' sources (R121, R128), the lanes (R132, R135 to R138); and the
state after reset. -/

namespace Sys2Proof.Machine

/-! ### Sources of slots (R121) -/

theorem slotLaw_iff (s : State) :
    SlotLaw s ↔ ∀ i, (∀ y ∈ (s.slot i).sources, s.sourceLives y) ∧ (s.slot i).stack.length ≤ 4 := by
  refine forall_congr' fun i => ?_
  simp only [Slot.sources, List.mem_append, Option.mem_toList]
  exact ⟨fun ⟨h1, h2, h3⟩ => ⟨fun y hy => hy.elim (h1 y) (h2 y), h3⟩,
    fun ⟨h, h3⟩ => ⟨fun y hy => h y (.inl hy), fun y hy => h y (.inr hy), h3⟩⟩

/-- The slots keep their sources, and every source that lived lives. -/
theorem SlotLaw.congr {s t : State} (hs : SlotLaw s)
    (slots : ∀ i, (t.slot i).source = (s.slot i).source ∧ (t.slot i).stack = (s.slot i).stack)
    (lives : ∀ y, s.sourceLives y → t.sourceLives y) : SlotLaw t := fun i => by
  obtain ⟨h1, h2, h3⟩ := hs i
  rw [(slots i).1, (slots i).2]
  exact ⟨fun y hy => lives y (h1 y hy), fun y hy => lives y (h2 y hy), h3⟩

theorem State.sourceLives_congr {s t : State} (h : ∀ c, t.circuit c = s.circuit c) (y : SlotSource) :
    s.sourceLives y → t.sourceLives y := by
  unfold State.sourceLives
  rw [h]
  exact id

theorem SlotLaw.freeRecord {s : State} (hs : SlotLaw s) (c : Fin 128) : SlotLaw (s.freeRecord c) := by
  by_cases hf : (s.circuit c).state = .free
  · have same : s.freeRecord c = s := by rw [State.freeRecord_eq, if_pos hf]
    rw [same]; exact hs
  · rw [slotLaw_iff] at hs ⊢
    intro i
    rw [State.freeRecord_slot, if_pos hf]
    refine ⟨fun y hy => ?_, (Slot.dropCircuit_stack_length _ c).trans (hs i).2⟩
    obtain ⟨old, other⟩ := Slot.mem_dropCircuit hy
    have lives := (hs i).1 y old
    unfold State.sourceLives at lives ⊢
    rw [State.freeRecord_circuit, if_neg fun h => other h.1]
    exact lives

theorem Move.keeps_slotLaw (s t : State) (h : Move s t) (hs : SlotLaw s) : SlotLaw t := by
  cases h with
  | outside _ _ circuits _ _ slots =>
    exact hs.congr slots (State.sourceLives_congr fun c => by simp only [State.circuit, circuits])
  | venue v x => exact hs
  | rekey v k => exact hs
  | circuit c x h =>
    refine hs.congr (fun _ => ⟨rfl, rfl⟩) fun y hy => ?_
    unfold State.sourceLives at hy ⊢
    rw [State.setCircuit_circuit_eq_ite]
    split
    · next hc => rw [h.channels, ne_eq, h.free, ← hc]; exact hy
    · exact hy
  | free c => exact hs.freeRecord c
  | openVenue v x => exact hs
  | closeVenue v => exact hs
  | openCircuit v c x isFree =>
    refine hs.congr (fun _ => ⟨rfl, rfl⟩) fun y hy => ?_
    unfold State.sourceLives at hy ⊢
    rw [State.openCircuit_circuit, if_neg fun h : y.circuit = c => hy.1 (h ▸ isFree)]
    exact hy
  | slot i x live depth =>
    rw [slotLaw_iff] at hs ⊢
    intro j
    rw [State.setSlot_slot_eq_ite]
    split
    · exact ⟨fun y hy => (live y hy).elim ((hs i).1 y) id, depth (hs i).2⟩
    · exact hs j
  | lanes _ eq =>
    exact hs.congr (fun i => by rw [eq]; exact ⟨rfl, rfl⟩) (State.sourceLives_congr (State.lanes_circuit eq))
  | reset _ _ _ _ slots =>
    intro i
    rw [slots i]
    exact ⟨fun y hy => absurd hy (by simp [Slot.reset]), fun y hy => absurd hy (by simp [Slot.reset]), by simp [Slot.reset]⟩

/-- Settles O58: every move keeps the slots' sources, and a step is a row of moves. -/
theorem stepKeepsSlotLaw : Obligations.StepKeepsSlotLaw := fun _ _ hs h => (step_moves h).keep Move.keeps_slotLaw hs

/-! ### Lanes (R132, R135 to R138) -/

/-- The sources, and of each venue its lane and whether it is open, stay. -/
theorem LaneLaw.congr {s t : State} (hs : LaneLaw s) (hn : ∀ n, t.source n = s.source n)
    (hv : ∀ w, (t.venue w).isOpen = (s.venue w).isOpen ∧ (t.venue w).lane.enable = (s.venue w).lane.enable ∧
      (t.venue w).lane.state = (s.venue w).lane.state) : LaneLaw t := by
  obtain ⟨targets, enable, ok⟩ := hs
  have asks : ∀ w, t.asks w = s.asks w := fun w => funext fun n => by simp only [State.asks, hn]
  refine ⟨fun n w => ?_, fun w => ?_, fun w => ?_⟩
  · rw [hn, (hv w).1]; exact targets n w
  · rw [(hv w).1, (hv w).2.1]; exact enable w
  · rw [State.laneOk_iff, (hv w).2.1, (hv w).2.2, asks]
    exact State.laneOk_iff.1 (ok w)

/-- A lane at its reset values stands with any sources. -/
theorem State.laneOk_of_reset {s : State} {v : Fin 24} (h : (s.venue v).lane = Lane.reset) : s.LaneOk v := by
  rw [State.laneOk_iff, h]
  trivial

theorem LaneLaw.openVenue {s : State} (hs : LaneLaw s) (v : Fin 24) (x : Venue) (isOpen : x.isOpen = true)
    (lane : x.lane = Lane.reset) : LaneLaw (s.setVenue v x) := by
  obtain ⟨targets, enable, ok⟩ := hs
  refine ⟨fun n w h => ?_, fun w => ?_, fun w => ?_⟩
  · rw [State.setVenue_venue_eq_ite]
    split
    · exact isOpen
    · exact targets n w h
  · rw [State.setVenue_venue_eq_ite]
    split
    · exact fun _ => isOpen
    · exact enable w
  · by_cases hw : w = v
    · exact State.laneOk_of_reset (by rw [hw, State.setVenue_venue, lane])
    · rw [State.laneOk_iff, State.setVenue_venue_of_ne _ _ _ _ hw]
      exact State.laneOk_iff.1 (ok w)

/-- R17: after a venue is closed, its place is in no target set. -/
theorem State.closeVenue_targets (s : State) (v w : Fin 24) (n : Fin 16) :
    ((s.closeVenue v).source n).targets.getLsbD w.val = ((s.source n).targets.getLsbD w.val && decide (w ≠ v)) := by
  have bit : (1#24 <<< v.val).getLsbD w.val = decide (w = v) := by
    have hw := w.isLt
    have hv := v.isLt
    simp only [BitVec.getLsbD_shiftLeft, BitVec.getLsbD_one, Fin.ext_iff]
    grind
  rw [State.closeVenue_source]
  simp only [BitVec.getLsbD_and, BitVec.getLsbD_not, bit, w.isLt, decide_true, Bool.true_and, decide_not]

theorem LaneLaw.closeVenue {s : State} (hs : LaneLaw s) (v : Fin 24) : LaneLaw (s.closeVenue v) := by
  obtain ⟨targets, enable, ok⟩ := hs
  refine ⟨fun n w h => ?_, fun w => ?_, fun w => ?_⟩
  · rw [State.closeVenue_targets, Bool.and_eq_true, decide_eq_true_iff] at h
    rw [State.closeVenue_venue, if_neg h.2]
    exact targets n w h.1
  · rw [State.closeVenue_venue]
    split
    · exact fun h => absurd h (by decide)
    · exact enable w
  · by_cases hw : w = v
    · exact State.laneOk_of_reset (by rw [hw, State.closeVenue_venue, if_pos rfl]; rfl)
    · have asks : (s.closeVenue v).asks w = s.asks w := funext fun n => by
        have targets : ((s.closeVenue v).source n).targets.getLsbD w.val = (s.source n).targets.getLsbD w.val := by
          rw [State.closeVenue_targets]; simp [hw]
        simp only [State.asks, Source.wants, targets]
        rw [State.closeVenue_source]; rfl
      rw [State.laneOk_iff, asks, State.closeVenue_venue, if_neg hw]
      exact State.laneOk_iff.1 (ok w)

theorem Move.keeps_laneLaw (s t : State) (h : Move s t) (hs : LaneLaw s) : LaneLaw t := by
  cases h with
  | outside _ venues _ _ sources =>
    have hv : ∀ w, t.venue w = s.venue w := fun w => by simp only [State.venue, venues]
    exact hs.congr (fun n => by simp only [State.source, sources]) fun w => by rw [hv]; exact ⟨rfl, rfl, rfl⟩
  | venue v x h =>
    refine hs.congr (fun _ => rfl) fun w => ?_
    rw [State.setVenue_venue_eq_ite]
    split
    · next hw => rw [hw]; exact ⟨h.isOpen, h.enable, h.laneState⟩
    · exact ⟨rfl, rfl, rfl⟩
  | rekey v k =>
    refine hs.congr (fun _ => rfl) fun w => ?_
    rw [State.setVenue_venue_eq_ite]
    split
    · next hw => rw [hw]; exact ⟨rfl, rfl, rfl⟩
    · exact ⟨rfl, rfl, rfl⟩
  | circuit c x => exact hs
  | free c =>
    refine hs.congr (fun n => State.freeRecord_source n) fun w => ?_
    rw [State.freeRecord_venue]
    split <;> exact ⟨rfl, rfl, rfl⟩
  | openVenue v x _ isOpen _ _ _ lane => exact hs.openVenue v x isOpen lane
  | closeVenue v => exact hs.closeVenue v
  | openCircuit v c x =>
    refine hs.congr (fun _ => rfl) fun w => ?_
    rw [State.openCircuit_venue]
    split
    · next hw => rw [hw]; exact ⟨rfl, rfl, rfl⟩
    · exact ⟨rfl, rfl, rfl⟩
  | slot i x => exact hs
  | lanes _ _ _ law => exact law hs
  | reset _ venues _ _ _ sources =>
    refine ⟨fun n w h => ?_, fun w h => ?_, fun w => State.laneOk_of_reset (by rw [venues w]; rfl)⟩
    · rw [sources n] at h
      simp [Source.reset] at h
    · rw [venues w] at h
      exact absurd h (by decide)

/-- Settles O59: every move keeps the lanes, and a step is a row of moves. -/
theorem stepKeepsLaneLaw : Obligations.StepKeepsLaneLaw := fun _ _ hs h => (step_moves h).keep Move.keeps_laneLaw hs

/-! ### The state after reset -/

theorem reset_poolLaw : PoolLaw State.reset := by
  have zero : State.reset.charges = 0 := List.sum_eq_zero fun n hn => by
    obtain ⟨c, _, rfl⟩ := List.mem_map.1 hn
    rw [State.reset_circuit]; rfl
  rw [poolLaw_iff, zero]
  rfl

theorem reset_listLaw : ListLaw State.reset :=
  ⟨fun v => by rw [State.reset_venue]; exact List.nodup_nil,
   fun v c => by rw [State.reset_venue, State.reset_circuit]; simp [Venue.free, Circuit.free],
   fun v _ => by rw [State.reset_venue]; rfl⟩

theorem reset_keyLaw : KeyLaw State.reset := by
  have closed : ∀ v, (State.reset.venue v).isOpen ≠ true := fun v => by rw [State.reset_venue]; decide
  exact ⟨fun u _ hu => absurd hu (closed u), fun v hv => absurd hv (closed v)⟩

theorem reset_slotLaw : SlotLaw State.reset := fun i => by
  rw [State.reset_slot]
  simp [Slot.reset]

theorem reset_laneLaw : LaneLaw State.reset :=
  ⟨fun n v h => by rw [State.reset_source] at h; simp [Source.reset] at h,
   fun v h => by rw [State.reset_venue] at h; exact absurd h (by decide),
   fun v => State.laneOk_of_reset (by rw [State.reset_venue]; rfl)⟩

theorem reset_capacityLaw : CapacityLaw State.reset :=
  ⟨fun v => by rw [State.reset_venue]; decide, fun p => by rw [State.reset_port]; decide⟩

theorem reset_settingsLaw : SettingsLaw State.reset := fun v => by
  rw [State.reset_venue]
  simp [Venue.free, Settings.default]

theorem reset_placeLaw : PlaceLaw State.reset := fun v => by
  rw [State.reset_venue]
  simp [Venue.free, Timebase.free, Venue.seated]

/-- Settles O60, law by law: every record of the state after reset is a reset record. -/
theorem resetMeetsLaws : Obligations.ResetMeetsLaws :=
  ⟨fun c => by rw [State.reset_circuit]; exact Circuit.free_windowLaw, reset_poolLaw,
   fun v => by rw [State.reset_venue]; unfold Timebase.RateLaw; decide,
   fun c => by rw [State.reset_circuit]; exact Circuit.free_holdLaw,
   reset_listLaw, reset_keyLaw, reset_slotLaw, reset_laneLaw, reset_capacityLaw, reset_settingsLaw, reset_placeLaw⟩

end Sys2Proof.Machine
end

section
/-! PROOFS. The arithmetic of frame distances (section 5.2), and the order of a recovery queue (R98, R99). -/

namespace Sys2Proof.Machine

/-! ### Distances -/

/-- A distance is the difference of the numbers modulo 2^32, within its range: what `omega` needs of it. -/
theorem dist_spec (a b : FrameNo) : -2147483648 ≤ dist a b ∧ dist a b < 2147483648 ∧
    ∃ k : Int, dist a b = a.toNat - b.toNat + k * 4294967296 := by
  have lo := BitVec.le_toInt (a - b)
  have hi := BitVec.toInt_lt (x := a - b)
  refine ⟨by simpa [dist] using lo, by simpa [dist] using hi, ?_⟩
  have sub := BitVec.toNat_sub a b
  have ha := a.isLt
  have hb := b.isLt
  unfold dist
  rw [BitVec.toInt_eq_toNat_cond, sub]
  by_cases h : 2 * ((2 ^ 32 - b.toNat + a.toNat) % 2 ^ 32) < 2 ^ 32
  · rw [if_pos h]
    exact ⟨-(((a.toNat : Int) - b.toNat) / 4294967296), by omega⟩
  · rw [if_neg h]
    exact ⟨-(((a.toNat : Int) - b.toNat) / 4294967296) - 1, by omega⟩

@[simp] theorem dist_self (a : FrameNo) : dist a a = 0 := by simp [dist]

/-- Distances add up, as long as the sum is a distance. -/
theorem dist_add_dist {a b c : FrameNo} (lo : -2147483648 ≤ dist a b + dist b c) (hi : dist a b + dist b c < 2147483648) :
    dist a c = dist a b + dist b c := by
  obtain ⟨_, _, i, hi1⟩ := dist_spec a b
  obtain ⟨_, _, j, hj⟩ := dist_spec b c
  obtain ⟨_, _, k, hk⟩ := dist_spec a c
  omega

/-- The frame `i` after another stands `i` further. -/
theorem dist_add_ofNat {a b : FrameNo} {i : Nat} (lo : -2147483648 ≤ dist a b) (hi : dist a b + i < 2147483648) :
    dist (a + BitVec.ofNat 32 i) b = dist a b + i := by
  obtain ⟨_, _, j, hj⟩ := dist_spec a b
  obtain ⟨_, _, k, hk⟩ := dist_spec (a + BitVec.ofNat 32 i) b
  have hn : (a + BitVec.ofNat 32 i).toNat = (a.toNat + i) % 4294967296 := by simp
  have ha := a.isLt
  omega

theorem dist_succ {a b : FrameNo} (hi : dist a b + 1 < 2147483648) : dist (a + 1) b = dist a b + 1 :=
  dist_add_ofNat (i := 1) (dist_spec a b).1 hi

theorem dist_succ_right {a b : FrameNo} (lo : -2147483648 < dist a b) : dist a (b + 1) = dist a b - 1 := by
  obtain ⟨_, _, j, hj⟩ := dist_spec a b
  obtain ⟨_, _, k, hk⟩ := dist_spec a (b + 1)
  have hn : (b + 1).toNat = (b.toNat + 1) % 4294967296 := by simp
  have hb := b.isLt
  omega

theorem dist_inj {a b c : FrameNo} (h : dist a c = dist b c) : a = b := by
  obtain ⟨_, _, j, hj⟩ := dist_spec a c
  obtain ⟨_, _, k, hk⟩ := dist_spec b c
  have ha := a.isLt
  have hb := b.isLt
  exact BitVec.eq_of_toNat_eq (by omega)

/-! ### Queue order (R98, R99) -/

/-- Queue order as the place law says it: entries of one frame in the order of their circuits. -/
def RecoveryEntry.Precedes (nr : FrameNo) (x y : RecoveryEntry) : Prop :=
  dist x.frame nr < dist y.frame nr ∨ (x.frame = y.frame ∧ x.circuit < y.circuit)

theorem RecoveryEntry.before_iff (nr : FrameNo) (x y : RecoveryEntry) : x.before nr y = true ↔ x.Precedes nr y := by
  simp only [RecoveryEntry.before, RecoveryEntry.Precedes, Bool.or_eq_true, Bool.and_eq_true, decide_eq_true_iff]
  exact or_congr Iff.rfl (and_congr ⟨dist_inj, fun h => by rw [h]⟩ Iff.rfl)

theorem RecoveryEntry.Precedes.trans {nr : FrameNo} {x y z : RecoveryEntry} (h : x.Precedes nr y)
    (g : y.Precedes nr z) : x.Precedes nr z := by
  rcases h with h | ⟨h, h'⟩ <;> rcases g with g | ⟨g, g'⟩
  · exact .inl (h.trans g)
  · exact .inl (g ▸ h)
  · exact .inl (h ▸ g)
  · exact .inr ⟨h.trans g, h'.trans g'⟩

/-- Entries of different frames or circuits stand in one order or the other. -/
theorem RecoveryEntry.precedes_of_not {nr : FrameNo} {x y : RecoveryEntry}
    (other : ¬ (x.frame = y.frame ∧ x.circuit = y.circuit)) (h : ¬ x.Precedes nr y) : y.Precedes nr x := by
  simp only [RecoveryEntry.Precedes, not_or, not_and, not_lt] at h ⊢
  obtain ⟨h1, h2⟩ := h
  by_cases hf : x.frame = y.frame
  · have := h2 hf
    exact .inr ⟨hf.symm, lt_of_le_of_ne this fun e => other ⟨hf, e.symm⟩⟩
  · exact .inl (lt_of_le_of_ne h1 fun e => hf (dist_inj e).symm)

theorem mem_insertEntry {nr : FrameNo} {e x : RecoveryEntry} {l : List RecoveryEntry} :
    x ∈ insertEntry nr e l ↔ x = e ∨ x ∈ l := by
  induction l with
  | nil => simp [insertEntry]
  | cons y ys ih =>
    unfold insertEntry
    split
    · rw [List.mem_cons, List.mem_cons, ih]; tauto
    · simp

/-- R99: an entry new to the queue is entered in its order. -/
theorem insertEntry_ordered {nr : FrameNo} {e : RecoveryEntry} {l : List RecoveryEntry}
    (new : ∀ x ∈ l, ¬ (x.frame = e.frame ∧ x.circuit = e.circuit)) (h : l.Pairwise (RecoveryEntry.Precedes nr)) :
    (insertEntry nr e l).Pairwise (RecoveryEntry.Precedes nr) := by
  induction l with
  | nil => exact List.pairwise_singleton _ _
  | cons y ys ih =>
    obtain ⟨hy, hys⟩ := List.pairwise_cons.1 h
    unfold insertEntry
    split
    · next hb =>
      refine List.pairwise_cons.2 ⟨fun x hx => ?_, ih (fun x hx => new x (List.mem_cons_of_mem _ hx)) hys⟩
      rcases mem_insertEntry.1 hx with rfl | hx
      · exact (RecoveryEntry.before_iff ..).1 hb
      · exact hy x hx
    · next hb =>
      have first : e.Precedes nr y :=
        RecoveryEntry.precedes_of_not (new y List.mem_cons_self) fun h => hb ((RecoveryEntry.before_iff ..).2 h)
      refine List.pairwise_cons.2 ⟨fun x hx => ?_, h⟩
      rcases List.mem_cons.1 hx with rfl | hx
      · exact first
      · exact first.trans (hy x hx)

/-! ### Gap candidates (R68) -/

/-- R68: the candidates stand ahead of Nr and behind the frame stored, each further than the old newest frame and than
the candidates before it. -/
theorem gapCandidates_between {nr old n : FrameNo} (ahead : 0 ≤ dist n nr)
    (gap : 2 ≤ dist n old) :
    (∀ g ∈ gapCandidates nr old n, 1 ≤ dist g nr ∧ dist g nr < dist n nr ∧ dist old nr < dist g nr) ∧
      (gapCandidates nr old n).Pairwise fun g h => dist g nr < dist h nr := by
  have near := (dist_spec n nr).2.1
  obtain ⟨start, hs, h1, hold, hlen⟩ : ∃ start, gapCandidates nr old n =
      (List.range (dist n start).toNat).map (fun i => start + BitVec.ofNat 32 i) ∧ 1 ≤ dist start nr ∧
      dist old nr < dist start nr ∧ dist n start ≤ dist n nr - dist start nr := by
    unfold gapCandidates
    split
    · next h =>
      have hon : dist old nr < dist n nr := by
        obtain ⟨_, _, i, hi⟩ := dist_spec n nr
        obtain ⟨_, _, j, hj⟩ := dist_spec n old
        obtain ⟨_, _, k, hk⟩ := dist_spec old nr
        omega
      have hsucc : dist (old + 1) nr = dist old nr + 1 := dist_succ (by omega)
      have hn : dist n (old + 1) = dist n old - 1 := dist_succ_right (by omega)
      have hsum : dist n nr = dist n (old + 1) + dist (old + 1) nr := by
        obtain ⟨_, _, i, hi⟩ := dist_spec n nr
        obtain ⟨_, _, j, hj⟩ := dist_spec n (old + 1)
        obtain ⟨_, _, k, hk⟩ := dist_spec (old + 1) nr
        omega
      exact ⟨old + 1, rfl, by omega, by omega, by omega⟩
    · next h =>
      have hsucc : dist (nr + 1) nr = 1 := by rw [dist_succ] <;> simp
      have hn : dist n (nr + 1) = dist n nr - 1 := dist_succ_right (by omega)
      exact ⟨nr + 1, rfl, by omega, by omega, by omega⟩
  rw [hs]
  have value : ∀ i < (dist n start).toNat, dist (start + BitVec.ofNat 32 i) nr = dist start nr + i := fun i hi =>
    dist_add_ofNat (dist_spec _ _).1 (by omega)
  refine ⟨fun g hg => ?_, ?_⟩
  · obtain ⟨i, hi, rfl⟩ := List.mem_map.1 hg
    rw [List.mem_range] at hi
    rw [value i hi]
    omega
  · refine List.pairwise_map.2 (List.Pairwise.imp_of_mem (fun {i j} hi hj h => ?_) List.pairwise_lt_range)
    rw [List.mem_range] at hi hj
    rw [value i hi, value j hj]
    omega

end Sys2Proof.Machine
end

section
/-! PROOFS. The settings law (R4, R33) and the place law (R60, R98, R99) venue by venue, and the changes of state that keep
both: `Kept` is to these two laws what `Moves` is to the others. -/

namespace Sys2Proof.Machine

/-! ### The two laws, venue by venue -/

/-- R4: settings in their ranges, R against T. -/
def Settings.InRange (x : Settings) : Prop :=
  480 ≤ x.target ∧ x.target ≤ 48768 ∧ 1 ≤ x.budget ∧ x.budget ≤ 250 ∧ x.budget ≤ max 1 (x.target / 96 - 1) ∧
    x.allowance ≤ 20 ∧ x.attempts ≤ 2 ∧ 10 ≤ x.pathTimeout ∧ x.pathTimeout ≤ 1000 ∧ 1 ≤ x.lossTime ∧ x.lossTime ≤ 60

/-- R33: a window of one of the four sizes in which a T fits. -/
def targetFits (target window : Nat) : Prop := window ∈ [64, 128, 256, 512] ∧ target ≤ (window - 4) * 96

theorem settingsLaw_iff (s : State) : SettingsLaw s ↔ ∀ v, (s.venue v).settings.InRange ∧
    ∀ c ∈ (s.venue v).circuits, targetFits (s.venue v).settings.target (s.circuit c).window := by
  unfold SettingsLaw Settings.InRange targetFits
  simp only [and_assoc]

/-- What the place law says of one venue. -/
def State.PlaceOk (s : State) (v : Fin 24) : Prop :=
  ((s.venue v).state ≠ .active → (s.venue v).recovery = []) ∧
    match (s.venue v).timebase.phase with
    | none => (s.venue v).seated = false ∧
        ∀ c ∈ (s.venue v).circuits, (s.circuit c).cells = [] ∧ (s.circuit c).newest = none
    | some ph => (s.venue v).seated = true ∧ s.QueueOk v ph.nr ∧
        ∀ c ∈ (s.venue v).circuits, ∀ y ∈ (s.circuit c).cells,
          0 ≤ dist y.frame ph.nr ∧ dist y.frame ph.nr < (s.circuit c).window

theorem placeLaw_iff (s : State) : PlaceLaw s ↔ ∀ v, s.PlaceOk v := by
  unfold PlaceLaw State.PlaceOk
  rfl

/-- The place law of a seated venue. -/
theorem State.placeOk_of_phase {s : State} {v : Fin 24} {ph : Phase} (h : (s.venue v).timebase.phase = some ph) :
    s.PlaceOk v ↔ ((s.venue v).state ≠ .active → (s.venue v).recovery = []) ∧ (s.venue v).seated = true ∧
      s.QueueOk v ph.nr ∧ ∀ c ∈ (s.venue v).circuits, ∀ y ∈ (s.circuit c).cells,
        0 ≤ dist y.frame ph.nr ∧ dist y.frame ph.nr < (s.circuit c).window := by
  simp only [State.PlaceOk, h]

/-- The place law of a venue that is not seated. -/
theorem State.placeOk_of_phaseless {s : State} {v : Fin 24} (h : (s.venue v).timebase.phase = none) :
    s.PlaceOk v ↔ ((s.venue v).state ≠ .active → (s.venue v).recovery = []) ∧ (s.venue v).seated = false ∧
      ∀ c ∈ (s.venue v).circuits, (s.circuit c).cells = [] ∧ (s.circuit c).newest = none := by
  simp only [State.PlaceOk, h]

/-- R98, R99, with the order by its name. -/
theorem State.queueOk_iff (s : State) (v : Fin 24) (nr : FrameNo) : s.QueueOk v nr ↔
    (s.venue v).recovery.Pairwise (RecoveryEntry.Precedes nr) ∧
    ∀ e ∈ (s.venue v).recovery, e.circuit ∈ (s.venue v).circuits ∧ 1 ≤ dist e.frame nr ∧
      ∃ m, (s.circuit e.circuit).newest = some m ∧ dist e.frame nr < dist m nr := Iff.rfl

/-- What the place law reads of a venue. -/
structure Venue.SamePlace (x y : Venue) : Prop where
  state : y.state = x.state
  circuits : y.circuits = x.circuits
  recovery : y.recovery = x.recovery
  phase : y.timebase.phase = x.timebase.phase

/-- What the place law reads of a circuit. -/
structure Circuit.SamePlace (x y : Circuit) : Prop where
  cells : y.cells = x.cells
  newest : y.newest = x.newest
  window : y.window = x.window

theorem Venue.SamePlace.refl (x : Venue) : x.SamePlace x := ⟨rfl, rfl, rfl, rfl⟩

theorem Circuit.SamePlace.refl (x : Circuit) : x.SamePlace x := ⟨rfl, rfl, rfl⟩

theorem Venue.SamePlace.trans {x y z : Venue} (h : x.SamePlace y) (g : y.SamePlace z) : x.SamePlace z :=
  ⟨g.state.trans h.state, g.circuits.trans h.circuits, g.recovery.trans h.recovery, g.phase.trans h.phase⟩

theorem Circuit.SamePlace.trans {x y z : Circuit} (h : x.SamePlace y) (g : y.SamePlace z) : x.SamePlace z :=
  ⟨g.cells.trans h.cells, g.newest.trans h.newest, g.window.trans h.window⟩

theorem Venue.SamePlace.seated {x y : Venue} (h : x.SamePlace y) : y.seated = x.seated := by
  simp only [Venue.seated, h.state]

/-- Entries leave a queue, and windows lose frames: the queue keeps its order. -/
theorem State.QueueOk.sublist {s t : State} {v : Fin 24} {nr : FrameNo} (h : s.QueueOk v nr)
    (queue : (t.venue v).recovery.Sublist (s.venue v).recovery)
    (stays : ∀ e ∈ (t.venue v).recovery, e.circuit ∈ (s.venue v).circuits → e.circuit ∈ (t.venue v).circuits ∧
      (t.circuit e.circuit).newest = (s.circuit e.circuit).newest) : t.QueueOk v nr := by
  obtain ⟨order, each⟩ := h
  refine ⟨order.sublist queue, fun e he => ?_⟩
  obtain ⟨listed, ahead, behind⟩ := each e (queue.subset he)
  obtain ⟨listed, newest⟩ := stays e he listed
  exact ⟨listed, ahead, by rw [newest]; exact behind⟩

/-- The place law of a venue whose record, but for its queue, list and windows growing shorter, stays. -/
theorem State.PlaceOk.shrink {s t : State} {v : Fin 24} (h : s.PlaceOk v)
    (state : (t.venue v).state = (s.venue v).state)
    (phase : (t.venue v).timebase.phase = (s.venue v).timebase.phase)
    (queue : (t.venue v).recovery.Sublist (s.venue v).recovery)
    (circuits : ∀ c ∈ (t.venue v).circuits, c ∈ (s.venue v).circuits)
    (stays : ∀ e ∈ (t.venue v).recovery, e.circuit ∈ (s.venue v).circuits → e.circuit ∈ (t.venue v).circuits ∧
      (t.circuit e.circuit).newest = (s.circuit e.circuit).newest)
    (windows : ∀ c ∈ (t.venue v).circuits, (t.circuit c).cells.Sublist (s.circuit c).cells ∧
      ((s.circuit c).newest = none → (t.circuit c).newest = none) ∧
      (t.circuit c).window = (s.circuit c).window) : t.PlaceOk v := by
  have seated : (t.venue v).seated = (s.venue v).seated := by simp only [Venue.seated, state]
  have empty : (s.venue v).recovery = [] → (t.venue v).recovery = [] := fun e => List.eq_nil_of_sublist_nil (e ▸ queue)
  cases hp : (s.venue v).timebase.phase with
  | none =>
    rw [State.placeOk_of_phaseless hp] at h
    rw [State.placeOk_of_phaseless (phase.trans hp), state, seated]
    obtain ⟨idle, unseated, cells⟩ := h
    refine ⟨fun n => empty (idle n), unseated, fun c hc => ?_⟩
    obtain ⟨sub, none, _⟩ := windows c hc
    obtain ⟨nil, unset⟩ := cells c (circuits c hc)
    exact ⟨List.eq_nil_of_sublist_nil (nil ▸ sub), none unset⟩
  | some ph =>
    rw [State.placeOk_of_phase hp] at h
    rw [State.placeOk_of_phase (phase.trans hp), state, seated]
    obtain ⟨idle, hs, hq, cells⟩ := h
    refine ⟨fun n => empty (idle n), hs, hq.sublist queue stays, fun c hc y hy => ?_⟩
    obtain ⟨sub, _, window⟩ := windows c hc
    rw [window]
    exact cells c (circuits c hc) y (sub.subset hy)

/-- The place law reads no more of a venue and its circuits than `SamePlace` names. -/
theorem State.PlaceOk.congr {s t : State} {v : Fin 24} (h : s.PlaceOk v) (hv : (s.venue v).SamePlace (t.venue v))
    (hc : ∀ c ∈ (s.venue v).circuits, (s.circuit c).SamePlace (t.circuit c)) : t.PlaceOk v := by
  refine h.shrink hv.state hv.phase (hv.recovery ▸ List.Sublist.refl _) (fun c h => hv.circuits ▸ h) (fun e he hl => ?_)
    fun c h => ?_
  · exact ⟨hv.circuits ▸ hl, (hc _ hl).newest⟩
  · have := hc c (hv.circuits ▸ h)
    exact ⟨this.cells ▸ List.Sublist.refl _, fun e => this.newest.trans e, this.window⟩

/-! ### Changes that keep the two laws -/

/-- A row of moves that keeps the settings law and, with the laws it needs, the place law. -/
structure Kept (s t : State) : Prop where
  moves : Moves s t
  settings : ListLaw s → SettingsLaw s → SettingsLaw t
  place : ListLaw s → WindowLaw s → SettingsLaw s → PlaceLaw s → PlaceLaw t

theorem Kept.refl (s : State) : Kept s s := ⟨.refl s, fun _ h => h, fun _ _ _ h => h⟩

theorem Kept.trans {s t u : State} (h : Kept s t) (g : Kept t u) : Kept s u where
  moves := h.moves.trans g.moves
  settings hl hs := g.settings (h.moves.keep Move.keeps_listLaw hl) (h.settings hl hs)
  place hl hw hs hp := g.place (h.moves.keep Move.keeps_listLaw hl) (h.moves.keep Move.keeps_windowLaw hw)
    (h.settings hl hs) (h.place hl hw hs hp)

theorem Kept.foldl {α : Type} {f : State → α → State} (hf : ∀ t a, Kept t (f t a)) (l : List α) (s : State) :
    Kept s (l.foldl f s) := by
  induction l generalizing s with
  | nil => exact .refl s
  | cons a l ih => exact (hf s a).trans (ih _)

/-- Nothing that the two laws read of the venues and circuits changes. -/
structure Quiet (s t : State) : Prop where
  place : ∀ v, (s.venue v).SamePlace (t.venue v)
  settings : ∀ v, (t.venue v).settings = (s.venue v).settings
  circuit : ∀ c, (s.circuit c).SamePlace (t.circuit c)

theorem Quiet.refl (s : State) : Quiet s s := ⟨fun _ => .refl _, fun _ => rfl, fun _ => .refl _⟩

theorem Quiet.trans {s t u : State} (h : Quiet s t) (g : Quiet t u) : Quiet s u :=
  ⟨fun v => (h.place v).trans (g.place v), fun v => (g.settings v).trans (h.settings v),
    fun c => (h.circuit c).trans (g.circuit c)⟩

theorem Quiet.foldl {α : Type} {f : State → α → State} (hf : ∀ t a, Quiet t (f t a)) (l : List α) (s : State) :
    Quiet s (l.foldl f s) := by
  induction l generalizing s with
  | nil => exact .refl s
  | cons a l ih => exact (hf s a).trans (ih _)

/-- Venues and circuits stay. -/
theorem Quiet.outside {s t : State} (hv : t.venues = s.venues) (hc : t.circuits = s.circuits) : Quiet s t := by
  have venues : ∀ v, t.venue v = s.venue v := fun v => by simp only [State.venue, hv]
  have circuits : ∀ c, t.circuit c = s.circuit c := fun c => by simp only [State.circuit, hc]
  exact ⟨fun v => venues v ▸ .refl _, fun v => by rw [venues v], fun c => circuits c ▸ .refl _⟩

theorem Quiet.setVenue {s : State} {v : Fin 24} {x : Venue} (h : (s.venue v).SamePlace x)
    (hs : x.settings = (s.venue v).settings) : Quiet s (s.setVenue v x) := by
  refine ⟨fun w => ?_, fun w => ?_, fun _ => .refl _⟩ <;> rw [State.setVenue_venue_eq_ite] <;> split
  · next hw => rw [hw]; exact h
  · exact .refl _
  · next hw => rw [hw]; exact hs
  · rfl

theorem Quiet.setCircuit {s : State} {c : Fin 128} {x : Circuit} (h : (s.circuit c).SamePlace x) :
    Quiet s (s.setCircuit c x) := by
  refine ⟨fun _ => .refl _, fun _ => rfl, fun d => ?_⟩
  rw [State.setCircuit_circuit_eq_ite]
  split
  · next hd => rw [hd]; exact h
  · exact .refl _

theorem Quiet.modCircuits {s : State} (cs : List (Fin 128)) {f : Circuit → Circuit} (h : ∀ x : Circuit, x.SamePlace (f x)) :
    Quiet s (s.modCircuits cs f) := Quiet.foldl (fun t c => .setCircuit (h (t.circuit c))) cs s

theorem Quiet.report (s : State) (v : Fin 24) (r : Report) : Quiet s (s.report v r) :=
  .setVenue ⟨rfl, rfl, rfl, rfl⟩ rfl

theorem Quiet.reports (s : State) (v : Fin 24) (rs : List Report) : Quiet s (s.reports v rs) :=
  Quiet.foldl (fun t r => .report t v r) rs s

theorem SettingsLaw.congr {s t : State} (h : SettingsLaw s) (hv : ∀ v, (t.venue v).settings = (s.venue v).settings)
    (hl : ∀ v, ∀ c ∈ (t.venue v).circuits, c ∈ (s.venue v).circuits ∧ (t.circuit c).window = (s.circuit c).window) :
    SettingsLaw t := by
  rw [settingsLaw_iff] at h ⊢
  intro v
  rw [hv v]
  exact ⟨(h v).1, fun c hc => by rw [(hl v c hc).2]; exact (h v).2 c (hl v c hc).1⟩

theorem Quiet.settingsLaw {s t : State} (q : Quiet s t) (h : SettingsLaw s) : SettingsLaw t :=
  h.congr q.settings fun v c hc => ⟨(q.place v).circuits ▸ hc, (q.circuit c).window⟩

theorem Quiet.placeOk {s t : State} (q : Quiet s t) {v : Fin 24} (h : s.PlaceOk v) : t.PlaceOk v :=
  h.congr (q.place v) fun c _ => q.circuit c

theorem Kept.quiet {s t : State} (m : Moves s t) (q : Quiet s t) : Kept s t :=
  ⟨m, fun _ h => q.settingsLaw h, fun _ _ _ h => (placeLaw_iff t).2 fun v => q.placeOk ((placeLaw_iff s).1 h v)⟩

/-- A circuit of one venue's list stands in no other. -/
theorem ListLaw.notMem_of_ne {s : State} (hl : ListLaw s) {v w : Fin 24} (hw : w ≠ v) {c : Fin 128}
    (hc : c ∈ (s.venue v).circuits) : c ∉ (s.venue w).circuits := fun h => by
  have hv := ((hl.2.1 v c).1 hc).2
  rw [((hl.2.1 w c).1 h).2, Option.some_inj] at hv
  exact hw hv

/-- A change of one venue and the circuits of its list keeps the place law when it keeps that venue's. -/
theorem Kept.ofVenue {s t : State} (v : Fin 24) (m : Moves s t)
    (others : ∀ w, w ≠ v → (s.venue w).SamePlace (t.venue w))
    (settings : ∀ w, (t.venue w).settings = (s.venue w).settings)
    (list : ∀ c ∈ (t.venue v).circuits, c ∈ (s.venue v).circuits)
    (circuits : ListLaw s → ∀ c, c ∉ (s.venue v).circuits → (s.circuit c).SamePlace (t.circuit c))
    (windows : ListLaw s → ∀ c ∈ (t.venue v).circuits, (t.circuit c).window = (s.circuit c).window)
    (place : ListLaw s → WindowLaw s → SettingsLaw s → s.PlaceOk v → t.PlaceOk v) : Kept s t where
  moves := m
  settings hl hs := hs.congr settings fun w c hc => by
    by_cases hw : w = v
    · subst hw
      exact ⟨list c hc, windows hl c hc⟩
    · have old : c ∈ (s.venue w).circuits := (others w hw).circuits ▸ hc
      exact ⟨old, (circuits hl c (hl.notMem_of_ne (Ne.symm hw) old)).window⟩
  place hl hw hs hp := by
    rw [placeLaw_iff] at hp ⊢
    intro w
    by_cases h : w = v
    · exact h ▸ place hl hw hs (hp v)
    · exact (hp w).congr (others w h) fun c hc => circuits hl c (hl.notMem_of_ne (Ne.symm h) hc)

end Sys2Proof.Machine
end

section
/-! PROOFS. The shared operations and the works of a boundary keep the settings law and the place law (`Kept`). -/

namespace Sys2Proof.Machine

/-! ### Flushing, freeing, unseating, HOLDOVER -/

theorem Kept.flush (s : State) (v : Fin 24) : Kept s (s.flush v) := by
  refine .ofVenue v (.flush s v) (fun w hw => ?_) (fun w => State.flush_venue_settings s v w)
    (fun c hc => by simpa using hc) (fun _ c _ => by rw [State.flush_circuit]; exact .refl _)
    (fun _ c _ => by rw [State.flush_circuit]) fun _ _ _ h => ?_
  · rw [State.flush_venue_of_ne s v w hw]; exact .refl _
  · refine h.shrink (by simp) (by simp) (by simp) (fun c hc => by simpa using hc) (fun e he => ?_) fun c hc => ?_
    · simp at he
    · rw [State.flush_circuit]; exact ⟨List.Sublist.refl _, id, rfl⟩

/-- R39: the venues whose list a freed circuit leaves lose its entries with it. -/
theorem State.freeRecord_queue {s : State} (hl : ListLaw s) {c : Fin 128} {w : Fin 24} {e : RecoveryEntry}
    (he : e ∈ ((s.freeRecord c).venue w).recovery) (listed : e.circuit ∈ (s.venue w).circuits) : e.circuit ≠ c := by
  rintro rfl
  rw [State.freeRecord_venue, if_pos ((hl.2.1 w _).1 listed)] at he
  simp [Venue.dropEntries] at he

theorem Kept.freeRecord (s : State) (c : Fin 128) : Kept s (s.freeRecord c) where
  moves := .freeRecord s c
  settings hl hs := by
    refine hs.congr (fun w => ?_) fun w d hd => ?_
    · rw [State.freeRecord_venue]; split <;> rfl
    · rw [hl.freeRecord_circuits, List.mem_filter] at hd
      rw [State.freeRecord_circuit, if_neg fun h => by simp [h.1] at hd]
      exact ⟨hd.1, rfl⟩
  place hl _ _ hp := by
    rw [placeLaw_iff] at hp ⊢
    intro w
    have other : ∀ d, d ≠ c → (s.freeRecord c).circuit d = s.circuit d := fun d hd => by
      rw [State.freeRecord_circuit, if_neg fun h => hd h.1]
    refine (hp w).shrink ?_ ?_ ?_ (fun d hd => ?_) (fun e he listed => ?_) fun d hd => ?_
    · rw [State.freeRecord_venue]; split <;> rfl
    · rw [State.freeRecord_venue]; split <;> rfl
    · rw [State.freeRecord_venue]
      split
      · exact List.filter_sublist
      · exact List.Sublist.refl _
    · rw [hl.freeRecord_circuits] at hd
      exact List.mem_of_mem_filter hd
    · have hne := State.freeRecord_queue hl he listed
      rw [hl.freeRecord_circuits, List.mem_filter, other _ hne]
      exact ⟨⟨listed, by simpa using hne⟩, rfl⟩
    · rw [hl.freeRecord_circuits, List.mem_filter] at hd
      rw [other d (by simpa using hd.2)]
      exact ⟨List.Sublist.refl _, id, rfl⟩

theorem Kept.unseatCircuit (s : State) (c : Fin 128) : Kept s (s.unseatCircuit c) := by
  have arm : s.unseatCircuit c = s.setCircuit c { s.circuit c with state := .armed, hold := (s.circuit c).holdInit } →
      Kept s (s.unseatCircuit c) := fun e =>
    .quiet (.unseatCircuit s c) (e ▸ .setCircuit ⟨rfl, rfl, rfl⟩)
  cases hs : (s.circuit c).state with
  | running => exact arm (by simp only [State.unseatCircuit, hs])
  | concealing => exact arm (by simp only [State.unseatCircuit, hs])
  | closing => simp only [State.unseatCircuit, hs]; exact .freeRecord s c
  | free => simp only [State.unseatCircuit, hs]; exact .refl s
  | armed => simp only [State.unseatCircuit, hs]; exact .refl s
  | lost => simp only [State.unseatCircuit, hs]; exact .refl s

/-- R9, R91 but for the circuits' states: the windows and the queue emptied, the venue WAITING. -/
def State.unseatVenue (s : State) (v : Fin 24) : State :=
  ((s.modCircuits (s.venue v).circuits Circuit.clearWindow).flush v).modVenue v fun ve =>
    { ve with state := .waiting, newest := none, aheadStreak := 0, lateStreak := 0,
              timebase := ve.timebase.unseat, holdoverElapsed := 0, holdoverSince := none }

theorem State.unseat_eq (s : State) (v : Fin 24) :
    s.unseat v = (s.venue v).circuits.foldl State.unseatCircuit (s.unseatVenue v) := rfl

theorem State.unseatVenue_circuit (s : State) (v : Fin 24) (c : Fin 128) :
    (s.unseatVenue v).circuit c = (s.modCircuits (s.venue v).circuits Circuit.clearWindow).circuit c := by
  simp [State.unseatVenue]

theorem State.unseatVenue_venue_of_ne (s : State) {v w : Fin 24} (h : w ≠ v) : (s.unseatVenue v).venue w = s.venue w := by
  simp [State.unseatVenue, State.setVenue_venue_of_ne _ _ _ _ h, State.flush_venue_of_ne _ _ _ h]

theorem Moves.unseatVenue (s : State) (v : Fin 24) (ho : (s.venue v).isOpen = true) : Moves s (s.unseatVenue v) := by
  refine (Moves.modCircuits s _ _ CircuitMove.clearWindow).trans ((Moves.flush _ v).trans (Moves.modVenue _ v _ ?_))
  refine ⟨?_, rfl, rfl, rfl, rfl, fun h => h.unseat, id, id⟩
  simp only [Venue.isOpen, State.flush_venue_state, State.modCircuits_venue] at ho ⊢
  rw [ho]; rfl

theorem Kept.unseat (s : State) (v : Fin 24) (ho : (s.venue v).isOpen = true) : Kept s (s.unseat v) := by
  rw [State.unseat_eq]
  refine .trans (.ofVenue v (.unseatVenue s v ho) (fun w hw => ?_) (fun w => ?_) (fun c hc => ?_) (fun _ c hc => ?_)
    (fun _ c _ => ?_) fun hl _ _ _ => ?_) (.foldl (fun t c => .unseatCircuit t c) _ _)
  · rw [State.unseatVenue_venue_of_ne s hw]; exact .refl _
  · by_cases hw : w = v
    · subst hw; simp [State.unseatVenue]
    · rw [State.unseatVenue_venue_of_ne s hw]
  · simpa [State.unseatVenue] using hc
  · rw [State.unseatVenue_circuit, State.modCircuits_circuit_of_notMem _ _ _ _ hc]; exact .refl _
  · rw [State.unseatVenue_circuit]
    exact State.modCircuits_circuit_induct s _ Circuit.clearWindow (fun x => x.window = (s.circuit c).window) (fun _ h => h) c rfl
  · have phase : ((s.unseatVenue v).venue v).timebase.phase = none := by simp [State.unseatVenue, Timebase.unseat]
    rw [State.placeOk_of_phaseless phase]
    refine ⟨fun _ => by simp [State.unseatVenue], by simp [State.unseatVenue, Venue.seated], fun c hc => ?_⟩
    have listed : c ∈ (s.venue v).circuits := by simpa [State.unseatVenue] using hc
    rw [State.unseatVenue_circuit, State.modCircuits_circuit_of_mem _ _ _ _ (hl.1 v) listed]
    exact ⟨rfl, rfl⟩

theorem Kept.freeCircuit (s : State) (c : Fin 128) : Kept s (s.freeCircuit c) := by
  simp only [State.freeCircuit]
  split
  · exact .freeRecord s c
  · split
    · next v _ h =>
      rw [Bool.and_eq_true] at h
      exact (Kept.freeRecord s c).trans (.unseat _ v (Venue.seated_isOpen _ h.1))
    · exact .freeRecord s c

/-- Only a seated venue has a read phase. -/
theorem State.PlaceOk.phase_of_seated {s : State} {v : Fin 24} (h : s.PlaceOk v) (hs : (s.venue v).seated = true) :
    ∃ ph, (s.venue v).timebase.phase = some ph := by
  cases hp : (s.venue v).timebase.phase with
  | some ph => exact ⟨ph, rfl⟩
  | none =>
    rw [State.placeOk_of_phaseless hp, hs] at h
    cases h.2.1

theorem Venue.seated_of_active {x : Venue} (h : x.state = .active) : x.seated = true := by simp [Venue.seated, h]

/-- A seated venue stays seated with its queue emptied. -/
theorem State.PlaceOk.reseated {s t : State} {v : Fin 24} (h : s.PlaceOk v) (hs : (s.venue v).seated = true)
    (ht : (t.venue v).seated = true) (phase : (t.venue v).timebase.phase = (s.venue v).timebase.phase)
    (circuits : (t.venue v).circuits = (s.venue v).circuits)
    (queue : (t.venue v).recovery = [])
    (windows : ∀ c ∈ (s.venue v).circuits, (s.circuit c).SamePlace (t.circuit c)) : t.PlaceOk v := by
  obtain ⟨ph, hp⟩ := h.phase_of_seated hs
  rw [State.placeOk_of_phase hp] at h
  rw [State.placeOk_of_phase (phase.trans hp)]
  refine ⟨fun _ => queue, ht, ⟨by rw [queue]; exact List.Pairwise.nil, fun e he => ?_⟩, fun c hc => ?_⟩
  · rw [queue] at he; cases he
  · rw [circuits] at hc
    rw [(windows c hc).cells, (windows c hc).window]
    exact h.2.2.2 c hc

theorem Kept.enterHoldover (s : State) (v : Fin 24) (hs : (s.venue v).seated = true) : Kept s (s.enterHoldover v) := by
  have circuit : ∀ c, (s.enterHoldover v).circuit c = s.circuit c := fun c => by simp [State.enterHoldover]
  refine .ofVenue v (.enterHoldover s v (Venue.seated_isOpen _ hs)) (fun w hw => ?_) (fun w => ?_) (fun c hc => ?_)
    (fun _ c _ => by rw [circuit]; exact .refl _) (fun _ c _ => by rw [circuit]) fun _ _ _ h => ?_
  · simp only [State.enterHoldover]
    rw [State.flush_venue_of_ne _ _ _ hw, State.modVenue_eq, State.setVenue_venue_of_ne _ _ _ _ hw]
    exact .refl _
  · simp only [State.enterHoldover, State.flush_venue_settings, State.modVenue_eq, State.setVenue_venue_eq_ite]
    split
    · next hw => rw [hw]
    · rfl
  · simpa [State.enterHoldover] using hc
  · refine h.reseated hs ?_ (by simp [State.enterHoldover, Timebase.enterHoldover]) (by simp [State.enterHoldover])
      (by simp [State.enterHoldover]) fun c _ => by rw [circuit]; exact .refl _
    simp [State.enterHoldover, Venue.seated]

theorem Kept.holdoverIfPathless (s : State) (v : Fin 24) : Kept s (s.holdoverIfPathless v) := by
  simp only [State.holdoverIfPathless]
  split
  · next h =>
    rw [Bool.and_eq_true, decide_eq_true_iff] at h
    exact .enterHoldover s v (Venue.seated_of_active h.1)
  · exact .refl s

/-! ### Transmission and the request pass -/

theorem Quiet.submitCopy (s : State) (v : Fin 24) (o : VctOut) (p : PathId) : Quiet s (s.submitCopy v o p) := by
  simp only [State.submitCopy]
  split
  · split
    · exact .outside rfl rfl
    · exact .refl s
  · exact .refl s

theorem Quiet.submit (s : State) (v : Fin 24) (o : VctOut) : Quiet s (s.submit v o) :=
  (Quiet.submitCopy s v o .a).trans (.submitCopy _ v o .b)

/-- R105, R106: what a request pass at read frame `nr` makes of an entry. -/
def State.passVerdict (s : State) (v : Fin 24) (nr : FrameNo) (e : RecoveryEntry) : PassVerdict :=
  e.judge (s.venue v).settings nr s.blockCount

/-- R106: an entry that stays in the queue, as the pass leaves it. -/
def State.passEntry (s : State) (v : Fin 24) (nr : FrameNo) (e : RecoveryEntry) : RecoveryEntry :=
  if s.passVerdict v nr e = .request then e.requested nr else e

/-- R106, R107: the entries a request pass asks for, as their request leaves them. -/
def State.passAsked (s : State) (v : Fin 24) (nr : FrameNo) : List RecoveryEntry :=
  ((s.venue v).recovery.filter fun e => s.passVerdict v nr e == .request).map fun e => e.requested nr

/-- R105, R106: the queue judged: entries too late reported and gone, the others asked for or left. -/
def State.judgeQueue (s : State) (v : Fin 24) (nr : FrameNo) : State :=
  (s.reports v (((s.venue v).recovery.filter fun e => s.passVerdict v nr e == .tooLate).map
    fun e => e.report .tooLate)).modVenue v fun x => { x with recovery :=
      ((s.venue v).recovery.filter fun e => s.passVerdict v nr e != .tooLate).map (s.passEntry v nr) }

/-- R104: the request pass of an ACTIVE venue that asks for repairs: the judgement, then the frames. -/
theorem State.requestPass_of_active {s : State} {v : Fin 24} {ph : Phase} (hs : (s.venue v).state = .active)
    (hp : (s.venue v).timebase.phase = some ph) (ha : (s.venue v).settings.attempts ≠ 0) :
    s.requestPass v = (packs (s.passAsked v ph.nr).length (s.passAsked v ph.nr)).foldl
      (fun t es => t.submit v (recoveryFrame s ph.nr es)) (s.judgeQueue v ph.nr) := by
  simp only [State.requestPass, hs, hp, ha, if_false]
  rfl

/-- R104: any other venue has no request pass. -/
theorem State.requestPass_of_idle {s : State} {v : Fin 24}
    (h : (s.venue v).state ≠ .active ∨ (s.venue v).timebase.phase = none ∨ (s.venue v).settings.attempts = 0) :
    s.requestPass v = s := by
  simp only [State.requestPass]
  split
  · next ph hs hp =>
    rcases h with h | h | h
    · exact absurd hs h
    · rw [h] at hp; cases hp
    · rw [if_pos h]
  · rfl

theorem State.judgeQueue_venue_self (s : State) (v : Fin 24) (nr : FrameNo) : (s.judgeQueue v nr).venue v =
    { s.venue v with
      health := ((s.judgeQueue v nr).venue v).health
      recovery := ((s.venue v).recovery.filter fun e => s.passVerdict v nr e != .tooLate).map (s.passEntry v nr) } := by
  simp only [State.judgeQueue, State.modVenue_eq, State.setVenue_venue]
  rw [State.reports_venue]

theorem State.judgeQueue_venue_of_ne (s : State) {v w : Fin 24} (nr : FrameNo) (h : w ≠ v) :
    (s.judgeQueue v nr).venue w = s.venue w := by
  rw [State.judgeQueue, State.modVenue_eq, State.setVenue_venue_of_ne _ _ _ _ h, State.reports_venue_of_ne _ _ _ _ h]

@[simp] theorem State.judgeQueue_circuit (s : State) (v : Fin 24) (nr : FrameNo) (c : Fin 128) :
    (s.judgeQueue v nr).circuit c = s.circuit c := by simp [State.judgeQueue]

theorem State.passEntry_keeps (s : State) (v : Fin 24) (nr : FrameNo) (e : RecoveryEntry) :
    (s.passEntry v nr e).circuit = e.circuit ∧ (s.passEntry v nr e).frame = e.frame := by
  unfold State.passEntry
  split <;> exact ⟨rfl, rfl⟩

theorem Moves.judgeQueue (s : State) (v : Fin 24) (nr : FrameNo) : Moves s (s.judgeQueue v nr) := by
  refine .trans (Moves.reports s v _) (Moves.modVenue _ v _ (.quiet rfl rfl rfl rfl rfl id ?_ rfl))
  simp only [State.reports_venue_recovery, List.length_map]
  exact List.length_filter_le _ _

theorem Kept.judgeQueue (s : State) (v : Fin 24) {ph : Phase} (hs : (s.venue v).state = .active)
    (hp : (s.venue v).timebase.phase = some ph) : Kept s (s.judgeQueue v ph.nr) := by
  have self := s.judgeQueue_venue_self v ph.nr
  refine .ofVenue v (.judgeQueue s v ph.nr) (fun w hw => ?_) (fun w => ?_) (fun c hc => ?_)
    (fun _ c _ => by rw [State.judgeQueue_circuit]; exact .refl _) (fun _ c _ => by rw [State.judgeQueue_circuit])
    fun _ _ _ h => ?_
  · rw [State.judgeQueue_venue_of_ne s ph.nr hw]; exact .refl _
  · by_cases hw : w = v
    · rw [hw, self]
    · rw [State.judgeQueue_venue_of_ne s ph.nr hw]
  · rw [self] at hc; exact hc
  · rw [State.placeOk_of_phase hp] at h
    have phase : ((s.judgeQueue v ph.nr).venue v).timebase.phase = some ph := by rw [self]; exact hp
    obtain ⟨_, seated, ⟨order, each⟩, cells⟩ := h
    rw [State.placeOk_of_phase phase, State.queueOk_iff, self]
    refine ⟨fun h => absurd hs h, seated, ⟨?_, fun e he => ?_⟩, fun c hc => ?_⟩
    · rw [List.pairwise_map]
      refine (order.sublist List.filter_sublist).imp fun {x y} hxy => ?_
      simp only [RecoveryEntry.Precedes, State.passEntry_keeps]
      exact hxy
    · obtain ⟨x, hx, rfl⟩ := List.mem_map.1 he
      simp only [State.passEntry_keeps, State.judgeQueue_circuit]
      exact each x (List.mem_of_mem_filter hx)
    · rw [State.judgeQueue_circuit]; exact cells c hc

theorem Kept.requestPass (s : State) (v : Fin 24) : Kept s (s.requestPass v) := by
  by_cases h : (s.venue v).state ≠ .active ∨ (s.venue v).timebase.phase = none ∨ (s.venue v).settings.attempts = 0
  · rw [State.requestPass_of_idle h]; exact .refl s
  · simp only [not_or, ne_eq, not_not] at h
    obtain ⟨hs, hp, ha⟩ := h
    obtain ⟨ph, hp⟩ := Option.ne_none_iff_exists'.1 hp
    rw [State.requestPass_of_active hs hp ha]
    exact (Kept.judgeQueue s v hs hp).trans
      (.foldl (fun t es => .quiet (.submit t v _) (.submit t v _)) _ _)

end Sys2Proof.Machine
end

section
/-! PROOFS. An arriving frame keeps the settings law and the place law (`Kept`): the store with its gaps, the seats, and
the frame handed on. -/

namespace Sys2Proof.Machine

/-! ### Newest frames (R66) -/

/-- R66: for a frame that stands ahead of Nr, the newest frame after it is stored is the further of the two. -/
theorem dist_newer {nr n m : FrameNo} (ahead : 0 ≤ dist n nr) (between : 1 ≤ dist m nr) :
    ∃ k, newer (some m) n = some k ∧ dist m nr ≤ dist k nr := by
  simp only [newer]
  split
  · next h =>
    refine ⟨n, rfl, ?_⟩
    obtain ⟨_, _, i, hi⟩ := dist_spec n nr
    obtain ⟨_, _, j, hj⟩ := dist_spec m nr
    obtain ⟨_, _, k, hk⟩ := dist_spec n m
    omega
  · exact ⟨m, rfl, le_rfl⟩

/-! ### Entering gaps (R100) -/

section Gaps

variable {s : State} {v : Fin 24} {c : Fin 128} {ph : Phase}

/-- Gaps in their order may be entered: ahead of Nr, behind the newest frame of their circuit, and further than every
entry that the queue holds for it. -/
structure State.GapsFit (s : State) (v : Fin 24) (c : Fin 128) (nr : FrameNo) (gaps : List FrameNo) : Prop where
  listed : c ∈ (s.venue v).circuits
  between : ∃ m, (s.circuit c).newest = some m ∧ ∀ g ∈ gaps, 1 ≤ dist g nr ∧ dist g nr < dist m nr
  beyond : ∀ e ∈ (s.venue v).recovery, e.circuit = c → ∀ g ∈ gaps, dist e.frame nr < dist g nr
  ordered : gaps.Pairwise fun g h => dist g nr < dist h nr

theorem State.enterGap_circuit (s : State) (v : Fin 24) (c d : Fin 128) (p : Fin 4) (n : FrameNo) :
    (s.enterGap v c p n).circuit d = s.circuit d := by
  simp only [State.enterGap]
  split
  · rfl
  · split <;> rfl

theorem State.enterGap_venue_of_ne (s : State) {v w : Fin 24} (h : w ≠ v) (c : Fin 128) (p : Fin 4) (n : FrameNo) :
    (s.enterGap v c p n).venue w = s.venue w := by
  simp only [State.enterGap]
  split
  · rfl
  · split
    · exact State.setVenue_venue_of_ne _ _ _ _ h
    · exact State.report_venue_of_ne _ _ _ _ h

/-- R100: the queue takes the gap in its order, or is full and reports it; the rest of the venue but its health stays. -/
theorem State.enterGap_venue (s : State) (v : Fin 24) (c : Fin 128) (p : Fin 4) (n : FrameNo) :
    (s.enterGap v c p n).venue v = { s.venue v with
      recovery := ((s.enterGap v c p n).venue v).recovery, health := ((s.enterGap v c p n).venue v).health } := by
  simp only [State.enterGap]
  split
  · rfl
  · split
    · simp only [State.modVenue_eq, State.setVenue_venue]
    · conv_lhs => rw [State.report_venue]
      simp

theorem State.enterGap_recovery (p : Fin 4) (n : FrameNo) (hp : (s.venue v).timebase.phase = some ph) :
    ((s.enterGap v c p n).venue v).recovery = (s.venue v).recovery ∨
      ((s.enterGap v c p n).venue v).recovery = insertEntry ph.nr ⟨c, n, s.blockCount, 0, none⟩ (s.venue v).recovery := by
  simp only [State.enterGap, hp]
  split
  · right; simp
  · left; simp

theorem State.GapsFit.enterGap {p : Fin 4} {n : FrameNo} {ns : List FrameNo} (fit : s.GapsFit v c ph.nr (n :: ns))
    (hp : (s.venue v).timebase.phase = some ph) : (s.enterGap v c p n).GapsFit v c ph.nr ns := by
  obtain ⟨listed, ⟨m, newest, between⟩, beyond, ordered⟩ := fit
  obtain ⟨first, ordered⟩ := List.pairwise_cons.1 ordered
  refine ⟨?_, ⟨m, ?_, fun g hg => between g (List.mem_cons_of_mem _ hg)⟩, fun e he hc g hg => ?_, ordered⟩
  · rw [State.enterGap_venue]; exact listed
  · rw [State.enterGap_circuit]; exact newest
  · rcases State.enterGap_recovery (c := c) p n hp with h | h <;> rw [h] at he
    · exact beyond e he hc g (List.mem_cons_of_mem _ hg)
    · rcases mem_insertEntry.1 he with rfl | he
      · exact first g hg
      · exact beyond e he hc g (List.mem_cons_of_mem _ hg)

/-- A gap that fits is entered in order. -/
theorem State.QueueOk.enterGap {p : Fin 4} {n : FrameNo} {ns : List FrameNo} (h : s.QueueOk v ph.nr)
    (hp : (s.venue v).timebase.phase = some ph) (fit : s.GapsFit v c ph.nr (n :: ns)) :
    (s.enterGap v c p n).QueueOk v ph.nr := by
  have self := s.enterGap_venue v c p n
  rw [State.queueOk_iff] at h
  obtain ⟨order, each⟩ := h
  obtain ⟨listed, ⟨m, newest, between⟩, beyond, _⟩ := fit
  rw [State.queueOk_iff]
  refine ⟨?_, fun e he => ?_⟩
  · rcases State.enterGap_recovery (c := c) p n hp with h | h <;> rw [h]
    · exact order
    · exact insertEntry_ordered (fun x hx ⟨hf, hc⟩ => by
        have hlt := beyond x hx hc n List.mem_cons_self
        rw [hf] at hlt
        exact lt_irrefl _ hlt) order
  · have circuits : ((s.enterGap v c p n).venue v).circuits = (s.venue v).circuits := by rw [self]
    rw [circuits, State.enterGap_circuit]
    rcases State.enterGap_recovery (c := c) p n hp with h | h <;> rw [h] at he
    · exact each e he
    · rcases mem_insertEntry.1 he with rfl | he
      · exact ⟨listed, (between n List.mem_cons_self).1, m, newest, (between n List.mem_cons_self).2⟩
      · exact each e he

theorem State.QueueOk.enterGaps {p : Fin 4} {ns : List FrameNo} (h : s.QueueOk v ph.nr)
    (hp : (s.venue v).timebase.phase = some ph) (fit : s.GapsFit v c ph.nr ns) :
    (s.enterGaps v c p ns).QueueOk v ph.nr := by
  induction ns generalizing s with
  | nil => exact h
  | cons n ns ih =>
    refine ih (h.enterGap hp fit) ?_ (fit.enterGap hp)
    rw [State.enterGap_venue]
    exact hp

theorem State.enterGaps_circuit (s : State) (v : Fin 24) (c d : Fin 128) (p : Fin 4) (ns : List FrameNo) :
    (s.enterGaps v c p ns).circuit d = s.circuit d := by
  induction ns generalizing s with
  | nil => rfl
  | cons n ns ih => exact (ih _).trans (State.enterGap_circuit s v c d p n)

theorem State.enterGaps_venue_of_ne (s : State) {v w : Fin 24} (h : w ≠ v) (c : Fin 128) (p : Fin 4)
    (ns : List FrameNo) : (s.enterGaps v c p ns).venue w = s.venue w := by
  induction ns generalizing s with
  | nil => rfl
  | cons n ns ih => exact (ih _).trans (State.enterGap_venue_of_ne s h c p n)

theorem State.enterGaps_venue (s : State) (v : Fin 24) (c : Fin 128) (p : Fin 4) (ns : List FrameNo) :
    (s.enterGaps v c p ns).venue v = { s.venue v with
      recovery := ((s.enterGaps v c p ns).venue v).recovery
      health := ((s.enterGaps v c p ns).venue v).health } := by
  induction ns generalizing s with
  | nil => rfl
  | cons n ns ih =>
    have h := ih (s.enterGap v c p n)
    rw [State.enterGap_venue s] at h
    exact h

theorem State.PlaceOk.enterGaps {p : Fin 4} {ns : List FrameNo} (h : s.PlaceOk v) (hs : (s.venue v).state = .active)
    (hp : (s.venue v).timebase.phase = some ph) (fit : s.GapsFit v c ph.nr ns) : (s.enterGaps v c p ns).PlaceOk v := by
  have self := s.enterGaps_venue v c p ns
  have phase : ((s.enterGaps v c p ns).venue v).timebase.phase = some ph := by rw [self]; exact hp
  have active : ((s.enterGaps v c p ns).venue v).state = .active := by rw [self]; exact hs
  rw [State.placeOk_of_phase hp] at h
  obtain ⟨_, seated, queue, cells⟩ := h
  rw [State.placeOk_of_phase phase]
  refine ⟨fun hn => absurd active hn, by rw [self]; exact seated, queue.enterGaps hp fit, fun d hd => ?_⟩
  rw [self] at hd
  rw [State.enterGaps_circuit]
  exact cells d hd

end Gaps

/-! ### The store (R65 to R69) -/

section Store

variable (s : State) (v : Fin 24) (c : Fin 128) (a : Arrival)

/-- R65 to R67: the frame in its cell, the newest frames and the streaks, before gaps and settlement. -/
def State.putFrame : State :=
  (s.modCircuit c fun x => { x.store a.frame a.chans with newest := newer x.newest a.frame }).modVenue v
    fun ve => { ve.clearStreaks with newest := newer ve.newest a.frame }

theorem State.storeFrame_eq : s.storeFrame v c a =
    ((s.putFrame v c a).detectGaps v c a (s.circuit c).newest).settleStore v c a := rfl

theorem State.putFrame_circuit (d : Fin 128) : (s.putFrame v c a).circuit d =
    if d = c then { (s.circuit c).store a.frame a.chans with newest := newer (s.circuit c).newest a.frame }
    else s.circuit d := by
  show (s.setCircuit c _).circuit d = _
  rw [State.setCircuit_circuit_eq_ite]

theorem State.putFrame_venue_self : (s.putFrame v c a).venue v =
    { s.venue v with aheadStreak := 0, lateStreak := 0, newest := newer (s.venue v).newest a.frame } := by
  simp [State.putFrame, Venue.clearStreaks]

theorem State.putFrame_venue_of_ne {w : Fin 24} (h : w ≠ v) : (s.putFrame v c a).venue w = s.venue w := by
  simp [State.putFrame, State.setVenue_venue_of_ne _ _ _ _ h]

/-- What gap detection does not touch. -/
theorem State.detectGaps_circuit (old : Option FrameNo) (d : Fin 128) :
    (s.detectGaps v c a old).circuit d = s.circuit d := by
  simp only [State.detectGaps]
  split
  · split
    · split <;> simp [State.enterGaps_circuit]
    · rfl
  · rfl

theorem State.detectGaps_venue_of_ne (old : Option FrameNo) {w : Fin 24} (h : w ≠ v) :
    (s.detectGaps v c a old).venue w = s.venue w := by
  simp only [State.detectGaps]
  split
  · split
    · split <;> simp [State.enterGaps_venue_of_ne _ h, State.report_venue_of_ne _ _ _ _ h]
    · rfl
  · rfl

theorem State.detectGaps_venue (old : Option FrameNo) : (s.detectGaps v c a old).venue v = { s.venue v with
    recovery := ((s.detectGaps v c a old).venue v).recovery
    health := ((s.detectGaps v c a old).venue v).health } := by
  simp only [State.detectGaps]
  split
  · split
    · split
      · conv_lhs => rw [State.enterGaps_venue, State.report_venue]
      · conv_lhs => rw [State.enterGaps_venue]
    · rfl
  · rfl

theorem State.settleStore_circuit (d : Fin 128) : (s.settleStore v c a).circuit d = s.circuit d := by
  unfold State.settleStore State.unmatched
  split
  · rfl
  · split <;> rfl

theorem State.settleStore_venue_of_ne {w : Fin 24} (h : w ≠ v) : (s.settleStore v c a).venue w = s.venue w := by
  unfold State.settleStore State.unmatched
  split
  · exact State.setVenue_venue_of_ne _ _ _ _ h
  · split
    · exact State.report_venue_of_ne _ _ _ _ h
    · rfl

/-- R69, R101: settlement takes entries out of the queue and touches the health record beside. -/
theorem State.settleStore_venue : (s.settleStore v c a).venue v = { s.venue v with
    recovery := ((s.settleStore v c a).venue v).recovery
    health := ((s.settleStore v c a).venue v).health } := by
  unfold State.settleStore State.unmatched
  split
  · rw [State.modVenue_eq, State.setVenue_venue]
    unfold Venue.settle
    split <;> rfl
  · split
    · conv_lhs => rw [State.report_venue]
      simp
    · rfl

theorem Venue.settle_recovery (x : Venue) (c : Fin 128) (n : FrameNo) (r : Bool) :
    (x.settle c n r).recovery.Sublist x.recovery := by
  unfold Venue.settle
  split
  · exact List.filter_sublist
  · exact List.Sublist.refl _

theorem State.settleStore_recovery : ((s.settleStore v c a).venue v).recovery.Sublist (s.venue v).recovery := by
  unfold State.settleStore State.unmatched
  split
  · rw [State.modVenue_eq, State.setVenue_venue]
    exact Venue.settle_recovery _ _ _ _
  · split
    · rw [State.report_venue_recovery]
    · exact List.Sublist.refl _

/-- A store touches no circuit but its own. -/
theorem State.storeFrame_circuit (d : Fin 128) : (s.storeFrame v c a).circuit d =
    if d = c then { (s.circuit c).store a.frame a.chans with newest := newer (s.circuit c).newest a.frame }
    else s.circuit d := by
  rw [State.storeFrame_eq, State.settleStore_circuit, State.detectGaps_circuit, State.putFrame_circuit]

theorem State.storeFrame_venue_of_ne {w : Fin 24} (h : w ≠ v) : (s.storeFrame v c a).venue w = s.venue w := by
  rw [State.storeFrame_eq, State.settleStore_venue_of_ne _ _ _ _ h, State.detectGaps_venue_of_ne _ _ _ _ _ h,
    State.putFrame_venue_of_ne _ _ _ _ h]

/-- What a store makes of its venue, but for the queue and the health record. -/
theorem State.storeFrame_venue : (s.storeFrame v c a).venue v = { s.venue v with
    aheadStreak := 0, lateStreak := 0, newest := newer (s.venue v).newest a.frame
    recovery := ((s.storeFrame v c a).venue v).recovery, health := ((s.storeFrame v c a).venue v).health } := by
  conv_lhs => rw [State.storeFrame_eq, State.settleStore_venue, State.detectGaps_venue, State.putFrame_venue_self]
  rfl

variable {s v c a} {ph : Phase}

/-- A frame put in its window leaves the newest frame of its circuit ahead of the entries. -/
theorem State.QueueOk.putFrame (h : s.QueueOk v ph.nr) (ahead : 0 ≤ dist a.frame ph.nr) :
    (s.putFrame v c a).QueueOk v ph.nr := by
  rw [State.queueOk_iff] at h ⊢
  rw [s.putFrame_venue_self v c a]
  refine ⟨h.1, fun e he => ?_⟩
  obtain ⟨listed, front, m, newest, behind⟩ := h.2 e he
  refine ⟨listed, front, ?_⟩
  rw [State.putFrame_circuit]
  split
  · next hc =>
    rw [hc] at newest
    obtain ⟨k, hk, further⟩ := dist_newer (m := m) ahead (by omega)
    exact ⟨k, by rw [newest]; exact hk, by omega⟩
  · exact ⟨m, newest, behind⟩

/-- A frame put in its window stands less than a window ahead of Nr. -/
theorem State.PlaceOk.putFrame (h : s.PlaceOk v) (hp : (s.venue v).timebase.phase = some ph)
    (ahead : 0 ≤ dist a.frame ph.nr) (near : dist a.frame ph.nr < (s.circuit c).window) :
    (s.putFrame v c a).PlaceOk v := by
  have self := s.putFrame_venue_self v c a
  have phase : ((s.putFrame v c a).venue v).timebase.phase = some ph := by rw [self]; exact hp
  rw [State.placeOk_of_phase hp] at h
  obtain ⟨idle, seated, queue, cells⟩ := h
  rw [State.placeOk_of_phase phase]
  have put := queue.putFrame (c := c) ahead
  rw [self]
  refine ⟨idle, seated, put, fun d hd y hy => ?_⟩
  rw [State.putFrame_circuit] at hy ⊢
  split at hy
  · next hc =>
    rw [if_pos hc]
    rcases mem_putCell _ _ _ hy with rfl | hy
    · exact ⟨ahead, near⟩
    · exact hc ▸ cells d hd y (hc ▸ hy)
  · next hc =>
    rw [if_neg hc]
    exact cells d hd y hy

/-- R68: the gaps of a frame just put in its window fit. -/
theorem State.putFrame_gapsFit {o : FrameNo} (h : s.QueueOk v ph.nr)
    (listed : c ∈ (s.venue v).circuits) (ahead : 0 ≤ dist a.frame ph.nr)
    (old : (s.circuit c).newest = some o) (gap : 2 ≤ dist a.frame o) (k : Nat) :
    (s.putFrame v c a).GapsFit v c ph.nr ((gapCandidates ph.nr o a.frame).take k) := by
  obtain ⟨between, ordered⟩ := gapCandidates_between ahead gap
  rw [State.queueOk_iff] at h
  have self := s.putFrame_venue_self v c a
  refine ⟨by rw [self]; exact listed, ⟨a.frame, ?_, fun g hg => ?_⟩, fun e he hc g hg => ?_,
    ordered.sublist (List.take_sublist k _)⟩
  · rw [State.putFrame_circuit, if_pos rfl, old]
    show newer (some o) a.frame = _
    rw [newer]
    exact if_pos (by omega)
  · exact ⟨(between g (List.mem_of_mem_take hg)).1, (between g (List.mem_of_mem_take hg)).2.1⟩
  · rw [self] at he
    obtain ⟨_, _, m, newest, behind⟩ := h.2 e he
    rw [hc, old, Option.some_inj] at newest
    have := (between g (List.mem_of_mem_take hg)).2.2
    rw [newest] at this
    omega

/-- R68, R100: gap detection after a store keeps the queue in order. -/
theorem State.PlaceOk.detectGaps (h : s.PlaceOk v) (hs : (s.venue v).state = .active)
    (hp : (s.venue v).timebase.phase = some ph) (listed : c ∈ (s.venue v).circuits)
    (ahead : 0 ≤ dist a.frame ph.nr) (near : dist a.frame ph.nr < (s.circuit c).window) :
    ((s.putFrame v c a).detectGaps v c a (s.circuit c).newest).PlaceOk v := by
  have put := h.putFrame hp ahead near
  have queue : s.QueueOk v ph.nr := ((State.placeOk_of_phase hp).1 h).2.2.1
  have self := s.putFrame_venue_self v c a
  have phase : ((s.putFrame v c a).venue v).timebase.phase = some ph := by rw [self]; exact hp
  have active : ((s.putFrame v c a).venue v).state = .active := by rw [self]; exact hs
  cases old : (s.circuit c).newest with
  | none => simp only [State.detectGaps]; exact put
  | some o =>
    simp only [State.detectGaps, phase]
    split
    · next hgap =>
      rw [Bool.and_eq_true, decide_eq_true_iff] at hgap
      have fit := State.putFrame_gapsFit queue listed ahead old hgap.1 Config.gapLimit
      split
      · obtain ⟨listed, between, beyond, ordered⟩ := fit
        refine ((Quiet.report _ v _).placeOk put).enterGaps ?_ ?_ ⟨?_, ?_, ?_, ordered⟩
        · rw [State.report_venue_state]; exact active
        · rw [State.report_venue_timebase]; exact phase
        · rw [State.report_venue_circuits]; exact listed
        · rw [State.report_circuit]; exact between
        · rw [State.report_venue_recovery]; exact beyond
      · exact put.enterGaps active phase fit
    · exact put

theorem Kept.storeFrame (s : State) (v : Fin 24) (c : Fin 128) (a : Arrival) (hs : (s.venue v).state = .active)
    (hp : (s.venue v).timebase.phase = some ph) (listed : c ∈ (s.venue v).circuits)
    (ahead : SettingsLaw s → 0 ≤ dist a.frame ph.nr ∧ dist a.frame ph.nr < (s.circuit c).window) :
    Kept s (s.storeFrame v c a) := by
  have self := s.storeFrame_venue v c a
  refine .ofVenue v (.storeFrame s v c a) (fun w hw => ?_) (fun w => ?_) (fun d hd => ?_) (fun _ d hd => ?_)
    (fun _ d _ => ?_) fun _ _ hl h => ?_
  · rw [State.storeFrame_venue_of_ne _ _ _ _ hw]; exact .refl _
  · by_cases hw : w = v
    · rw [hw, self]
    · rw [State.storeFrame_venue_of_ne _ _ _ _ hw]
  · rw [self] at hd; exact hd
  · rw [State.storeFrame_circuit, if_neg (ne_of_mem_of_not_mem listed hd).symm]
    exact .refl _
  · rw [State.storeFrame_circuit]
    split
    · next e => rw [e]; rfl
    · rfl
  · obtain ⟨front, near⟩ := ahead hl
    have gaps := h.detectGaps (a := a) hs hp listed front near
    rw [State.storeFrame_eq]
    have settled := State.settleStore_venue ((s.putFrame v c a).detectGaps v c a (s.circuit c).newest) v c a
    refine gaps.shrink (by rw [settled]) (by rw [settled]) (State.settleStore_recovery _ v c a)
      (fun d hd => by rw [settled] at hd; exact hd) (fun e _ hd => ?_) fun d _ => ?_
    · rw [State.settleStore_circuit, settled]
      exact ⟨hd, rfl⟩
    · rw [State.settleStore_circuit]
      exact ⟨List.Sublist.refl _, id, rfl⟩

end Store

end Sys2Proof.Machine
end

section
/-! PROOFS. Every received frame keeps the settings law and the place law (`Kept`): duplicates, reports, seats and paths. -/

namespace Sys2Proof.Machine

variable {s : State} {v : Fin 24} {c : Fin 128} {a : Arrival}

/-! ### Frames discarded -/

theorem Quiet.modCircuit {f : Circuit → Circuit} (h : (s.circuit c).SamePlace (f (s.circuit c))) :
    Quiet s (s.modCircuit c f) := .setCircuit h

theorem Quiet.modVenue {f : Venue → Venue} (h : (s.venue v).SamePlace (f (s.venue v)))
    (hs : (f (s.venue v)).settings = (s.venue v).settings) : Quiet s (s.modVenue v f) := .setVenue h hs

theorem Quiet.unmatched (s : State) (v : Fin 24) (c : Fin 128) (a : Arrival) : Quiet s (s.unmatched v c a) := by
  unfold State.unmatched
  split
  · exact .report s v _
  · exact .refl s

theorem Quiet.maskFrame (s : State) (v : Fin 24) (c : Fin 128) (a : Arrival) : Quiet s (s.maskFrame v c a) :=
  (Quiet.modCircuit ⟨rfl, rfl, rfl⟩).trans (.report _ v _)

theorem Quiet.modPort (s : State) (p : Fin 4) (f : Port → Port) : Quiet s (s.modPort p f) := .outside rfl rfl

theorem Quiet.announce (s : State) (v : Fin 24) (p : Fin 4) (f : VctIn) : Quiet s (s.announce v p f) :=
  (Quiet.modVenue ⟨rfl, rfl, rfl, rfl⟩ rfl).trans (.reports _ v _)

theorem classify_placeable {n nr : FrameNo} {w : Nat} (h : classify n nr w = .placeable) :
    0 ≤ dist n nr ∧ dist n nr < w := by
  unfold classify at h
  split at h
  · cases h
  · split at h
    · cases h
    · omega

theorem Kept.placeFrame {ph : Phase} (hs : (s.venue v).state = .active) (hp : (s.venue v).timebase.phase = some ph)
    (listed : c ∈ (s.venue v).circuits) (hc : classify a.frame ph.nr (s.circuit c).window = .placeable) :
    Kept s (s.place v c a) := by
  unfold State.place
  split
  · have quiet : Quiet s _ := (Quiet.modCircuit (s := s) (c := c) (f := fun x => { x with duplicate := satInc x.duplicate })
      ⟨rfl, rfl, rfl⟩).trans ((Quiet.report _ v (a.report .duplicate (some c))).trans (.unmatched _ v c a))
    exact .quiet (.trans (Moves.modCircuit s c _ (.quiet rfl rfl rfl rfl rfl rfl rfl))
      ((Moves.report _ v _).trans (.unmatched _ v c a))) quiet
  · exact .storeFrame s v c a hs hp listed fun _ => classify_placeable hc

/-! ### Seats (R71, R81) -/

/-- R81: the frame a seat is made by stands q - 1 frames ahead of the read frame, q = ceil(T/96). -/
theorem dist_seatPhase (n : FrameNo) {target : Nat} (lo : 480 ≤ target) (hi : target ≤ 48768) :
    dist n (seatPhase n target).nr = seatFrames target - 1 := by
  have q : 5 ≤ seatFrames target ∧ seatFrames target ≤ 508 := by unfold seatFrames; omega
  obtain ⟨_, _, k, hk⟩ := dist_spec n (seatPhase n target).nr
  have ha := n.isLt
  have hn : (seatPhase n target).nr.toNat =
      (4294967296 - seatFrames target % 4294967296 + (n.toNat + 1) % 4294967296) % 4294967296 := by
    simp [seatPhase, BitVec.toNat_sub]
  omega

/-- What a seat leaves of its venue, before the frame is stored: seated at the frame, nothing held. -/
structure State.SeatedAt (t s : State) (v : Fin 24) (n : FrameNo) : Prop where
  state : (t.venue v).state = .active
  phase : (t.venue v).timebase.phase = some (seatPhase n (s.venue v).settings.target)
  settings : (t.venue v).settings = (s.venue v).settings
  circuits : (t.venue v).circuits = (s.venue v).circuits
  recovery : (t.venue v).recovery = []
  others : ∀ w, w ≠ v → t.venue w = s.venue w
  listed : (s.venue v).circuits.Nodup → ∀ d ∈ (s.venue v).circuits,
    (t.circuit d).cells = [] ∧ (t.circuit d).newest = none
  window : ∀ d, (t.circuit d).window = (s.circuit d).window
  unlisted : ∀ d, d ∉ (s.venue v).circuits → t.circuit d = s.circuit d

theorem Kept.seated {t : State} {n : FrameNo} (m : Moves s t) (h : t.SeatedAt s v n) : Kept s t := by
  refine .ofVenue v m (fun w hw => ?_) (fun w => ?_) (fun d hd => h.circuits ▸ hd) (fun _ d hd => ?_)
    (fun _ d _ => h.window d) fun hl _ _ _ => ?_
  · rw [h.others w hw]; exact .refl _
  · by_cases hw : w = v
    · rw [hw, h.settings]
    · rw [h.others w hw]
  · rw [h.unlisted d hd]; exact .refl _
  · rw [State.placeOk_of_phase h.phase]
    refine ⟨fun _ => h.recovery, Venue.seated_of_active h.state, ⟨?_, fun e he => ?_⟩, fun d hd y hy => ?_⟩
    · rw [h.recovery]; exact List.Pairwise.nil
    · rw [h.recovery] at he; cases he
    · rw [(h.listed (hl.1 v) d (h.circuits ▸ hd)).1] at hy; cases hy

/-- R71 step 5: the frame is stored at the seat it made. -/
theorem Kept.storeSeated {t : State} (m : Moves s t) (h : t.SeatedAt s v a.frame) (listed : c ∈ (s.venue v).circuits) :
    Kept s (t.storeFrame v c a) := by
  have ht : c ∈ (t.venue v).circuits := h.circuits ▸ listed
  refine (Kept.seated m h).trans (.storeFrame t v c a h.state h.phase ht fun law => ?_)
  obtain ⟨⟨lo, hi, _⟩, windows⟩ := (settingsLaw_iff t).1 law v
  obtain ⟨size, fits⟩ := windows c ht
  rw [h.settings] at lo hi fits
  rw [dist_seatPhase _ lo hi]
  simp only [List.mem_cons, List.not_mem_nil, or_false] at size
  unfold seatFrames
  omega

theorem State.seatVenue_window (s : State) (v : Fin 24) (n : FrameNo) (d : Fin 128) :
    ((s.seatVenue v n).circuit d).window = (s.circuit d).window := by
  simp only [State.seatVenue, State.flush_circuit]
  exact State.modCircuits_circuit_induct _ _ Circuit.clearWindow (fun x => x.window = (s.circuit d).window) (fun _ h => h) d rfl

/-- R71 steps 1 to 4 of a re-seat: seated, and nothing marked as last present. -/
def State.reseatVenue (s : State) (v : Fin 24) (n : FrameNo) : State :=
  (s.seatVenue v n).modCircuits ((s.seatVenue v n).venue v).circuits fun x => { x with lastPresent := none }

theorem State.reseat_eq (s : State) (v : Fin 24) (c : Fin 128) (a : Arrival) : s.reseat v c a =
    ((s.reseatVenue v a.frame).report v (a.report .reseat (some c))).storeFrame v c a := rfl

theorem State.reseatVenue_venue (s : State) (v w : Fin 24) (n : FrameNo) :
    (s.reseatVenue v n).venue w = (s.seatVenue v n).venue w := State.modCircuits_venue _ _ _ _

theorem State.reseatVenue_circuit_of_notMem {d : Fin 128} (n : FrameNo) (hd : d ∉ (s.venue v).circuits) :
    (s.reseatVenue v n).circuit d = s.circuit d := by
  rw [State.reseatVenue, State.modCircuits_circuit_of_notMem, State.seatVenue_circuit_of_notMem _ _ _ _ hd]
  rw [State.seatVenue_venue]
  exact hd

theorem State.reseatVenue_samePlace (s : State) (v : Fin 24) (n : FrameNo) (d : Fin 128) :
    ((s.seatVenue v n).circuit d).SamePlace ((s.reseatVenue v n).circuit d) :=
  (Quiet.modCircuits _ (f := fun x => { x with lastPresent := none }) fun _ => ⟨rfl, rfl, rfl⟩).circuit d

theorem Moves.reseatVenue (s : State) (v : Fin 24) (n : FrameNo) : Moves s (s.reseatVenue v n) :=
  (Moves.seatVenue s v n).trans
    (.modCircuits _ _ (fun x => { x with lastPresent := none }) fun _ => .quiet rfl rfl rfl rfl rfl rfl rfl)

theorem Kept.reseat (hs : (s.venue v).state = .active) (listed : c ∈ (s.venue v).circuits) :
    Kept s (s.reseat v c a) := by
  have self := s.seatVenue_venue v a.frame
  have same := s.reseatVenue_samePlace v a.frame
  rw [State.reseat_eq]
  refine .storeSeated (s := s) ((Moves.reseatVenue s v a.frame).trans (.report _ v _))
    ⟨?_, ?_, ?_, ?_, ?_, fun w hw => ?_, fun hn d hd => ?_, fun d => ?_, fun d hd => ?_⟩ listed
  · rw [State.report_venue_state, State.reseatVenue_venue, self]; exact hs
  · rw [State.report_venue_timebase, State.reseatVenue_venue, self]; rfl
  · rw [State.report_venue_settings, State.reseatVenue_venue, self]
  · rw [State.report_venue_circuits, State.reseatVenue_venue, self]
  · rw [State.report_venue_recovery, State.reseatVenue_venue, self]
  · rw [State.report_venue_of_ne _ _ _ _ hw, State.reseatVenue_venue, State.seatVenue_venue_of_ne _ _ _ _ hw]
  · rw [State.report_circuit, (same d).cells, (same d).newest, State.seatVenue_circuit_of_mem _ _ _ _ hn hd]
    exact ⟨rfl, rfl⟩
  · rw [State.report_circuit, (same d).window, State.seatVenue_window]
  · rw [State.report_circuit, State.reseatVenue_circuit_of_notMem _ hd]

theorem Kept.firstSeat (ho : (s.venue v).isOpen = true) (listed : c ∈ (s.venue v).circuits) :
    Kept s (s.firstSeat v c a) := by
  have self := (s.missStep v).seatVenue_venue v a.frame
  have venue : ∀ w, (s.missStep v).venue w = s.venue w := fun _ => rfl
  refine .storeSeated (s := s) ?_ ⟨?_, ?_, ?_, ?_, ?_, fun w hw => ?_, fun hn d hd => ?_, fun d => ?_, fun d hd => ?_⟩ listed
  · refine (Moves.missStep s v).trans ((Moves.seatVenue _ v a.frame).trans (Moves.modVenue _ v _ ?_))
    refine ⟨?_, rfl, rfl, rfl, rfl, id, id, id⟩
    have ho' : ((s.missStep v).venue v).isOpen = true := ho
    simp only [Venue.isOpen, State.seatVenue_open] at ho' ⊢
    rw [ho']; rfl
  · rw [State.modVenue_eq, State.setVenue_venue]
  · rw [State.modVenue_eq, State.setVenue_venue, self]; rfl
  · rw [State.modVenue_eq, State.setVenue_venue, self]; rfl
  · rw [State.modVenue_eq, State.setVenue_venue, self]; rfl
  · rw [State.modVenue_eq, State.setVenue_venue, self]
  · rw [State.modVenue_eq, State.setVenue_venue_of_ne _ _ _ _ hw, State.seatVenue_venue_of_ne _ _ _ _ hw, venue]
  · rw [State.modVenue_eq, State.setVenue_circuit, State.seatVenue_circuit_of_mem (s.missStep v) _ _ _ hn hd]
    exact ⟨rfl, rfl⟩
  · rw [State.modVenue_eq, State.setVenue_circuit, State.seatVenue_window]; rfl
  · rw [State.modVenue_eq, State.setVenue_circuit, State.seatVenue_circuit_of_notMem (s.missStep v) _ _ _ hd]; rfl

/-! ### A frame handed on (R51 to R70) -/

/-- R64, R67: a LATE frame counted, and its streak fed. -/
def State.lateCounted (s : State) (v : Fin 24) (c : Fin 128) (a : Arrival) : State :=
  ((s.modCircuit c fun x => { x with late := satInc x.late }).report v (a.report .late (some c))).modVenue v
    Venue.countLate

/-- R64, R67: an AHEAD frame counted, and its streak fed. -/
def State.aheadCounted (s : State) (v : Fin 24) (c : Fin 128) (a : Arrival) : State :=
  (s.report v (a.report .ahead (some c))).modVenue v Venue.countAhead

theorem State.misplaced_late (s : State) (v : Fin 24) (c : Fin 128) (a : Arrival) :
    s.misplaced v c a true = if a.restart then s.reseat v c a
      else if Config.lateThreshold ≤ ((s.lateCounted v c a).venue v).lateStreak then (s.lateCounted v c a).reseat v c a
      else (s.lateCounted v c a).unmatched v c a := rfl

theorem State.misplaced_ahead (s : State) (v : Fin 24) (c : Fin 128) (a : Arrival) :
    s.misplaced v c a false = if a.restart then s.reseat v c a
      else if Config.aheadThreshold ≤ ((s.aheadCounted v c a).venue v).aheadStreak then (s.aheadCounted v c a).reseat v c a
      else (s.aheadCounted v c a).unmatched v c a := rfl

theorem Quiet.lateCounted (s : State) (v : Fin 24) (c : Fin 128) (a : Arrival) : Quiet s (s.lateCounted v c a) :=
  (Quiet.modCircuit (f := fun x => { x with late := satInc x.late }) ⟨rfl, rfl, rfl⟩).trans
    ((Quiet.report _ v _).trans (Quiet.modVenue (f := Venue.countLate) ⟨rfl, rfl, rfl, rfl⟩ rfl))

theorem Quiet.aheadCounted (s : State) (v : Fin 24) (c : Fin 128) (a : Arrival) : Quiet s (s.aheadCounted v c a) :=
  (Quiet.report s v _).trans (Quiet.modVenue (f := Venue.countAhead) ⟨rfl, rfl, rfl, rfl⟩ rfl)

theorem Moves.lateCounted (s : State) (v : Fin 24) (c : Fin 128) (a : Arrival) : Moves s (s.lateCounted v c a) :=
  (Moves.modCircuit s c (fun x => { x with late := satInc x.late }) (.quiet rfl rfl rfl rfl rfl rfl rfl)).trans
    ((Moves.report _ v _).trans (Moves.modVenue _ v Venue.countLate (.quiet rfl rfl rfl rfl rfl id (le_refl _) rfl)))

theorem Moves.aheadCounted (s : State) (v : Fin 24) (c : Fin 128) (a : Arrival) : Moves s (s.aheadCounted v c a) :=
  (Moves.report s v _).trans (Moves.modVenue _ v Venue.countAhead (.quiet rfl rfl rfl rfl rfl id (le_refl _) rfl))

/-- R70: a frame counted, then a re-seat at the threshold. -/
theorem Kept.counted {t : State} (m : Moves s t) (q : Quiet s t) (hs : (s.venue v).state = .active)
    (listed : c ∈ (s.venue v).circuits) (b : Prop) [Decidable b] :
    Kept s (if b then t.reseat v c a else t.unmatched v c a) := by
  split
  · exact (Kept.quiet m q).trans (.reseat ((q.place v).state.trans hs) ((q.place v).circuits ▸ listed))
  · exact .quiet (m.trans (.unmatched _ v c a)) (q.trans (.unmatched _ v c a))

theorem Kept.misplaced (hs : (s.venue v).state = .active) (listed : c ∈ (s.venue v).circuits) (isLate : Bool) :
    Kept s (s.misplaced v c a isLate) := by
  cases isLate
  · rw [State.misplaced_ahead]
    split
    · exact .reseat hs listed
    · exact .counted (.aheadCounted s v c a) (.aheadCounted s v c a) hs listed _
  · rw [State.misplaced_late]
    split
    · exact .reseat hs listed
    · exact .counted (.lateCounted s v c a) (.lateCounted s v c a) hs listed _

theorem State.tagged_listed {tag : Nat} (h : s.tagged v tag = some c) : c ∈ (s.venue v).circuits :=
  List.mem_of_find?_eq_some h

theorem Kept.arrive (hs : (s.venue v).state = .active) : Kept s (s.arrive v a) := by
  unfold State.arrive
  split
  · exact .quiet (.report s v _) (.report s v _)
  · exact .refl s
  · next c ph ht hp =>
    split
    · exact .quiet (.maskFrame s v _ a) (.maskFrame s v _ a)
    · split
      · exact .quiet (.report s v _) (.report s v _)
      · split
        · exact .misplaced hs (State.tagged_listed ht) true
        · exact .misplaced hs (State.tagged_listed ht) false
        · next hc => exact .placeFrame hs hp (State.tagged_listed ht) hc

theorem Kept.arriveWaiting (ho : (s.venue v).isOpen = true) : Kept s (s.arriveWaiting v a) := by
  unfold State.arriveWaiting
  split
  · exact .quiet (.report s v _) (.report s v _)
  · next c ht =>
    have listed := State.tagged_listed ht
    split
    · exact .quiet (.maskFrame s v _ a) (.maskFrame s v _ a)
    · split
      · exact .quiet (.report s v _) (.report s v _)
      · split
        · exact .firstSeat ho listed
        · exact .firstSeat ho listed
        · exact .firstSeat ho listed
        · exact .refl s
        · exact .refl s
        · exact .refl s

theorem Kept.handOn (p : Fin 4) (f : VctIn) (ho : (s.venue v).isOpen = true) (hh : (s.venue v).state ≠ .holdover) :
    Kept s (s.handOn v p f) := by
  simp only [State.handOn]
  split
  · split
    · next h =>
      refine .arrive ?_
      cases hs : (s.venue v).state <;> simp [Venue.seated, hs] at h hh ⊢
    · exact .arriveWaiting ho
  · exact .quiet (.announce s v p f) (.announce s v p f)

/-! ### Paths (R7, R49 to R53) -/

theorem Venue.setPath_samePlace (x : Venue) (p : PathId) (y : Path) : x.SamePlace (x.setPath p y) := by
  cases p <;> exact ⟨rfl, rfl, rfl, rfl⟩

theorem Venue.leaveHoldover_of_ne {x : Venue} (h : x.state ≠ .holdover) : x.leaveHoldover = x := if_neg h

theorem Venue.leaveHoldover_state_ne (x : Venue) : x.leaveHoldover.state ≠ .holdover := by
  unfold Venue.leaveHoldover
  split
  · simp
  · assumption

/-- R7: a HOLDOVER venue whose queue is empty is ACTIVE again with its windows as they are. -/
theorem Kept.leaveHoldover (s : State) (v : Fin 24) : Kept s (s.modVenue v Venue.leaveHoldover) := by
  by_cases hs : (s.venue v).state = .holdover
  · have self : (s.modVenue v Venue.leaveHoldover).venue v =
        { s.venue v with
          state := .active, holdoverElapsed := 0, holdoverSince := none
          timebase := (s.venue v).timebase.leaveHoldover } := by
      rw [State.modVenue_eq, State.setVenue_venue]; exact if_pos hs
    have seated : (s.venue v).seated = true := by simp [Venue.seated, hs]
    refine .ofVenue v (.modVenue s v _ (.leaveHoldover _)) (fun w hw => ?_) (fun w => ?_) (fun d hd => ?_)
      (fun _ d _ => .refl _) (fun _ d _ => rfl) fun _ _ _ h => ?_
    · rw [State.modVenue_eq, State.setVenue_venue_of_ne _ _ _ _ hw]; exact .refl _
    · by_cases hw : w = v
      · rw [hw, self]
      · rw [State.modVenue_eq, State.setVenue_venue_of_ne _ _ _ _ hw]
    · rw [self] at hd; exact hd
    · refine h.reseated seated (by rw [self]; rfl) (by rw [self]; rfl) (by rw [self]) ?_ fun d _ => .refl _
      rw [self]
      exact h.1 (by rw [hs]; decide)
  · exact .quiet (.modVenue s v _ (.leaveHoldover _))
      (.modVenue (by rw [Venue.leaveHoldover_of_ne hs]; exact .refl _) (by rw [Venue.leaveHoldover_of_ne hs]))

theorem State.modVenue_modVenue (s : State) (v : Fin 24) (f g : Venue → Venue) :
    (s.modVenue v f).modVenue v g = s.modVenue v fun x => g (f x) := by
  simp [State.modVenue, State.setVenue, State.venue]

theorem Kept.takeVct (p : Fin 4) (f : VctIn) : Kept s (s.takeVct p f) := by
  simp only [State.takeVct]
  split
  · exact .quiet (.modPort s p _ id) (.modPort s p _)
  · next v hv =>
    have port : Kept s (s.modPort p fun pt => { pt with taken := satInc pt.taken }) :=
      .quiet (.modPort s p _ id) (.modPort s p _)
    have ho := (State.venueOfKey_open hv).1
    split
    · exact port.trans (.quiet (.report _ v _) (.report _ v _))
    · next path _ =>
      refine port.trans (.trans ?_ (.handOn p f ?_ ?_))
      · rw [← State.modVenue_modVenue (g := Venue.leaveHoldover)]
        exact (Kept.quiet (.modVenue _ v _ (.setPath _ path _))
          (.modVenue (Venue.setPath_samePlace _ _ _) (Venue.setPath_settings _ _ _))).trans (.leaveHoldover _ v)
      · rw [State.modVenue_eq, State.setVenue_venue, Venue.leaveHoldover_isOpen, (VenueMove.setPath _ path _).isOpen]
        exact ho
      · simpa using Venue.leaveHoldover_state_ne _

theorem Kept.receive (s : State) (p : Fin 4) (rx : RxFrame) : Kept s (s.receive p rx) := by
  unfold State.receive
  split
  · exact .refl s
  · split
    · exact .refl s
    · exact .quiet (.modPort s p _ id) (.modPort s p _)
    · exact .quiet (.modPort s p _ id) (.modPort s p _)
    · exact .quiet (.modPort s p _ id) (.modPort s p _)
    · exact .quiet (.modPort s p _ id) (.modPort s p _)
    · exact .takeVct p _

theorem Kept.pathTimeout (s : State) (v : Fin 24) (p : PathId) : Kept s (s.pathTimeout v p) := by
  simp only [State.pathTimeout]
  split
  · refine .trans (.quiet ?_ ((Quiet.modVenue (Venue.setPath_samePlace _ _ _) (Venue.setPath_settings _ _ _)).trans
      (.report _ v _))) (.holdoverIfPathless _ v)
    exact (Moves.modVenue s v _ (.setPath _ p _)).trans (.report _ v _)
  · exact .refl s

end Sys2Proof.Machine
end

section
/-! PROOFS. The read-phase advance and the other works of a block boundary keep the settings law and the place law
(`Kept`). -/

namespace Sys2Proof.Machine

variable {s : State} {v : Fin 24} {c : Fin 128}

/-! ### The frame advance (R72, R85, R102) -/

theorem Circuit.consume_keeps (x : Circuit) (n : FrameNo) : (x.consume n).newest = x.newest ∧
    (x.consume n).window = x.window ∧ (x.consume n).cells.Sublist x.cells := by
  unfold Circuit.consume
  split
  · exact ⟨rfl, rfl, List.filter_sublist⟩
  · exact ⟨rfl, rfl, List.Sublist.refl _⟩

/-- R72: no cell of a window in canonical form holds the frame just consumed. -/
theorem Circuit.WindowLaw.frame_ne_of_consume {x : Circuit} (h : x.WindowLaw) {n : FrameNo} {y : Cell}
    (hy : y ∈ (x.consume n).cells) : y.frame ≠ n := by
  rintro rfl
  have law := h.consume y.frame
  have gone := x.present_consume y.frame
  obtain ⟨rising, index⟩ := law
  have found : cellAt (x.consume y.frame).cells y.index = some y := by
    refine List.find?_eq_some_iff_append.2 ⟨by simp, ?_⟩
    obtain ⟨l, r, hlr⟩ := List.append_of_mem hy
    refine ⟨l, r, hlr, fun z hz => ?_⟩
    rw [hlr] at rising
    have := (List.pairwise_append.1 rising).2.2 z hz y List.mem_cons_self
    simp only [Bool.not_eq_true', beq_eq_false_iff_ne]
    omega
  rw [Circuit.present, Circuit.held, ← index y hy, found] at gone
  simp at gone

theorem Circuit.enter_samePlace (x : Circuit) (n : FrameNo) : x.SamePlace (x.enter n) := by
  unfold Circuit.enter
  split
  · dsimp only
    split <;> exact ⟨rfl, rfl, rfl⟩
  · split <;> exact ⟨rfl, rfl, rfl⟩

theorem State.expireEntries_venue_of_ne (s : State) {v w : Fin 24} (n : FrameNo) (h : w ≠ v) :
    (s.expireEntries v n).venue w = s.venue w := by
  rw [State.expireEntries, State.modVenue_eq, State.setVenue_venue_of_ne _ _ _ _ h, State.reports_venue_of_ne _ _ _ _ h]

/-- R102: the entries for the frame entered leave the queue, and the health record takes their reports. -/
theorem State.expireEntries_venue (s : State) (v : Fin 24) (n : FrameNo) : (s.expireEntries v n).venue v =
    { s.venue v with
      recovery := (s.venue v).recovery.filter fun e => e.frame != n
      health := ((s.expireEntries v n).venue v).health } := by
  simp only [State.expireEntries, State.modVenue_eq, State.setVenue_venue]
  rw [State.reports_venue]

@[simp] theorem State.expireEntries_circuit (s : State) (v : Fin 24) (n : FrameNo) (d : Fin 128) :
    (s.expireEntries v n).circuit d = s.circuit d := by simp [State.expireEntries]

theorem State.frameAdvance_venue_of_ne (s : State) {v w : Fin 24} (l e : FrameNo) (h : w ≠ v) :
    (s.frameAdvance v l e).venue w = s.venue w := by
  simp [State.frameAdvance, State.expireEntries_venue_of_ne _ _ h]

theorem State.frameAdvance_venue (s : State) (v : Fin 24) (l e : FrameNo) : (s.frameAdvance v l e).venue v =
    { s.venue v with
      recovery := (s.venue v).recovery.filter fun x => x.frame != e
      health := ((s.frameAdvance v l e).venue v).health } := by
  conv_lhs => rw [State.frameAdvance, State.expireEntries_venue]
  simp only [State.modCircuits_venue]
  rfl

theorem State.frameAdvance_circuit_of_notMem (s : State) (v : Fin 24) (l e : FrameNo) {d : Fin 128}
    (h : d ∉ (s.venue v).circuits) : (s.frameAdvance v l e).circuit d = s.circuit d := by
  simp [State.frameAdvance, State.modCircuits_circuit_of_notMem _ _ _ _ h]

/-- R85: a frame advance consumes the frame left in every circuit of the list, and then judges it at the frame entered. -/
theorem State.frameAdvance_circuit_of_mem (s : State) (v : Fin 24) (l e : FrameNo) {d : Fin 128}
    (hn : (s.venue v).circuits.Nodup) (h : d ∈ (s.venue v).circuits) :
    (s.frameAdvance v l e).circuit d = ((s.circuit d).consume l).enter e := by
  simp only [State.frameAdvance, State.expireEntries_circuit]
  rw [State.modCircuits_circuit_of_mem _ _ _ _ hn h, State.modCircuits_circuit_of_mem _ _ _ _ hn h]

/-! ### One step of the advance (R83) -/

/-- R83: the read phase of one step later. -/
def State.withPhase (s : State) (v : Fin 24) (ph : Phase) : State :=
  s.modVenue v fun ve => ve.modTimebase fun tb => { tb with phase := some ph }

theorem State.withPhase_venue (s : State) (v : Fin 24) (ph : Phase) : (s.withPhase v ph).venue v =
    { s.venue v with timebase := { (s.venue v).timebase with phase := some ph } } := by
  rw [State.withPhase, State.modVenue_eq, State.setVenue_venue]
  rfl

theorem State.withPhase_venue_of_ne (s : State) {v w : Fin 24} (ph : Phase) (h : w ≠ v) :
    (s.withPhase v ph).venue w = s.venue w := by
  rw [State.withPhase, State.modVenue_eq, State.setVenue_venue_of_ne _ _ _ _ h]

@[simp] theorem State.withPhase_circuit (s : State) (v : Fin 24) (ph : Phase) (d : Fin 128) :
    (s.withPhase v ph).circuit d = s.circuit d := rfl

theorem Moves.withPhase (s : State) (v : Fin 24) (ph : Phase) : Moves s (s.withPhase v ph) :=
  .modVenue s v _ (.quiet rfl rfl rfl rfl rfl id (le_refl _) rfl)

/-- R83: a step of the advance that stays in its frame, and one that makes a frame advance. -/
theorem State.advanceStep_of_phase {ph : Phase} (h : (s.venue v).timebase.phase = some ph) :
    s.advanceStep v = if (ph.step (s.venue v).timebase.rhoEff).nr = ph.nr
      then s.withPhase v (ph.step (s.venue v).timebase.rhoEff)
      else (s.withPhase v (ph.step (s.venue v).timebase.rhoEff)).frameAdvance v ph.nr
        (ph.step (s.venue v).timebase.rhoEff).nr := by
  simp only [State.advanceStep, h]
  rfl

theorem Phase.step_nr (ph : Phase) (rho : Int) : (ph.step rho).nr = ph.nr ∨ (ph.step rho).nr = ph.nr + 1 := by
  unfold Phase.step
  dsimp only
  split
  · exact .inr rfl
  · exact .inl rfl

theorem Kept.withPhase {ph ph' : Phase} (h : (s.venue v).timebase.phase = some ph) (nr : ph'.nr = ph.nr) :
    Kept s (s.withPhase v ph') := by
  refine .ofVenue v (.withPhase s v ph') (fun w hw => ?_) (fun w => ?_) (fun d hd => ?_) (fun _ d _ => .refl _)
    (fun _ d _ => rfl) fun _ _ _ hp => ?_
  · rw [State.withPhase_venue_of_ne _ _ hw]; exact .refl _
  · by_cases hw : w = v
    · rw [hw, State.withPhase_venue]
    · rw [State.withPhase_venue_of_ne _ _ hw]
  · rw [State.withPhase_venue] at hd; exact hd
  · rw [State.placeOk_of_phase h, State.queueOk_iff] at hp
    rw [State.placeOk_of_phase (by rw [State.withPhase_venue]), State.queueOk_iff, State.withPhase_venue, nr]
    exact hp

/-- The distances of a queue shrink by one as the read frame advances: its order stays. -/
theorem RecoveryEntry.Precedes.advance {nr : FrameNo} {x y : RecoveryEntry} (h : x.Precedes nr y)
    (hx : 1 ≤ dist x.frame nr) (hy : 1 ≤ dist y.frame nr) : x.Precedes (nr + 1) y := by
  rcases h with h | h
  · refine .inl ?_
    rw [dist_succ_right (by omega), dist_succ_right (by omega)]
    omega
  · exact .inr h

/-- R85: a frame advance with the read phase that makes it. -/
theorem Kept.frameAdvance {ph ph' : Phase} (h : (s.venue v).timebase.phase = some ph) (nr : ph'.nr = ph.nr + 1) :
    Kept s ((s.withPhase v ph').frameAdvance v ph.nr ph'.nr) := by
  have self : ((s.withPhase v ph').frameAdvance v ph.nr ph'.nr).venue v = { s.venue v with
      timebase := { (s.venue v).timebase with phase := some ph' }
      recovery := (s.venue v).recovery.filter fun x => x.frame != ph'.nr
      health := (((s.withPhase v ph').frameAdvance v ph.nr ph'.nr).venue v).health } := by
    conv_lhs => rw [State.frameAdvance_venue, State.withPhase_venue]
  have circuits : ((s.withPhase v ph').venue v).circuits = (s.venue v).circuits := by rw [State.withPhase_venue]
  have unlisted : ∀ d, d ∉ (s.venue v).circuits →
      ((s.withPhase v ph').frameAdvance v ph.nr ph'.nr).circuit d = s.circuit d := fun d hd =>
    State.frameAdvance_circuit_of_notMem _ _ _ _ (circuits ▸ hd)
  have listed : ListLaw s → ∀ d ∈ (s.venue v).circuits,
      ((s.withPhase v ph').frameAdvance v ph.nr ph'.nr).circuit d = ((s.circuit d).consume ph.nr).enter ph'.nr :=
    fun hl d hd => State.frameAdvance_circuit_of_mem _ _ _ _ (circuits ▸ hl.1 v) (circuits ▸ hd)
  refine .ofVenue v ((Moves.withPhase s v ph').trans (.frameAdvance _ v _ _)) (fun w hw => ?_) (fun w => ?_)
    (fun d hd => ?_) (fun _ d hd => ?_) (fun hl d hd => ?_) fun hl hw _ hp => ?_
  · rw [State.frameAdvance_venue_of_ne _ _ _ hw, State.withPhase_venue_of_ne _ _ hw]; exact .refl _
  · by_cases hw : w = v
    · rw [hw, self]
    · rw [State.frameAdvance_venue_of_ne _ _ _ hw, State.withPhase_venue_of_ne _ _ hw]
  · rw [self] at hd; exact hd
  · rw [unlisted d hd]; exact .refl _
  · rw [self] at hd
    rw [listed hl d hd, (Circuit.enter_samePlace _ _).window, (Circuit.consume_keeps _ _).2.1]
  · rw [State.placeOk_of_phase h, State.queueOk_iff] at hp
    obtain ⟨idle, seated, ⟨order, each⟩, cells⟩ := hp
    rw [State.placeOk_of_phase (by rw [self]), State.queueOk_iff, self, nr]
    refine ⟨fun n => by simp [idle n], seated, ⟨?_, fun e he => ?_⟩, fun d hd y hy => ?_⟩
    · refine (order.sublist List.filter_sublist).imp_of_mem fun {x y} hx hy hxy => ?_
      exact hxy.advance (each x (List.mem_of_mem_filter hx)).2.1 (each y (List.mem_of_mem_filter hy)).2.1
    · obtain ⟨he, hne⟩ := List.mem_filter.1 he
      obtain ⟨hd, ahead, m, newest, behind⟩ := each e he
      have far : dist e.frame ph.nr ≠ 1 := fun h1 => by
        refine absurd (dist_inj (h1.trans ?_)) (by simpa using hne : e.frame ≠ ph.nr + 1)
        rw [dist_succ (by rw [dist_self]; decide), dist_self]; rfl
      refine ⟨hd, by rw [dist_succ_right (by omega)]; omega, m, ?_, ?_⟩
      · rw [← nr, listed hl _ hd, (Circuit.enter_samePlace _ _).newest, (Circuit.consume_keeps _ _).1, newest]
      · rw [dist_succ_right (by omega), dist_succ_right (by omega)]; omega
    · rw [← nr, listed hl d hd, (Circuit.enter_samePlace _ _).cells] at hy
      rw [← nr, listed hl d hd, (Circuit.enter_samePlace _ _).window, (Circuit.consume_keeps _ _).2.1, nr]
      have near := cells d hd y ((Circuit.consume_keeps _ _).2.2.subset hy)
      have left : dist y.frame ph.nr ≠ 0 := fun h0 =>
        (hw d).frame_ne_of_consume hy (dist_inj (h0.trans (dist_self ph.nr).symm))
      rw [dist_succ_right (by omega)]
      omega

theorem Kept.advanceStep (s : State) (v : Fin 24) : Kept s (s.advanceStep v) := by
  cases h : (s.venue v).timebase.phase with
  | none => simp only [State.advanceStep, h]; exact .refl s
  | some ph =>
    rw [State.advanceStep_of_phase h]
    split
    · next nr => exact .withPhase h nr
    · next nr => exact .frameAdvance h ((Phase.step_nr ph _).resolve_left nr)

theorem Kept.playSteps (s : State) (v : Fin 24) (n : Nat) : Kept s (State.playSteps v n s).1 := by
  induction n generalizing s with
  | zero => exact .refl s
  | succ n ih => exact (Kept.advanceStep s v).trans (ih _)

/-! ### The venue step (R82) -/

theorem Kept.fadeStep (s : State) (c : Fin 128) : Kept s (s.fadeStep c) := by
  simp only [State.fadeStep]
  split
  · have h : Kept s (s.setCircuit c { s.circuit c with fade := (s.circuit c).fade - 1 }) :=
      .quiet (.modCircuit s c (fun x => { x with fade := x.fade - 1 }) (.quiet rfl rfl rfl rfl rfl rfl rfl))
        (.setCircuit ⟨rfl, rfl, rfl⟩)
    split
    · exact (h.trans (.freeCircuit _ c)).trans (.quiet (.waitNext s _ c) (.outside rfl rfl))
    · exact h
  · exact .refl s

theorem Kept.stageAdvance (s : State) (v : Fin 24) : Kept s (s.stageAdvance v) := by
  simp only [State.stageAdvance]
  exact (Kept.playSteps s v 48).trans
    ((Kept.quiet (.stageRows _ _ _) (.outside rfl rfl)).trans (.foldl (fun t c => .fadeStep t c) _ _))

theorem Timebase.updateRuns_phase (t : Timebase) (e : Int) : (t.updateRuns e).phase = t.phase := by
  unfold Timebase.updateRuns
  split <;> dsimp only <;> split_ifs <;> rfl

theorem Timebase.countScheduler_phase (t : Timebase) : t.countScheduler.phase = t.phase := by
  unfold Timebase.countScheduler Timebase.walk
  split
  · split <;> rfl
  · rfl

theorem Venue.takeMargin_samePlace (x : Venue) : x.SamePlace x.takeMargin ∧ x.takeMargin.settings = x.settings := by
  unfold Venue.takeMargin
  split <;> exact ⟨⟨rfl, rfl, rfl, rfl⟩, rfl⟩

theorem Venue.completeInterval_samePlace (x : Venue) :
    x.SamePlace x.completeInterval ∧ x.completeInterval.settings = x.settings := by
  unfold Venue.completeInterval
  split
  · exact ⟨⟨rfl, rfl, rfl, Timebase.updateRuns_phase _ _⟩, rfl⟩
  · exact ⟨.refl x, rfl⟩

theorem Venue.countScheduler_samePlace (x : Venue) :
    x.SamePlace x.countScheduler ∧ x.countScheduler.settings = x.settings := by
  unfold Venue.countScheduler
  split
  · exact ⟨⟨rfl, rfl, rfl, Timebase.countScheduler_phase _⟩, rfl⟩
  · exact ⟨.refl x, rfl⟩

theorem Kept.venueStep (s : State) (v : Fin 24) : Kept s (s.venueStep v) := by
  unfold State.venueStep
  split
  · refine (Kept.stageAdvance s v).trans (.quiet (.modVenue _ v _
      ((VenueMove.takeMargin _).trans ((VenueMove.completeInterval _).trans (.countScheduler _)))) (.modVenue ?_ ?_))
    · exact (Venue.takeMargin_samePlace _).1.trans
        ((Venue.completeInterval_samePlace _).1.trans (Venue.countScheduler_samePlace _).1)
    · exact (Venue.countScheduler_samePlace _).2.trans
        ((Venue.completeInterval_samePlace _).2.trans (Venue.takeMargin_samePlace _).2)
  · exact .refl s

/-! ### The other works -/

theorem Kept.holdoverCount (s : State) (v : Fin 24) : Kept s (s.holdoverCount v) := by
  have moves := Moves.holdoverCount s v
  unfold State.holdoverCount at moves ⊢
  split
  · next h =>
    refine .unseat s v ?_
    simp [State.lossExpires, State.holdoverCounts] at h
    simp [Venue.isOpen, h]
  · next hl =>
    rw [if_neg hl] at moves
    split
    · next hc =>
      rw [if_pos hc] at moves
      exact .quiet moves (.modVenue ⟨rfl, rfl, rfl, rfl⟩ rfl)
    · exact .refl s

theorem Quiet.announceAge (s : State) (v : Fin 24) : Quiet s (s.announceAge v) := by
  unfold State.announceAge
  split
  · exact .modVenue ⟨rfl, rfl, rfl, rfl⟩ rfl
  · split
    · exact .modVenue ⟨rfl, rfl, rfl, rfl⟩ rfl
    · exact .refl s

theorem Circuit.terminal_keeps (x : Circuit) : x.terminal.cells = [] ∧ x.terminal.newest = none ∧
    x.terminal.window = x.window := by
  unfold Circuit.terminal
  dsimp only
  split <;> exact ⟨rfl, rfl, rfl⟩

/-- R27: the circuits of a terminal count, and the queue of its venue. -/
theorem State.terminalCount_circuit (s : State) (c d : Fin 128) : (s.terminalCount c).circuit d =
    if d = c then (s.circuit c).terminal else s.circuit d := by
  unfold State.terminalCount
  split <;> rw [← State.setCircuit_circuit_eq_ite] <;> rfl

theorem State.terminalCount_venue (s : State) (c : Fin 128) (w : Fin 24) : (s.terminalCount c).venue w =
    if (s.circuit c).venue = some w then (s.venue w).dropEntries c else s.venue w := by
  unfold State.terminalCount
  split
  · next h => rw [h, if_neg (by simp)]; rfl
  · next v h =>
    rw [State.modVenue_eq, State.setVenue_venue_eq_ite, h]
    by_cases e : w = v
    · rw [if_pos e, if_pos (by rw [e]), e]; rfl
    · rw [if_neg e, if_neg fun h => e (Option.some.inj h).symm]; rfl

theorem Kept.terminalCount (hs : (s.circuit c).state = .concealing) : Kept s (s.terminalCount c) where
  moves := .terminalCount s c hs
  settings hl law := by
    refine law.congr (fun w => ?_) fun w d hd => ?_
    · rw [State.terminalCount_venue]; split <;> rfl
    · rw [State.terminalCount_circuit]
      refine ⟨?_, ?_⟩
      · rw [State.terminalCount_venue] at hd
        split at hd <;> exact hd
      · split
        · next e => rw [e]; exact (Circuit.terminal_keeps _).2.2
        · rfl
  place hl _ _ hp := by
    rw [placeLaw_iff] at hp ⊢
    intro w
    have venue := s.terminalCount_venue c w
    have circuits : ((s.terminalCount c).venue w).circuits = (s.venue w).circuits := by
      rw [venue]; split <;> rfl
    refine (hp w).shrink ?_ ?_ ?_ (fun d hd => circuits ▸ hd) (fun e he listed => ?_) fun d hd => ?_
    · rw [venue]; split <;> rfl
    · rw [venue]; split <;> rfl
    · rw [venue]
      split
      · exact List.filter_sublist
      · exact List.Sublist.refl _
    · have hne : e.circuit ≠ c := by
        rintro rfl
        rw [venue, if_pos ((hl.2.1 w _).1 listed).2] at he
        simp [Venue.dropEntries] at he
      rw [circuits, State.terminalCount_circuit, if_neg hne]
      exact ⟨listed, rfl⟩
    · rw [State.terminalCount_circuit]
      obtain ⟨cells, newest, window⟩ := Circuit.terminal_keeps (s.circuit c)
      split
      · next e =>
        rw [e, cells, window]
        exact ⟨List.nil_sublist _, fun _ => newest, rfl⟩
      · exact ⟨List.Sublist.refl _, id, rfl⟩

theorem Kept.holdoverCountdown (s : State) (c : Fin 128) : Kept s (s.holdoverCountdown c) := by
  have moves := Moves.holdoverCountdown s c
  unfold State.holdoverCountdown at moves ⊢
  split
  · next h =>
    simp [State.terminates] at h
    exact .terminalCount h.1
  · next ht =>
    rw [if_neg ht] at moves
    split
    · next hs =>
      rw [if_pos hs] at moves
      exact .quiet moves (.modCircuit ⟨rfl, rfl, rfl⟩)
    · exact .refl s

/-- A change of every venue's other fields at once. -/
theorem Quiet.venues {t : State} (circuits : t.circuits = s.circuits)
    (h : ∀ v, (s.venue v).SamePlace (t.venue v) ∧ (t.venue v).settings = (s.venue v).settings) : Quiet s t where
  place v := (h v).1
  settings v := (h v).2
  circuit c := by rw [show t.circuit c = s.circuit c by simp only [State.circuit, circuits]]; exact .refl _

theorem State.windowRestart_venue (s : State) (v : Fin 24) : s.windowRestart.venue v =
    if (s.venue v).isOpen then (s.venue v).modHealth fun h => { h with windowCount := 0 } else s.venue v := by
  simp only [State.windowRestart, State.venue, Fin.getElem_fin, Vector.getElem_map]
  rfl

theorem Quiet.windowRestart (s : State) : Quiet s s.windowRestart := by
  refine .venues rfl fun v => ?_
  rw [State.windowRestart_venue]
  split <;> exact ⟨⟨rfl, rfl, rfl, rfl⟩, rfl⟩

theorem Quiet.sendFoldback (s : State) (v : Fin 24) : Quiet s (s.sendFoldback v) := by
  unfold State.sendFoldback
  split
  · have sequence : Quiet s (s.modVenue v fun ve => ve.modLane fun l => { l with sequence := l.sequence + 1 }) :=
      .modVenue ⟨rfl, rfl, rfl, rfl⟩ rfl
    exact sequence.trans (.submit _ v _)
  · exact .refl s

theorem Quiet.foldbackStep (s : State) : Quiet s s.foldbackStep := by
  have turn : Quiet s s.sampleKeys.turnLanes := by
    refine .venues (by simp only [State.turnLanes, State.sampleKeys]) fun v => ?_
    rw [State.turned_venue]
    exact ⟨⟨rfl, rfl, rfl, rfl⟩, rfl⟩
  have buffer : ∀ t : State, Quiet t t.bufferLanes := fun t => by
    refine .venues (by simp only [State.bufferLanes]) fun v => ?_
    rw [State.bufferLanes_venue]
    exact ⟨⟨rfl, rfl, rfl, rfl⟩, rfl⟩
  unfold State.foldbackStep
  extract_lets t
  split
  · exact turn.trans (buffer _)
  · exact turn.trans (.foldl (fun t v => .sendFoldback t v) _ t)

/-! ### The boundary -/

theorem Kept.takeWork (s : State) (w : Work) : Kept s (s.takeWork w) := by
  cases w with
  | pathTimeout v p => exact .pathTimeout s v p
  | holdoverCount v => exact .holdoverCount s v
  | announceAge v => exact .quiet (.announceAge s v) (.announceAge s v)
  | venueStep v => exact .venueStep s v
  | holdoverCountdown c => exact .holdoverCountdown s c
  | requestPass v => exact .requestPass s v
  | foldbackStep => exact .quiet (.foldbackStep s) (.foldbackStep s)
  | windowRestart => exact .quiet (.windowRestart s) (.windowRestart s)

theorem Kept.takeWorks (s : State) (ws : List Work) : Kept s (s.takeWorks ws) := .foldl (fun t w => .takeWork t w) ws s

/-- Works that wait for later are nothing that the laws read. -/
theorem Kept.withDue (s : State) (ws : List Work) : Kept s { s with due := ws } :=
  .quiet (.outside rfl rfl rfl rfl rfl rfl) (.outside rfl rfl)

theorem Kept.boundary (s : State) (a : BoundaryArgs) : Kept s (s.boundary a) := by
  have finished : Kept s s.finishDue := (Kept.withDue s []).trans (.takeWorks _ s.due)
  have begun : Kept s.finishDue (s.finishDue.beginBlock a) := .quiet (.beginBlock s.finishDue a) (.outside rfl rfl)
  exact (finished.trans begun).trans ((Kept.withDue _ _).trans (.takeWorks _ _))

theorem Kept.takeDue (s : State) (w : Work) (b : Bool) : Kept s (s.takeDue w b) := by
  unfold State.takeDue
  split
  · exact (Kept.withDue s _).trans (.takeWork _ w)
  · exact .refl s

theorem Kept.idle (s : State) : Kept s s.idle := by
  unfold State.idle
  split
  · exact .refl s
  · exact (Kept.withDue s _).trans (.takeWork _ _)

end Sys2Proof.Machine
end

section
/-! PROOFS. Every command keeps the settings law and the place law, and so does every step (R4, R33, R60, R98, R99). -/

namespace Sys2Proof.Machine

variable {s : State}

/-! ### What a request leaves -/

/-- What an answer leaves, if it leaves a state, has a property. -/
def Answer.Leaves (P : State → Prop) : Answer → Prop
  | .refuse _ => True
  | .ok _ _ t => P t

theorem Answer.Leaves.refuseIf {P : State → Prop} {bad : Bool} {r : Result} {go : Answer}
    (h : bad = false → go.Leaves P) : (Machine.refuseIf bad r go).Leaves P := by
  cases bad
  · exact h rfl
  · trivial

theorem Answer.Leaves.orBadReference {P : State → Prop} {α : Type} {found : Option α} {go : α → Answer}
    (h : ∀ a, found = some a → (go a).Leaves P) : (Machine.orBadReference found go).Leaves P := by
  cases found with
  | none => trivial
  | some a => exact h a rfl

/-- What an outcome leaves, if it is a next state, has a property. -/
def Leads (P : State → Prop) (o : Outcome) : Prop := ∀ t, o = .next t → P t

theorem Leads.next {P : State → Prop} {t : State} (h : P t) : Leads P (.next t) := fun _ e => by
  cases e; exact h

theorem Leads.ite {P : State → Prop} {t u : State} {c : Prop} [Decidable c] (h : P t) (g : P u) :
    Leads P (.next (if c then t else u)) := by
  refine .next ?_
  split
  · exact h
  · exact g

theorem Quiet.hold (s : State) (x : Transfer) (code : Byte) (r : Result) (f : Flags) (body : List Byte) :
    Quiet s (s.hold x code r f body) := .outside rfl rfl

/-- A request whose rule leaves the venues and circuits as the laws read them. -/
theorem Quiet.request {x : Transfer} {code : Byte} {handler : State → Answer} (h : (handler s).Leaves (Quiet s)) :
    Leads (Quiet s) (Machine.request x code handler s) := by
  intro t ht
  rcases request_cases x code handler s ht with ⟨_, rfl⟩ | ⟨_, r, _, rfl⟩ | ⟨_, f, body, u, hu, rfl⟩
  · exact .refl _
  · exact .hold s x code r {} []
  · rw [hu] at h
    exact Quiet.trans h (.hold u x code .ok f body)

theorem Kept.hold (s : State) (x : Transfer) (code : Byte) (r : Result) (f : Flags) (body : List Byte) :
    Kept s (s.hold x code r f body) := .quiet (.outside rfl rfl rfl rfl rfl rfl) (.hold s x code r f body)

theorem Kept.request {x : Transfer} {code : Byte} {handler : State → Answer} (h : (handler s).Leaves (Kept s)) :
    Leads (Kept s) (Machine.request x code handler s) := by
  intro t ht
  rcases request_cases x code handler s ht with ⟨_, rfl⟩ | ⟨_, r, _, rfl⟩ | ⟨_, f, body, u, hu, rfl⟩
  · exact .refl _
  · exact .hold s x code r {} []
  · rw [hu] at h
    exact Kept.trans h (.hold u x code .ok f body)

/-- An outcome reached by moves that leaves what the laws read. -/
theorem Kept.calm {o : Outcome} (h : Reached s o) (q : Leads (Quiet s) o) : Leads (Kept s) o :=
  fun t e => .quiet (h t e) (q t e)

/-! ### Settings (R4) -/

theorem clampOr_bounds {lo hi old : Nat} (g : Option Nat) (h : lo ≤ hi) (ho : lo ≤ old ∧ old ≤ hi) :
    lo ≤ clampOr lo hi old g ∧ clampOr lo hi old g ≤ hi := by
  cases g with
  | none => exact ho
  | some n => unfold clampOr clampNat; dsimp only; omega

/-- R4: the settings stored stand in their ranges. -/
theorem Settings.InRange.store {x : Settings} (h : x.InRange) (g : SettingsGiven) {tMax : Nat} (lo : 480 ≤ tMax)
    (hi : tMax ≤ 48768) (old : x.target ≤ tMax) : (x.store g tMax).InRange ∧ (x.store g tMax).target ≤ tMax := by
  obtain ⟨t1, t2, b1, b2, b3, al, at', p1, p2, l1, l2⟩ := h
  have target := clampOr_bounds g.target lo ⟨t1, old⟩
  have allowance := clampOr_bounds g.allowance (Nat.zero_le 20) ⟨Nat.zero_le _, al⟩
  have attempts := clampOr_bounds g.attempts (Nat.zero_le 2) ⟨Nat.zero_le _, at'⟩
  have pathTimeout := clampOr_bounds g.pathTimeout (show 10 ≤ 1000 by omega) ⟨p1, p2⟩
  have lossTime := clampOr_bounds g.lossTime (show 1 ≤ 60 by omega) ⟨l1, l2⟩
  have budget : 1 ≤ (x.store g tMax).budget ∧ (x.store g tMax).budget ≤ budgetMax (x.store g tMax).target := by
    have clamped : ∀ r T, 1 ≤ clampNat 1 (budgetMax T) r ∧ clampNat 1 (budgetMax T) r ≤ budgetMax T := fun r T => by
      unfold clampNat budgetMax; omega
    unfold Settings.store
    dsimp only
    split
    · exact clamped _ _
    · split
      · exact clamped _ _
      · next given =>
        rw [Option.not_isSome_iff_eq_none.1 given, clampOr]
        exact ⟨b1, by unfold budgetMax; omega⟩
  obtain ⟨budget1, budget2⟩ := budget
  unfold budgetMax at budget2
  exact ⟨⟨target.1, le_trans target.2 hi, budget1, by omega, by omega, allowance.2, attempts.2, pathTimeout.1,
    pathTimeout.2, lossTime.1, lossTime.2⟩, target.2⟩

theorem Settings.default_inRange : Settings.default.InRange := by simp [Settings.InRange, Settings.default]

theorem targetMax_le_windowLimit {ws : List Nat} {w : Nat} (h : w ∈ ws) : targetMax ws ≤ windowLimit w := by
  unfold targetMax
  have start : ∀ (ws : List Nat) (m : Nat), ws.foldl (fun m w => min m (windowLimit w)) m ≤ m := fun ws => by
    induction ws with
    | nil => exact fun m => le_rfl
    | cons x xs ih => exact fun m => (ih _).trans (min_le_left _ _)
  generalize 48768 = m
  induction ws generalizing m with
  | nil => cases h
  | cons x xs ih =>
    rcases List.mem_cons.1 h with rfl | h
    · exact (start xs _).trans (min_le_right _ _)
    · exact ih h _

/-- A lower bound of 48768 and of every window's limit bounds the highest T. -/
theorem le_targetMax {ws : List Nat} {n : Nat} (h0 : n ≤ 48768) (h : ∀ w ∈ ws, n ≤ windowLimit w) : n ≤ targetMax ws := by
  unfold targetMax
  generalize 48768 = m at h0 ⊢
  induction ws generalizing m with
  | nil => exact h0
  | cons x xs ih =>
    exact ih (fun w hw => h w (List.mem_cons_of_mem _ hw)) _ (le_min h0 (h x List.mem_cons_self))

theorem targetMax_le (ws : List Nat) : targetMax ws ≤ 48768 := by
  unfold targetMax
  generalize 48768 = m
  induction ws generalizing m with
  | nil => exact le_rfl
  | cons x xs ih => exact (ih _).trans (min_le_left _ _)

/-! ### Venue commands -/

section Venues

variable {v : Fin 24}

/-- A record with no circuit and no queue, in neither seated state, is in place. -/
theorem State.placeOk_of_unseated (phase : (s.venue v).timebase.phase = none) (seated : (s.venue v).seated = false)
    (recovery : (s.venue v).recovery = []) (circuits : (s.venue v).circuits = []) : s.PlaceOk v := by
  rw [State.placeOk_of_phaseless phase]
  exact ⟨fun _ => recovery, seated, fun c hc => by rw [circuits] at hc; cases hc⟩

/-- One record replaced by an unseated one with no circuit; the rest stays. -/
theorem Kept.replace {t : State} {x : Venue} (m : Moves s t) (venue : ∀ w, t.venue w = if w = v then x else s.venue w)
    (circuit : ∀ c, t.circuit c = s.circuit c) (phase : x.timebase.phase = none) (seated : x.seated = false)
    (recovery : x.recovery = []) (circuits : x.circuits = []) (inRange : x.settings.InRange) : Kept s t where
  moves := m
  settings _ law := by
    rw [settingsLaw_iff] at law ⊢
    intro w
    rw [venue w]
    split
    · exact ⟨inRange, fun c hc => by rw [circuits] at hc; cases hc⟩
    · exact ⟨(law w).1, fun c hc => by rw [circuit]; exact (law w).2 c hc⟩
  place _ _ _ law := by
    rw [placeLaw_iff] at law ⊢
    intro w
    by_cases hw : w = v
    · have self : t.venue w = x := (venue w).trans (if_pos hw)
      exact State.placeOk_of_unseated (by rw [self, phase]) (by rw [self, seated]) (by rw [self, recovery])
        (by rw [self, circuits])
    · have other : t.venue w = s.venue w := (venue w).trans (if_neg hw)
      exact (law w).congr (by rw [other]; exact .refl _) fun c _ => by rw [circuit]; exact .refl _

theorem venueOpen_kept (a : VenueOpenArgs) : (venueOpen a s).Leaves (Kept s) := by
  have reaches := venueOpen_reaches s a
  unfold venueOpen at reaches ⊢
  generalize (a.key == 0 || portBad a.portA || portBad a.portB || a.portA.isNone || a.portA == a.portB) = bad at reaches ⊢
  generalize s.keyTaken a.key none = taken at reaches ⊢
  cases bad
  · cases taken
    · cases hv : s.freeVenue with
      | none => trivial
      | some v =>
        rw [hv] at reaches
        have range := Settings.default_inRange.store (VenueOpenGiven a) (tMax := targetMax []) (by decide) (by decide)
          (by decide)
        exact Kept.replace reaches (fun w => State.setVenue_venue_eq_ite _ _ _ _) (fun _ => rfl) rfl rfl rfl rfl range.1
    · trivial
  · trivial

theorem Kept.closeVenue (h : ListLaw s → (s.venue v).circuits = []) : Kept s (s.closeVenue v) :=
  .replace (Move.closeVenue v h).moves (fun w => s.closeVenue_venue v w) (fun _ => rfl) rfl rfl rfl rfl
    Settings.default_inRange

theorem venueRetire_kept (venue option : Nat) : (venueRetire venue option s).Leaves (Kept s) :=
  .orBadReference fun v _ => .refuseIf fun h => .refuseIf fun _ => Kept.closeVenue fun _ => by simpa using h

theorem venueRetireForce_kept (venue : Nat) : (venueRetireForce venue s).Leaves (Kept s) := by
  refine .orBadReference fun v _ => ?_
  have freed : Kept s (s.freeAll (s.venue v).circuits).1 := by
    rw [State.freeAll_eq]
    exact .foldl (fun t c => .freeRecord t c) _ s
  refine freed.trans (.closeVenue fun ⟨_, h, _⟩ => ?_)
  obtain ⟨h1, h2⟩ := s.freeAll_frees (s.venue v).circuits
  rw [← State.freeAll_eq] at h1 h2
  exact List.eq_nil_iff_forall_not_mem.2 fun c hc => ((h v c).1 hc).1 (h1 c (.inr (h2 v hc)))

/-- R4, R16: the settings changed stay in their ranges, T within the highest that the windows of the venue's circuits allow. -/
theorem Kept.changeVenue (a : VenueSetArgs) (m : Moves s (s.setVenue v ((s.venue v).change a (targetMax (s.windowsOf v))))) :
    Kept s (s.setVenue v ((s.venue v).change a (targetMax (s.windowsOf v)))) where
  moves := m
  settings _ law := by
    rw [settingsLaw_iff] at law ⊢
    intro w
    rw [State.setVenue_venue_eq_ite]
    split
    · next hw =>
      obtain ⟨range, windows⟩ := law v
      have limit : ∀ w ∈ s.windowsOf v, (s.venue v).settings.target ≤ windowLimit w ∧ 480 ≤ windowLimit w := by
        intro w hw
        obtain ⟨c, hc, rfl⟩ := List.mem_map.1 hw
        obtain ⟨size, fits⟩ := windows c hc
        have := range.1
        unfold windowLimit
        exact ⟨fits, by omega⟩
      obtain ⟨range', below⟩ := range.store (VenueSetGiven a) (tMax := targetMax (s.windowsOf v))
        (le_targetMax (by decide) fun w hw => (limit w hw).2) (targetMax_le _)
        (le_targetMax range.2.1 fun w hw => (limit w hw).1)
      refine ⟨range', fun c hc => ⟨((windows c hc).1 : _), ?_⟩⟩
      exact le_trans below (targetMax_le_windowLimit (List.mem_map_of_mem hc))
    · exact law w
  place _ _ _ law := by
    rw [placeLaw_iff] at law ⊢
    refine fun w => (law w).congr ?_ fun c _ => .refl _
    rw [State.setVenue_venue_eq_ite]
    split
    · next hw => rw [hw]; exact ⟨rfl, rfl, rfl, rfl⟩
    · exact .refl _

theorem venueSet_kept (venue : Nat) (a : VenueSetArgs) : (venueSet venue a s).Leaves (Kept s) := by
  refine .orBadReference fun v hv => .refuseIf fun h1 => .refuseIf fun h2 => ?_
  have change : Kept s (s.setVenue v ((s.venue v).change a (targetMax (s.windowsOf v)))) := by
    refine .changeVenue a (.changeVenue s v a _ (fun e => ?_) fun k hk w hw => ?_)
    · simp [venueSetBad, e] at h1
    · rw [hk] at h2
      exact State.keyTaken_eq_false (by simpa using h2) w (by simpa using hw)
  show Kept s (if _ then _ else _)
  split
  · exact change
  · exact change.trans (.holdoverIfPathless _ v)

end Venues

/-! ### Circuit commands -/

section Circuits

variable {v : Fin 24} {c : Fin 128}

/-- A circuit opened with an empty window in which T fits. -/
theorem Kept.openCircuit {x : Circuit} (m : Moves s (s.openCircuit v c x)) (isFree : (s.circuit c).state = .free)
    (cells : x.cells = []) (newest : x.newest = none)
    (fits : SettingsLaw s → targetFits (s.venue v).settings.target x.window) : Kept s (s.openCircuit v c x) := by
  have fresh : ListLaw s → ∀ w, c ∉ (s.venue w).circuits := fun hl w hc => ((hl.2.1 w c).1 hc).1 isFree
  have venue := s.openCircuit_venue v
  have circuit : ListLaw s → ∀ w, ∀ d ∈ (s.venue w).circuits, (s.openCircuit v c x).circuit d = s.circuit d :=
    fun hl w d hd => by rw [State.openCircuit_circuit, if_neg (ne_of_mem_of_not_mem hd (fresh hl w))]
  have self : (s.openCircuit v c x).circuit c = x := by rw [State.openCircuit_circuit, if_pos rfl]
  refine ⟨m, fun hl law => ?_, fun hl _ _ law => ?_⟩
  · have adm := fits law
    rw [settingsLaw_iff] at law ⊢
    intro w
    rw [venue]
    split
    · next hw =>
      refine ⟨(law v).1, fun d hd => ?_⟩
      rcases List.mem_append.1 hd with hd | hd
      · rw [circuit hl v d hd]; exact (law v).2 d hd
      · rw [List.mem_singleton.1 hd, self]; exact adm
    · exact ⟨(law w).1, fun d hd => by rw [circuit hl w d hd]; exact (law w).2 d hd⟩
  · rw [placeLaw_iff] at law ⊢
    intro w
    by_cases hw : w = v
    · subst hw
      have here := venue w c x
      rw [if_pos rfl] at here
      have old := law w
      cases hp : (s.venue w).timebase.phase with
      | none =>
        rw [State.placeOk_of_phaseless hp] at old
        rw [State.placeOk_of_phaseless (by rw [here]; exact hp), here]
        refine ⟨old.1, old.2.1, fun d hd => ?_⟩
        rcases List.mem_append.1 hd with hd | hd
        · rw [circuit hl w d hd]; exact old.2.2 d hd
        · rw [List.mem_singleton.1 hd, self]; exact ⟨cells, newest⟩
      | some ph =>
        rw [State.placeOk_of_phase hp, State.queueOk_iff] at old
        rw [State.placeOk_of_phase (by rw [here]; exact hp), State.queueOk_iff, here]
        obtain ⟨idle, seated, ⟨order, each⟩, near⟩ := old
        refine ⟨idle, seated, ⟨order, fun e he => ?_⟩, fun d hd => ?_⟩
        · obtain ⟨listed, place⟩ := each e he
          exact ⟨List.mem_append_left _ listed, by rw [circuit hl w _ listed]; exact place⟩
        · rcases List.mem_append.1 hd with hd | hd
          · rw [circuit hl w d hd]; exact near d hd
          · rw [List.mem_singleton.1 hd, self, cells]; exact fun y hy => by cases hy
    · have other := venue w c x
      rw [if_neg hw] at other
      exact (law w).congr (by rw [other]; exact .refl _) fun d hd => by rw [circuit hl w d hd]; exact .refl _

/-- R33 step 3: a window that CIRCUIT_OPEN takes fits the venue's T. -/
theorem targetFits_of_not_bad {ve : Venue} {a : CircuitOpenArgs} {k : Option CircuitKind} {n : Nat}
    (h : circuitValueBad ve a k n = false) : targetFits ve.settings.target a.window := by
  simp only [circuitValueBad, Bool.or_eq_false_iff, Bool.not_eq_false', decide_eq_false_iff_not, not_lt] at h
  exact ⟨by simpa [windowSizes] using h.1.2, h.2⟩

theorem circuitOpen_kept (a : CircuitOpenArgs) : (circuitOpen a s).Leaves (Kept s) := by
  refine .orBadReference fun v hv => ?_
  simp only
  split
  · trivial
  · next kind channels _ =>
    refine .refuseIf fun hb => .refuseIf fun _ => .refuseIf fun hc => ?_
    split
    · trivial
    · next c hf =>
      refine .refuseIf fun _ => ?_
      rw [Bool.or_eq_false_iff] at hc
      have isFree : (s.circuit c).state = .free := by simpa using List.find?_some hf
      have units : (openedCircuit a v (kind.getD .commentary) channels).units ≤ s.poolFree :=
        Nat.not_lt.1 (of_decide_eq_false hc.2)
      exact .openCircuit (Move.openCircuit v c _ isFree (State.openVenue_eq_some hv).2 (by simp [openedCircuit]) rfl
        (Nat.not_le.1 (of_decide_eq_false hc.1)) units (.of_empty rfl) (openedCircuit_holdLaw a v _ _)).moves
        isFree rfl rfl fun _ => targetFits_of_not_bad hb

theorem circuitRetire_kept (ref : CircuitRef) (option : Nat) : (circuitRetire ref option s).Leaves (Kept s) := by
  have reaches := circuitRetire_reaches s ref option
  unfold circuitRetire at reaches ⊢
  cases hc : s.resolve ref with
  | none => trivial
  | some c =>
    rw [hc] at reaches
    simp only [orBadReference] at reaches ⊢
    split
    · trivial
    · exact Kept.freeCircuit s c
    · next ho =>
      rw [ho] at reaches
      refine .refuseIf fun hn => ?_
      simp only [hn, refuseIf] at reaches
      split
      · next hf =>
        rw [if_pos hf] at reaches
        exact Kept.quiet reaches (.modCircuit ⟨rfl, rfl, rfl⟩)
      · exact Kept.freeCircuit s c

end Circuits

/-! ### The commands that change nothing the laws read -/

theorem Quiet.change (c : Fin 128) (a : CircuitSetArgs) : Quiet s (s.setCircuit c ((s.circuit c).change a)) :=
  .setCircuit ⟨rfl, rfl, rfl⟩

theorem Quiet.rearm (c : Fin 128) : Quiet s (s.setCircuit c (s.circuit c).rearm) := by
  refine .setCircuit ?_
  unfold Circuit.rearm
  split <;> exact ⟨rfl, rfl, rfl⟩

theorem Quiet.applyRate (v : Fin 24) (st : Bool) (a : RateArgs) :
    Quiet s (s.modVenue v fun ve => ve.modTimebase fun tb => tb.applyRate st a) := by
  have phase : ∀ t : Timebase, (t.applyRate st a).phase = t.phase := fun t => by
    unfold Timebase.applyRate Timebase.setStepped Timebase.setImmediate
    dsimp only
    split
    · rfl
    · split
      · split <;> rfl
      · rfl
  exact .modVenue ⟨rfl, rfl, rfl, phase _⟩ rfl

theorem Quiet.changeSource (n : Fin 16) (f : Source → Source) : Quiet s (s.changeSource n f) := by
  obtain ⟨e, hv⟩ := s.changeSource_eq n f
  refine .venues (by rw [e]; rfl) fun v => ?_
  rw [hv]
  exact ⟨⟨rfl, rfl, rfl, rfl⟩, rfl⟩

theorem Quiet.setLane (v : Fin 24) (a : LaneSetArgs) : Quiet s (s.setLane v a) := by
  rw [State.setLane_eq]
  exact .setVenue ⟨rfl, rfl, rfl, rfl⟩ rfl

theorem Quiet.clearHealth (v : Fin 24) : Quiet s (s.clearHealth v) := by
  unfold State.clearHealth
  split
  · have health : ∀ h, Quiet s (s.modVenue v fun ve => { ve with health := h }) := fun _ =>
      .modVenue ⟨rfl, rfl, rfl, rfl⟩ rfl
    exact (health _).trans (.modCircuits _ fun _ => ⟨rfl, rfl, rfl⟩)
  · exact .refl s

end Sys2Proof.Machine
end

section
/-! PROOFS. The settings law and the place law are kept by every step: the walk over the commands. -/

namespace Sys2Proof.Machine

section Walk

variable (s : State)

theorem slotCommand_quiet (slot : Nat) (arg : SourceArg) (go : Fin 128 → Option SlotSource → Answer)
    (h : ∀ i src, (go i src).Leaves (Quiet s)) : (slotCommand slot arg s go).Leaves (Quiet s) :=
  .orBadReference fun i _ => .orBadReference fun src _ => .refuseIf fun _ => .refuseIf fun _ => h i src

theorem alarmDevice_quiet (a : AlarmArgs) : (alarmDevice a s).Leaves (Quiet s) :=
  .refuseIf fun _ => .refuseIf fun _ => Quiet.outside rfl rfl

theorem alarmVenue_quiet (a : AlarmArgs) (v : Fin 24) : (alarmVenue a v s).Leaves (Quiet s) := by
  refine .refuseIf fun _ => ?_
  have venue : Quiet s (s.modVenue v fun ve => { ve with health := (s.venue v).health.enable a }) :=
    .modVenue ⟨rfl, rfl, rfl, rfl⟩ rfl
  exact venue.trans (.outside rfl rfl)

/-- A rule that reports, and then perhaps changes something. -/
theorem Quiet.ite {t : State} {b : Bool} (h : Quiet s t) : Quiet s (if b then t else s) := by
  split
  · exact h
  · exact .refl s

theorem Quiet.deviceQuery (body : List Byte) : (answer body s).Leaves (Quiet s) := Quiet.refl s

theorem Quiet.muteBus (bus : Nat) (mask : BitVec 32) (m : MaskMode) : Quiet s (s.muteBus bus mask m) :=
  .outside (by simp only [State.muteBus]) (by simp only [State.muteBus])

/-- Every venue and every circuit FREE: nothing to keep. -/
theorem Kept.reset {t : State} (m : Moves s t) (venues : ∀ v, t.venue v = Venue.free) : Kept s t where
  moves := m
  settings _ _ := (settingsLaw_iff t).2 fun v => by
    rw [venues]
    exact ⟨Settings.default_inRange, fun c hc => by cases hc⟩
  place _ _ _ _ := (placeLaw_iff t).2 fun v =>
    State.placeOk_of_unseated (by rw [venues]; rfl) (by rw [venues]; rfl) (by rw [venues]; rfl) (by rw [venues]; rfl)

/-- A request command, by what its rule leaves. -/
theorem runRequest_kept (i : Instr) : Leads (Kept s) (runRequest i s) := by
  have calm : Leads (Quiet s) (runRequest i s) → Leads (Kept s) (runRequest i s) := .calm (runRequest_reached s i)
  unfold runRequest at calm ⊢
  split
  · exact calm (.request (.deviceQuery s _))
  · exact .request (.reset s (Moves.deviceClear s) State.reset_venue)
  · exact .request (venueOpen_kept _)
  · exact .request (venueSet_kept _ _)
  · exact .request (venueRetire_kept _ _)
  · exact .request (venueRetireForce_kept _)
  · exact calm (.request (.orBadReference fun _ _ => .deviceQuery s _))
  · exact .request (circuitOpen_kept _)
  · exact calm (.request (.orBadReference fun c _ => .refuseIf fun _ => .refuseIf fun _ => Quiet.change c _))
  · exact calm (.request (.orBadReference fun c _ => .refuseIf fun _ => Quiet.modCircuit ⟨rfl, rfl, rfl⟩))
  · exact calm (.request (.orBadReference fun c _ => .refuseIf fun _ => Quiet.rearm c))
  · exact .request (circuitRetire_kept _ _)
  · exact calm (.request (.orBadReference fun _ _ => .deviceQuery s _))
  · refine calm (.request (.orBadReference fun c _ => ?_))
    split
    · trivial
    · exact Quiet.ite s (.modCircuit ⟨rfl, rfl, rfl⟩)
  · exact calm (.request (.orBadReference fun p _ => .refuseIf fun _ => .refuseIf fun _ => .refuseIf fun _ =>
      Quiet.modPort s p _))
  · refine calm (.request (.orBadReference fun p _ => ?_))
    split
    · trivial
    · exact Quiet.ite s (.modPort s p _)
  · exact calm (.request (.orBadReference fun _ _ => .deviceQuery s _))
  · exact calm (.request (.deviceQuery s _))
  · exact calm (.request (.orBadReference fun v _ => .refuseIf fun _ => .refuseIf fun _ => .refuseIf fun _ =>
      Quiet.applyRate v _ _))
  · exact calm (.request (.orBadReference fun v _ => .refuseIf fun _ => .refuseIf fun _ => .refuseIf fun _ =>
      Quiet.applyRate v _ _))
  · exact calm (.request (.orBadReference fun _ _ => .deviceQuery s _))
  · exact calm (.request (.orBadReference fun _ _ => .deviceQuery s _))
  · exact calm (.request (slotCommand_quiet s _ _ _ fun _ _ => Quiet.outside rfl rfl))
  · exact calm (.request (slotCommand_quiet s _ _ _ fun _ _ => Quiet.outside rfl rfl))
  · exact calm (.request (.orBadReference fun _ _ => Quiet.outside rfl rfl))
  · exact calm (.request (.orBadReference fun _ _ => .deviceQuery s _))
  · refine calm (.request (.orBadReference fun b _ => ?_))
    split
    · trivial
    · exact Quiet.muteBus s b _ _
  · exact calm (.request (.orBadReference fun n _ => .refuseIf fun _ => Quiet.changeSource n _))
  · exact calm (.request (.orBadReference fun n _ => Quiet.changeSource n _))
  · exact calm (.request (.orBadReference fun n _ => Quiet.changeSource n _))
  · refine calm (.request (.orBadReference fun n _ => ?_))
    split
    · trivial
    · exact Quiet.changeSource n _
  · exact calm (.request (.orBadReference fun v _ => .refuseIf fun _ => .refuseIf fun _ => Quiet.setLane v _))
  · exact calm (.request (.orBadReference fun _ _ => .deviceQuery s _))
  · refine calm (.request ?_)
    split
    · trivial
    · exact Quiet.outside rfl rfl
  · refine calm (.request ?_)
    split
    · exact alarmDevice_quiet s _
    · exact .orBadReference fun v _ => alarmVenue_quiet s _ v
  · refine calm (.request ?_)
    split
    · trivial
    · exact Quiet.ite s (.outside rfl rfl)
  · refine calm (.request (.orBadReference fun v _ => ?_))
    split
    · trivial
    · exact Quiet.ite s (.clearHealth v)
  all_goals exact .next (.refl s)

theorem rawRequest_kept (x : Transfer) (code : Byte) (n : BitVec 16) (body : List Byte) :
    Leads (Kept s) (rawRequest x code n body s) := by
  unfold rawRequest
  split
  · exact .request (handler := fun _ => .refuse .badLength) trivial
  · exact .request (handler := fun _ => .refuse .badCommand) trivial
  · exact runRequest_kept s _

theorem malformed_kept (b : Bool) (bytes : List Byte) : Leads (Kept s) (execMalformedTransaction b bytes s) := by
  have device : ∀ c, Kept s { s with control := c } := fun c => .quiet (.outside rfl rfl rfl rfl rfl rfl) (.outside rfl rfl)
  unfold execMalformedTransaction
  split
  · exact .next (.refl s)
  · split
    · exact .next (device _)
    · split
      · split
        · exact rawRequest_kept s _ _ _ _
        · exact .next (device _)
      · split
        · exact .next (device _)
        · split <;> exact .next (device _)

theorem State.edge_outside (i : Option Nat) : (s.edge i).venues = s.venues ∧ (s.edge i).circuits = s.circuits := by
  unfold State.edge State.followEdge State.loseReference
  split
  · exact ⟨rfl, rfl⟩
  · split
    · exact ⟨rfl, rfl⟩
    · split <;> exact ⟨rfl, rfl⟩

/-- Every command keeps the two laws. -/
theorem exec_kept (i : Instr) : Leads (Kept s) (exec i s) := by
  have device : ∀ {t : State}, Moves s t → t.venues = s.venues → t.circuits = s.circuits → Kept s t :=
    fun m hv hc => .quiet m (.outside hv hc)
  cases i with
  | identify x => exact runRequest_kept s (.identify x)
  | deviceClear x => exact runRequest_kept s (.deviceClear x)
  | venueOpen x a => exact runRequest_kept s (.venueOpen x a)
  | venueSet x v a => exact runRequest_kept s (.venueSet x v a)
  | venueRetire x v o => exact runRequest_kept s (.venueRetire x v o)
  | venueRetireForce x v => exact runRequest_kept s (.venueRetireForce x v)
  | venueQuery x v => exact runRequest_kept s (.venueQuery x v)
  | circuitOpen x a => exact runRequest_kept s (.circuitOpen x a)
  | circuitSet x a r => exact runRequest_kept s (.circuitSet x a r)
  | circuitTrim x d r => exact runRequest_kept s (.circuitTrim x d r)
  | circuitRearm x r => exact runRequest_kept s (.circuitRearm x r)
  | circuitRetire x r o => exact runRequest_kept s (.circuitRetire x r o)
  | circuitFind x r => exact runRequest_kept s (.circuitFind x r)
  | circuitQuery x r c => exact runRequest_kept s (.circuitQuery x r c)
  | portSet x p a => exact runRequest_kept s (.portSet x p a)
  | portQuery x p c => exact runRequest_kept s (.portQuery x p c)
  | windowQuery x r => exact runRequest_kept s (.windowQuery x r)
  | referenceQuery x => exact runRequest_kept s (.referenceQuery x)
  | venueRate x v m a => exact runRequest_kept s (.venueRate x v m a)
  | venueRateStepped x v a => exact runRequest_kept s (.venueRateStepped x v a)
  | timebaseCapture x v => exact runRequest_kept s (.timebaseCapture x v)
  | recoveryQuery x v => exact runRequest_kept s (.recoveryQuery x v)
  | slotAssign x i a => exact runRequest_kept s (.slotAssign x i a)
  | slotPunch x i a => exact runRequest_kept s (.slotPunch x i a)
  | slotRelease x i => exact runRequest_kept s (.slotRelease x i)
  | slotQuery x i => exact runRequest_kept s (.slotQuery x i)
  | muteModify x b m k => exact runRequest_kept s (.muteModify x b m k)
  | sourceSet x n e => exact runRequest_kept s (.sourceSet x n e)
  | sourceKey x n d => exact runRequest_kept s (.sourceKey x n d)
  | sourceUnkey x n => exact runRequest_kept s (.sourceUnkey x n)
  | targetModify x n m k => exact runRequest_kept s (.targetModify x n m k)
  | laneSet x v a => exact runRequest_kept s (.laneSet x v a)
  | laneQuery x v => exact runRequest_kept s (.laneQuery x v)
  | arbiterMode x m => exact runRequest_kept s (.arbiterMode x m)
  | alarmEnable x a => exact runRequest_kept s (.alarmEnable x a)
  | attentionRead x c => exact runRequest_kept s (.attentionRead x c)
  | healthRead x v c => exact runRequest_kept s (.healthRead x v c)
  | unknownCommandRequest x c n b => exact rawRequest_kept s x c n b
  | responseTransaction b n => exact .ite (device (.outside rfl rfl rfl rfl rfl rfl) rfl rfl) (.refl s)
  | statusTransaction b n => exact .ite (device (.outside rfl rfl rfl rfl rfl rfl) rfl rfl) (.refl s)
  | malformedTransaction b n => exact malformed_kept s b n
  | hardwareReset => exact .next (.reset s (.hardwareReset s) State.reset_venue)
  | resetRelease => exact .next (device (.outside rfl rfl rfl rfl rfl rfl) rfl rfl)
  | frameReceived p rx => exact .next (.receive s p rx)
  | transmitComplete p => exact .next (device (.modPort s p _ (Port.complete_queue _)) rfl rfl)
  | linkStateChange p up => exact .ite (.refl s) (device (.modPort s p _ (Port.setLink_queue _ up)) rfl rfl)
  | wckEdge i => exact .ite (.refl s) (device (.edge s i) (s.edge_outside i).1 (s.edge_outside i).2)
  | referenceQualified => exact .ite (device (.outside rfl rfl rfl rfl rfl rfl) rfl rfl) (.refl s)
  | referenceLoss c => exact .ite (device (.outside rfl rfl rfl rfl rfl rfl) rfl rfl) (.refl s)
  | blockBoundary a => exact .ite (.refl s) (.boundary s a)
  | intervalUpdate v => exact .next (.takeDue s _ _)
  | schedulerStep v => exact .next (.takeDue s _ _)
  | fadeEnd c =>
    refine .next ?_
    split
    · exact .refl s
    · exact .takeDue s _ _
  | terminalCount c => exact .next (.takeDue s _ _)
  | venueLossExpiry v => exact .next (.takeDue s _ _)
  | announceExpiry v => exact .next (.takeDue s _ _)
  | pathTimeout v p => exact .next (.takeDue s _ _)
  | reorderAllowanceExpiry v c n => exact .next (.takeDue s _ _)
  | softwareKeyExpiry n => exact .next (.takeDue s _ _)
  | gapEnd v => exact .next (.takeDue s _ _)
  | degradeWindowRestart => exact .next (.takeDue s _ _)

end Walk

theorem step_kept {s t : State} (h : step s = .next t) : Kept s t := by
  unfold step at h
  split at h
  · next c rest _ =>
    have popped : Kept s { s with pending := rest } := .quiet (.outside rfl rfl rfl rfl rfl rfl) (.outside rfl rfl)
    exact popped.trans (exec_kept _ c t h)
  · cases h
    exact .idle s

/-- Settles O54: settings are stored clamped to the windows of the venue's circuits, and a window in which T does not fit is
refused; nothing else changes either (`step_kept`). -/
theorem stepKeepsSettingsLaw : Obligations.StepKeepsSettingsLaw := fun _ _ hl hs h => (step_kept h).settings hl hs

/-- Settles O52, change by change (`step_kept`): what is stored or entered stands in its place, and an advance of the read
frame leaves nothing behind it. -/
theorem stepKeepsPlaceLaw : Obligations.StepKeepsPlaceLaw := fun _ _ hl hw hs hp h => (step_kept h).place hl hw hs hp

end Sys2Proof.Machine
end

section
/-! PROOFS. What a step takes (section 5.1), the transmit queues and links (section 3.4), the gallery reference (section 5.1),
and the queries that answer a report. -/

namespace Sys2Proof.Machine

/-! ### One step -/

theorem step_of_pending (c : Instr) (rest : List Instr) (s : State) :
    step { s with pending := c :: rest } = exec c { s with pending := rest } := rfl

/-- On an empty queue the oldest work left over is taken. -/
theorem step_of_due {s : State} {w : Work} {ws : List Work} (hp : s.pending = []) (hd : s.due = w :: ws) :
    step s = .next (State.takeWork { s with due := ws } w) := by
  unfold step
  simp only [hp, State.idle, hd]

theorem step_of_idle {s : State} (hp : s.pending = []) (hd : s.due = []) : step s = .next s := by
  unfold step
  simp only [hp, State.idle, hd]

/-- Settles O1, by the queue and the works left over. -/
theorem stepTakesFrontCommand : Obligations.StepTakesFrontCommand :=
  ⟨step_of_pending, fun _ _ _ hp hd => step_of_due hp hd, fun _ hp hd => step_of_idle hp hd⟩

/-! ### Transmit queues and links (R56, R57) -/

theorem exec_transmitComplete (p : Fin 4) (s : State) :
    exec (.transmitComplete p) s = .next (s.setPort p (s.port p).complete) := rfl

theorem exec_linkStateChange {p : Fin 4} {up : Bool} {s : State} (h : s.resetLow = false) :
    exec (.linkStateChange p up) s = .next (s.setPort p ((s.port p).setLink up)) := by
  show Host.Outcome.next (if s.resetLow then s else _) = _
  rw [h]
  rfl

theorem Port.complete_of_cons {pt : Port} {fr : TxFrame} {rest : List TxFrame} (h : pt.queue = fr :: rest) :
    pt.complete = { pt with queue := rest, sent := min 65535 (pt.sent + 1) } := by
  simp only [Port.complete, h]
  rfl

theorem Port.complete_of_nil {pt : Port} (h : pt.queue = []) : pt.complete = pt := by
  simp only [Port.complete, h]

theorem Port.setLink_down_of_up {pt : Port} (h : pt.linkUp = true) : pt.setLink false =
    { pt with linkUp := false, queue := [], dropped := min 65535 (pt.dropped + pt.queue.length) } := by
  simp only [Port.setLink, h]
  rfl

theorem Port.setLink_down_of_down {pt : Port} (h : pt.linkUp = false) : pt.setLink false = pt := by
  simp [Port.setLink, h]

/-- Settles O36, by what the port's queue and link state were. -/
theorem transmitAndLink : Obligations.TransmitAndLink := by
  intro s p
  refine ⟨fun fr rest h => ?_, fun h => ?_, fun hr => ⟨?_, fun hu => ?_, fun hd => ?_⟩, fun hr up => ?_⟩
  · rw [exec_transmitComplete, Port.complete_of_cons h]
  · rw [exec_transmitComplete, Port.complete_of_nil h, State.setPort_self]
  · exact exec_linkStateChange hr
  · rw [exec_linkStateChange hr, Port.setLink_down_of_up hu]
  · rw [exec_linkStateChange hr, Port.setLink_down_of_down hd, State.setPort_self]
  · show Host.Outcome.next (if s.resetLow then s else _) = _
    rw [hr]
    rfl

/-! ### The gallery reference (R77, R78) -/

theorem exec_wckEdge {s : State} (i : Option Nat) (h : s.resetLow = false) : exec (.wckEdge i) s = .next (s.edge i) := by
  show Host.Outcome.next (if s.resetLow then s else _) = _
  rw [h]
  rfl

theorem exec_referenceQualified (s : State) :
    exec .referenceQualified s = .next (if s.qualifies then { s with reference := s.reference.qualify } else s) := rfl

theorem exec_referenceLoss (c : LossCause) (s : State) :
    exec (.referenceLoss c) s = .next (if s.loses c then s.loseReference else s) := rfl

theorem State.edge_of_freeRun {s : State} (i : Option Nat) (h : s.reference.state = .freeRun) :
    s.edge i = { s with reference := s.reference.judgeEdge i } := by simp only [State.edge, h]

theorem State.edge_of_wck {s : State} (i : Option Nat) (h : s.reference.state = .wck) : s.edge i = s.followEdge i := by
  simp only [State.edge, h]

theorem intervalInRange_some (ps : Nat) :
    intervalInRange (some ps) = true ↔ 990000000000 ≤ 48000 * ps ∧ 48000 * ps ≤ 1010000000000 := by
  simp [intervalInRange, edgeInRange]

/-- R78: an edge in range counts; the 48th in a row makes the reference WCK. -/
theorem Reference.judgeEdge_of_inRange {r : Reference} {i : Option Nat} (h : intervalInRange i = true) :
    r.judgeEdge i = if 48 ≤ r.qualification + 1 then r.qualify else { r with qualification := r.qualification + 1 } := by
  simp only [Reference.judgeEdge, h, if_true]
  rfl

theorem Reference.judgeEdge_of_stray {r : Reference} {i : Option Nat} (h : intervalInRange i = false) :
    r.judgeEdge i = { r with qualification := 0 } := by simp [Reference.judgeEdge, h]

/-- R77: an edge out of range in WCK: the loss after four in a row or a silence of four periods. -/
theorem State.followEdge_of_stray {s : State} {ps : Nat} (h : intervalInRange (some ps) = false) :
    s.followEdge (some ps) = if 4000000000000 ≤ 48000 * ps ∨ Config.strayLimit ≤ s.reference.strayEdges + 1 then s.loseReference
      else { s with reference := { s.reference with strayEdges := s.reference.strayEdges + 1 } } := by
  simp only [State.followEdge, h, edgeSilent, Bool.or_eq_true, decide_eq_true_eq, Bool.false_eq_true,
    if_false]

theorem State.followEdge_of_inRange {s : State} {i : Option Nat} (h : intervalInRange i = true) :
    s.followEdge i = { s with reference := { s.reference with strayEdges := 0 } } := by
  simp [State.followEdge, h]

/-- Settles O37, by the state of the reference and the range of the edge. -/
theorem referenceFollowsEdges : Obligations.ReferenceFollowsEdges := by
  intro s ps inRange hr hi
  have range : inRange ↔ intervalInRange (some ps) = true := hi.trans (intervalInRange_some ps).symm
  have stray : ¬ inRange ↔ intervalInRange (some ps) = false := by rw [range, Bool.not_eq_true]
  refine ⟨fun hf => ⟨fun hin hq => ?_, fun hin hq => ?_, fun hout => ?_, ?_, fun hq => ?_, fun cause => ?_⟩,
    fun hw => ⟨fun hin => ?_, fun hout hs hq => ?_, fun hout hl => ?_, ?_, fun hq => ?_, ?_⟩⟩
  · rw [exec_wckEdge _ hr, State.edge_of_freeRun _ hf, Reference.judgeEdge_of_inRange (range.1 hin),
      if_neg (by omega)]
  · rw [exec_wckEdge _ hr, State.edge_of_freeRun _ hf, Reference.judgeEdge_of_inRange (range.1 hin),
      if_pos (by omega)]
    rfl
  · rw [exec_wckEdge _ hr, State.edge_of_freeRun _ hf, Reference.judgeEdge_of_stray (stray.1 hout)]
  · rw [exec_wckEdge _ hr, State.edge_of_freeRun _ hf, Reference.judgeEdge_of_stray rfl]
  · rw [exec_referenceQualified, if_pos (by simp [State.qualifies, hr, hf, hq, Config.qualifyEdges])]
    rfl
  · rw [exec_referenceLoss, if_neg (by simp [State.loses, hf])]
  · rw [exec_wckEdge _ hr, State.edge_of_wck _ hw, State.followEdge_of_inRange (range.1 hin)]
  · rw [exec_wckEdge _ hr, State.edge_of_wck _ hw, State.followEdge_of_stray (stray.1 hout),
      if_neg (by unfold Config.strayLimit; omega)]
  · rw [exec_wckEdge _ hr, State.edge_of_wck _ hw, State.followEdge_of_stray (stray.1 hout),
      if_pos (by unfold Config.strayLimit; omega)]
    rfl
  · rw [exec_referenceLoss, if_pos (by simp [State.loses, hr, hw, LossCause.possible])]
    rfl
  · rw [exec_referenceLoss, if_pos (by simp [State.loses, hr, hw, LossCause.possible, hq, Config.strayLimit])]
    rfl
  · rw [exec_referenceQualified, if_neg (by simp [State.qualifies, hw])]

/-! ### Queries -/

theorem exec_venueQuery (x : Transfer) (v : Nat) (s : State) : exec (.venueQuery x v) s =
    request x 0x13 (fun s => orBadReference (inTable 24 v) fun v => answer (venueReport s v) s) s := rfl

theorem exec_laneQuery (x : Transfer) (v : Nat) (s : State) : exec (.laneQuery x v) s =
    request x 0x65 (fun s => orBadReference (inTable 24 v) fun v => answer (laneReport s v) s) s := rfl

theorem exec_slotQuery (x : Transfer) (i : Nat) (s : State) : exec (.slotQuery x i) s =
    request x 0x53 (fun s => orBadReference (inTable 128 i) fun i => answer (slotQueryReport s i) s) s := rfl

theorem exec_timebaseCapture (x : Transfer) (v : Nat) (s : State) : exec (.timebaseCapture x v) s =
    request x 0x42 (fun s => orBadReference (s.openVenue v) fun v =>
      answer (timebaseReport (s.venue v) s.blockCount) s) s := rfl

theorem exec_recoveryQuery (x : Transfer) (v : Nat) (s : State) : exec (.recoveryQuery x v) s =
    request x 0x48 (fun s => orBadReference (s.openVenue v) fun v => answer (recoveryReport s v) s) s := rfl

theorem exec_windowQuery (x : Transfer) (r : CircuitRef) (s : State) : exec (.windowQuery x r) s =
    request x 0x38 (fun s => orBadReference (s.resolve r) fun c => answer (windowReport s c) s) s := rfl

theorem inTable_of_le {n i : Nat} (h : n ≤ i) : inTable n i = none := by simp [inTable, Nat.not_lt.2 h]

/-- An index beyond the table, or of a FREE record, names no open venue. -/
theorem State.openVenue_of_le {s : State} {i : Nat} (h : 24 ≤ i) : s.openVenue i = none := by
  simp [State.openVenue, inTable_of_le h]

theorem State.openVenue_of_free {s : State} {v : Fin 24} (h : (s.venue v).state = .free) : s.openVenue v.val = none := by
  simp [State.openVenue, inTable_val, Venue.isOpen, h]

theorem State.openVenue_of_open {s : State} {v : Fin 24} (h : (s.venue v).state ≠ .free) :
    s.openVenue v.val = some v := State.openVenue_val ((Venue.isOpen_iff _).2 h)

/-- Settles O6: each query looks its index or reference up, and answers the report. -/
theorem queriesAnswerAndChangeNothing : Obligations.QueriesAnswerAndChangeNothing := by
  intro x s h
  refine ⟨fun v => ?_, fun v => ?_, fun i => ?_, fun v => ?_, fun v => ?_, fun r c hr => ?_, fun r hr => ?_,
    fun v hv => ⟨?_, ?_, ?_, ?_⟩, fun i hi => ?_⟩
  · rw [exec_venueQuery]
    exact request_ok x _ _ s h (by rw [inTable_val]; rfl)
  · rw [exec_laneQuery]
    exact request_ok x _ _ s h (by rw [inTable_val]; rfl)
  · rw [exec_slotQuery]
    exact request_ok x _ _ s h (by rw [inTable_val]; rfl)
  · rw [exec_timebaseCapture]
    split
    · next hf => exact request_refuse x _ _ s h (by rw [State.openVenue_of_free hf]; rfl)
    · next ho => exact request_ok x _ _ s h (by rw [State.openVenue_of_open ho]; rfl)
  · rw [exec_recoveryQuery]
    split
    · next hf => exact request_refuse x _ _ s h (by rw [State.openVenue_of_free hf]; rfl)
    · next ho => exact request_ok x _ _ s h (by rw [State.openVenue_of_open ho]; rfl)
  · rw [exec_windowQuery]
    exact request_ok x _ _ s h (by rw [hr]; rfl)
  · rw [exec_windowQuery]
    exact request_refuse x _ _ s h (by rw [hr]; rfl)
  · rw [exec_venueQuery]
    exact request_refuse x _ _ s h (by rw [inTable_of_le hv]; rfl)
  · rw [exec_laneQuery]
    exact request_refuse x _ _ s h (by rw [inTable_of_le hv]; rfl)
  · rw [exec_timebaseCapture]
    exact request_refuse x _ _ s h (by rw [State.openVenue_of_le hv]; rfl)
  · rw [exec_recoveryQuery]
    exact request_refuse x _ _ s h (by rw [State.openVenue_of_le hv]; rfl)
  · rw [exec_slotQuery]
    exact request_refuse x _ _ s h (by rw [inTable_of_le hi]; rfl)

end Sys2Proof.Machine
end

section
/-! PROOFS. The block boundary (section 5.1): what no work touches, how it begins, which works it takes, and what they do where
nothing expires. -/

namespace Sys2Proof.Machine

/-! ### What no work of a boundary touches -/

/-- The part without its tables: every work of a boundary keeps it. -/
def State.device (s : State) : State :=
  { s with ports := State.reset.ports, venues := State.reset.venues, circuits := State.reset.circuits, poolFree := 0
           slots := State.reset.slots, sources := State.reset.sources, freeCount := 0 }

theorem State.foldl_device {α : Type} {f : State → α → State} (hf : ∀ t a, (f t a).device = t.device) (l : List α)
    (s : State) : (l.foldl f s).device = s.device := by
  induction l generalizing s with
  | nil => rfl
  | cons a l ih => exact (ih _).trans (hf s a)

section Device

variable (s : State) (v : Fin 24) (c : Fin 128)

theorem State.modCircuits_device (cs : List (Fin 128)) (f : Circuit → Circuit) :
    (s.modCircuits cs f).device = s.device := 
  State.foldl_device (f := fun t c => t.modCircuit c f) (fun _ _ => rfl) cs s

theorem State.reports_device (rs : List Report) : (s.reports v rs).device = s.device :=
  State.foldl_device (f := fun t r => t.report v r) (fun _ _ => rfl) rs s

theorem State.flush_device : (s.flush v).device = s.device := State.reports_device s v _

theorem State.freeRecord_device : (s.freeRecord c).device = s.device := by
  rw [State.freeRecord_eq]
  split <;> rfl

theorem State.unseatCircuit_device : (s.unseatCircuit c).device = s.device := by
  unfold State.unseatCircuit
  dsimp only
  split
  · rfl
  · rfl
  · exact State.freeRecord_device s c
  · rfl
  · rfl
  · rfl

theorem State.unseat_device : (s.unseat v).device = s.device := by
  rw [State.unseat_eq, State.foldl_device (fun t c => State.unseatCircuit_device t c)]
  exact (State.flush_device _ v).trans (State.modCircuits_device s _ _)

theorem State.freeCircuit_device : (s.freeCircuit c).device = s.device := by
  unfold State.freeCircuit
  dsimp only
  split
  · exact State.freeRecord_device s c
  · split
    · exact (State.unseat_device _ _).trans (State.freeRecord_device s c)
    · exact State.freeRecord_device s c

theorem State.enterHoldover_device : (s.enterHoldover v).device = s.device := State.flush_device _ v

theorem State.pathTimeout_device (p : PathId) : (s.pathTimeout v p).device = s.device := by
  unfold State.pathTimeout State.dropPath State.holdoverIfPathless
  split
  · dsimp only
    split
    · exact State.enterHoldover_device _ v
    · rfl
  · rfl

theorem State.holdoverCount_device : (s.holdoverCount v).device = s.device := by
  unfold State.holdoverCount
  split
  · exact State.unseat_device s v
  · split <;> rfl

theorem State.announceAge_device : (s.announceAge v).device = s.device := by
  unfold State.announceAge
  split
  · rfl
  · split <;> rfl

theorem State.frameAdvance_device (l e : FrameNo) : (s.frameAdvance v l e).device = s.device := by
  unfold State.frameAdvance State.expireEntries
  exact (State.reports_device _ v _).trans ((State.modCircuits_device _ _ _).trans (State.modCircuits_device s _ _))

theorem State.advanceStep_device : (s.advanceStep v).device = s.device := by
  cases h : (s.venue v).timebase.phase with
  | none => simp only [State.advanceStep, h]
  | some ph =>
    rw [State.advanceStep_of_phase h]
    split
    · rfl
    · exact State.frameAdvance_device _ v _ _

theorem State.playSteps_device (n : Nat) : (State.playSteps v n s).1.device = s.device := by
  induction n generalizing s with
  | zero => rfl
  | succ n ih => exact (ih _).trans (State.advanceStep_device s v)

theorem State.fadeStep_device : (s.fadeStep c).device = s.device := by
  unfold State.fadeStep
  dsimp only
  split
  · split
    · exact State.freeCircuit_device _ c
    · rfl
  · rfl

theorem State.stageAdvance_device : (s.stageAdvance v).device = s.device := by
  have rows : ∀ (t : State) cs rs, (t.stageRows cs rs).device = t.device := fun _ _ _ => rfl
  simp only [State.stageAdvance]
  rw [State.foldl_device (fun t c => State.fadeStep_device t c), rows, State.playSteps_device]

theorem State.venueStep_device : (s.venueStep v).device = s.device := by
  unfold State.venueStep
  split
  · exact State.stageAdvance_device s v
  · rfl

theorem State.holdoverCountdown_device : (s.holdoverCountdown c).device = s.device := by
  unfold State.holdoverCountdown State.terminalCount
  split
  · dsimp only
    split <;> rfl
  · split <;> rfl

theorem State.submitCopy_device (o : VctOut) (p : PathId) : (s.submitCopy v o p).device = s.device := by
  unfold State.submitCopy
  dsimp only
  split
  · split <;> rfl
  · rfl

theorem State.submit_device (o : VctOut) : (s.submit v o).device = s.device :=
  (State.submitCopy_device _ v o .b).trans (State.submitCopy_device s v o .a)

theorem State.requestPass_device : (s.requestPass v).device = s.device := by
  by_cases h : (s.venue v).state ≠ .active ∨ (s.venue v).timebase.phase = none ∨ (s.venue v).settings.attempts = 0
  · rw [State.requestPass_of_idle h]
  · simp only [not_or, ne_eq, not_not] at h
    obtain ⟨hs, hp, ha⟩ := h
    obtain ⟨ph, hp⟩ := Option.ne_none_iff_exists'.1 hp
    rw [State.requestPass_of_active hs hp ha, State.foldl_device fun t es => State.submit_device t v _]
    exact State.reports_device s v _

theorem State.sendFoldback_device : (s.sendFoldback v).device = s.device := by
  unfold State.sendFoldback
  split
  · exact State.submit_device _ v _
  · rfl

theorem State.turned_device : s.sampleKeys.turnLanes.device = s.device := by
  simp only [State.turnLanes, State.sampleKeys, State.device]

theorem State.foldbackStep_device : s.foldbackStep.device = s.device := by
  unfold State.foldbackStep
  dsimp only
  split
  · exact (show (State.bufferLanes _).device = _ by simp only [State.bufferLanes, State.device]).trans s.turned_device
  · exact (State.foldl_device (fun t v => State.sendFoldback_device t v) _ _).trans s.turned_device

/-- A work changes tables only. -/
theorem State.takeWork_device (w : Work) : (s.takeWork w).device = s.device := by
  cases w with
  | pathTimeout v p => exact State.pathTimeout_device s v p
  | holdoverCount v => exact State.holdoverCount_device s v
  | announceAge v => exact State.announceAge_device s v
  | venueStep v => exact State.venueStep_device s v
  | holdoverCountdown c => exact State.holdoverCountdown_device s c
  | requestPass v => exact State.requestPass_device s v
  | foldbackStep => exact State.foldbackStep_device s
  | windowRestart => rfl

theorem State.takeWork_due (w : Work) : (s.takeWork w).due = s.due := by
  have h := congrArg State.due (s.takeWork_device w)
  exact h

theorem State.takeWork_reference (w : Work) : (s.takeWork w).reference = s.reference := by
  have h := congrArg State.reference (s.takeWork_device w)
  exact h

end Device

/-! ### The works of a boundary -/

theorem mem_worksOf (n : BlockCount) (w : Work) : w ∈ worksOf n ↔ (w = .windowRestart → n.toNat % 1000 = 0) := by
  have venues : ∀ v, v ∈ allVenues := List.mem_finRange
  have circuits : ∀ c, c ∈ allCircuits := List.mem_finRange
  have paths : ∀ v p, (v, p) ∈ allPaths := fun v p =>
    List.mem_flatMap.2 ⟨v, venues v, by cases p <;> simp⟩
  unfold worksOf Config.degradeWindow
  cases w <;> simp [venues, circuits, paths]

theorem allPaths_nodup : allPaths.Nodup := by
  refine List.nodup_flatMap.2 ⟨fun v _ => by simp, ?_⟩
  refine (List.nodup_finRange 24).imp fun {v w} h => ?_
  simp [Function.onFun, List.disjoint_left, h]

theorem worksOf_nodup (n : BlockCount) : (worksOf n).Nodup := by
  have venues : allVenues.Nodup := List.nodup_finRange 24
  have circuits : allCircuits.Nodup := List.nodup_finRange 128
  have paths : (allPaths.map fun q => Work.pathTimeout q.1 q.2).Nodup :=
    allPaths_nodup.map fun x y h => by cases x; cases y; simpa using h
  unfold worksOf
  simp only [List.nodup_append, List.mem_append, List.mem_map, List.mem_singleton]
  refine ⟨⟨⟨⟨⟨⟨⟨paths, venues.map ?_, ?_⟩, venues.map ?_, ?_⟩, venues.map ?_, ?_⟩, circuits.map ?_, ?_⟩,
    venues.map ?_, ?_⟩, by simp, ?_⟩, by split <;> simp, ?_⟩
  case refine_1 | refine_3 | refine_5 | refine_7 | refine_9 => exact fun x y h => by simpa using h
  case refine_2 | refine_4 | refine_6 | refine_8 | refine_10 =>
    rintro a ha _ ⟨w, _, rfl⟩ rfl
    simp at ha
  case refine_11 =>
    rintro a ha _ rfl rfl
    simp at ha
  case refine_12 =>
    rintro a ha b hb rfl
    split at hb
    · rw [List.mem_singleton.1 hb] at ha
      simp at ha
    · cases hb

/-! ### The boundary (R76) -/

theorem exec_blockBoundary {s : State} (a : BoundaryArgs) (h : s.resetLow = false) :
    exec (.blockBoundary a) s = .next (s.boundary a) := by
  show Host.Outcome.next (if s.resetLow then s else _) = _
  rw [h]
  rfl

theorem State.boundary_eq (s : State) (a : BoundaryArgs) : s.boundary a = (worksNow (s.finishDue.blockCount + 1) a).foldl
    State.takeWork { s.finishDue.beginBlock a with due := worksLater (s.finishDue.blockCount + 1) a } := rfl

theorem State.finishDue_of_nil {s : State} (h : s.due = []) : s.finishDue = s := by
  simp only [State.finishDue, h]
  cases s
  cases h
  rfl

/-- R120: each slot turns over to the block staged one count before, or to silence. -/
theorem State.beginBlock_slot (s : State) (a : BoundaryArgs) (i : Fin 128) : (s.beginBlock a).slot i = { s.slot i with
    fellBack := none
    emitting := match (s.slot i).staged[s.reference.blockCount.toNat % 2]'(Nat.mod_lt _ (by decide)) with
      | none => silentBlock
      | some st => if st.block = s.reference.blockCount then st.samples else silentBlock } := by
  have count : ∀ b : BlockCount, b + 1 - 1 = b := fun b => by bv_omega
  simp only [State.beginBlock, State.turnover, State.slot, Fin.getElem_fin, Vector.getElem_map, Slot.emission,
    State.blockCount, count]
  rfl

theorem returnBlockOf_get (ti : Vector (List TiFrame) 48) (n : Fin 32) (j : Fin 48) :
    ((returnBlockOf ti)[n])[j] = match (ti[j]).getLast? with | none => 0 | some fr => fr[n] := by
  simp only [returnBlockOf, Fin.getElem_fin, Vector.getElem_ofFn, captured] <;> rfl

/-- What the begin of a block leaves. -/
theorem State.beginBlock_eq (s : State) (a : BoundaryArgs) : s.beginBlock a = { s with
    reference := { s.reference with blockCount := s.reference.blockCount + 1 }
    returnBlock := (s.beginBlock a).returnBlock, keyLow := (s.beginBlock a).keyLow, slots := (s.beginBlock a).slots } := rfl

theorem worksNow_of_later {n : BlockCount} {a : BoundaryArgs} (first : a.first = []) (h : ∀ w ∈ worksOf n, w ∈ a.later) :
    worksNow n a = [] := by
  simpa [worksNow, firstWorks, first] using h

theorem worksLater_of_later {n : BlockCount} {a : BoundaryArgs} (first : a.first = []) (h : ∀ w ∈ worksOf n, w ∈ a.later) :
    worksLater n a = worksOf n := by
  simpa [worksLater, firstWorks, first, List.filter_eq_self] using h

/-- Settles O38: with nothing left over and everything left for later, the boundary is the begin of its block. -/
theorem blockBoundaryBegins : Obligations.BlockBoundaryBegins := by
  intro s a hr hd hf hl
  have now := worksNow_of_later hf hl
  have later := worksLater_of_later hf hl
  have boundary : s.boundary a = { s.beginBlock a with due := worksOf (s.reference.blockCount + 1) } := by
    rw [State.boundary_eq, State.finishDue_of_nil hd]
    show List.foldl _ { s.beginBlock a with due := worksLater (s.reference.blockCount + 1) a }
      (worksNow (s.reference.blockCount + 1) a) = _
    rw [now, later]
    rfl
  refine ⟨_, exec_blockBoundary a hr, ?_⟩
  rw [boundary]
  exact ⟨rfl, rfl, fun n j => returnBlockOf_get a.ti n j, fun i => s.beginBlock_slot a i, fun w => mem_worksOf _ w,
    worksOf_nodup _, rfl⟩

theorem State.takeWorks_reference (s : State) (ws : List Work) : (ws.foldl State.takeWork s).reference = s.reference := by
  have h := congrArg State.reference (State.foldl_device (fun t w => State.takeWork_device t w) ws s)
  exact h

/-- Works asked for first, each once and each a work of the boundary, are the first works. -/
theorem firstWorks_of_nodup {n : BlockCount} {a : BoundaryArgs} (hn : a.first.Nodup) (h : ∀ w ∈ a.first, w ∈ worksOf n) :
    firstWorks n a = a.first := by
  rw [firstWorks, hn.dedup, List.filter_eq_self]
  simpa using h

/-- Settles O39: the works asked for first, those left for later and the rest part the works of the boundary. -/
theorem boundaryTakesItsWorks : Obligations.BoundaryTakesItsWorks := by
  intro s a rest n now left hr hrest hn hf hm hnow hleft
  have finish : s.finishDue = rest := hrest.symm
  have count : s.finishDue.blockCount + 1 = n := by rw [finish, hn]; rfl
  have first := firstWorks_of_nodup hf hm
  have nodup : (worksOf n).Nodup := worksOf_nodup n
  refine ⟨?_, ?_, ?_, fun w => ?_⟩
  · rw [exec_blockBoundary a hr, State.boundary_eq, count, finish, hnow, hleft, worksNow, worksLater, first]
    simp only [List.contains_eq_mem, decide_not]
  · rw [hn, hrest, State.takeWorks_reference]
  · subst hnow hleft
    refine List.nodup_append.2 ⟨List.nodup_append.2 ⟨hf, nodup.filter _, ?_⟩, nodup.filter _, ?_⟩
    · rintro w hw _ hw' rfl
      simp [hw] at hw'
    · rintro w hw _ hw' rfl
      simp only [List.mem_append, List.mem_filter, Bool.and_eq_true, decide_eq_true_eq] at hw hw'
      rcases hw with hw | hw
      · exact hw'.2.1 hw
      · exact hw.2.2 hw'.2.2
  · rw [← mem_worksOf]
    subst hnow hleft
    simp only [List.mem_append, List.mem_filter, Bool.and_eq_true, decide_eq_true_eq]
    have := hm w
    tauto

/-! ### Where nothing expires -/

/-- R8: what a HOLDOVER count does where the loss time is not reached. -/
theorem State.holdoverCount_of_before {s : State} {v : Fin 24} (hs : (s.venue v).state = .holdover)
    (since : (s.venue v).holdoverSince ≠ some s.blockCount)
    (before : (s.venue v).holdoverElapsed + 1 < 1000 * (s.venue v).settings.lossTime) :
    s.holdoverCount v = s.setVenue v { s.venue v with holdoverElapsed := (s.venue v).holdoverElapsed + 1 } := by
  have counts : s.holdoverCounts v = true := by simp [State.holdoverCounts, hs, since]
  have expires : s.lossExpires v = false := by simp [State.lossExpires, counts, before]
  simp only [State.holdoverCount, expires, counts]
  rfl

theorem State.holdoverCount_of_still {s : State} {v : Fin 24}
    (h : (s.venue v).state ≠ .holdover ∨ (s.venue v).holdoverSince = some s.blockCount) : s.holdoverCount v = s := by
  have counts : s.holdoverCounts v = false := by
    rcases h with h | h <;> simp [State.holdoverCounts, h]
  simp [State.holdoverCount, State.lossExpires, counts]

/-- R14: an announced list that does not expire ages. -/
theorem State.announceAge_of_before {s : State} {v : Fin 24} {a : Nat} (ho : (s.venue v).state ≠ .free)
    (age : (s.venue v).announceAge = some a) (before : a < 4999) :
    s.announceAge v = s.setVenue v { s.venue v with announceAge := some (a + 1) } := by
  have expires : s.announceExpires v = false := by
    simp [State.announceExpires, age, Config.announceLife, before]
  simp only [State.announceAge, expires, (Venue.isOpen_iff _).2 ho, State.modVenue_eq, age]
  rfl

theorem State.announceAge_of_still {s : State} {v : Fin 24}
    (h : (s.venue v).state = .free ∨ (s.venue v).announceAge = none) : s.announceAge v = s := by
  rcases h with h | h
  · simp [State.announceAge, State.announceExpires, Venue.isOpen, h]
  · have expires : s.announceExpires v = false := by simp [State.announceExpires, h]
    have same : s.modVenue v (fun ve => { ve with announceAge := ve.announceAge.map fun a => a + 1 }) = s := by
      have self : { s.venue v with announceAge := (s.venue v).announceAge.map fun a => a + 1 } = s.venue v := by
        cases hv : s.venue v
        rw [hv] at h
        cases h
        rfl
      rw [State.modVenue_eq, self, State.setVenue_self]
    simp only [State.announceAge, expires, same, ite_self, Bool.false_eq_true, if_false]

theorem State.holdoverCountdown_of_before {s : State} {c : Fin 128} (hs : (s.circuit c).state = .concealing)
    (h : 2 ≤ (s.circuit c).hold) :
    s.holdoverCountdown c = s.setCircuit c { s.circuit c with hold := (s.circuit c).hold - 1 } := by
  have terminates : s.terminates c = false := by
    simp only [State.terminates, Bool.and_eq_false_iff, decide_eq_false_iff_not]
    exact .inr (by omega)
  rw [State.holdoverCountdown, terminates, if_neg Bool.false_ne_true, if_pos hs]
  rfl

theorem State.holdoverCountdown_of_ne {s : State} {c : Fin 128} (hs : (s.circuit c).state ≠ .concealing) :
    s.holdoverCountdown c = s := by
  simp [State.holdoverCountdown, State.terminates, hs]

/-- R53: a path that is not UP, or was heard within its timeout, stays. -/
theorem State.pathTimeout_of_heard {s : State} {v : Fin 24} {q : PathId}
    (h : (s.venue v).state = .free ∨ ((s.venue v).path q).state ≠ .up ∨ ((s.venue v).path q).lastArrival = none ∨
      ∃ l, ((s.venue v).path q).lastArrival = some l ∧
        (s.reference.blockCount - l).toNat < (s.venue v).settings.pathTimeout) : s.pathTimeout v q = s := by
  refine if_neg ?_
  simp only [State.pathSilent, Path.silent, Venue.isOpen, State.blockCount]
  rcases h with h | h | h | ⟨l, h, hl⟩
  · simp [h]
  · simp [h]
  · simp [h]
  · have heard : ¬ (s.venue v).settings.pathTimeout ≤ (s.reference.blockCount - l).toNat := Nat.not_le.2 hl
    simp only [h, heard, decide_false, Bool.and_false, Bool.false_eq_true, not_false_eq_true]

theorem State.venueStep_of_unseated {s : State} {v : Fin 24} (h : (s.venue v).state = .free ∨ (s.venue v).state = .waiting) :
    s.venueStep v = s := by
  refine if_neg ?_
  rcases h with h | h <;> simp [Venue.seated, h]

/-- Settles O40, work by work. -/
theorem worksWhereNothingExpires : Obligations.WorksWhereNothingExpires := by
  intro s ws v c q hp
  refine ⟨fun hd => ⟨fun hs hn hb => ?_, fun h => ?_⟩, fun hd => ⟨fun a ho ha hb => ?_, fun h => ?_⟩,
    fun hd => ⟨fun hs hh => ?_, fun hs => ?_⟩, fun hd h => ?_, fun hd h => ?_, fun hd h => ?_⟩ <;>
    rw [step_of_due hp hd] <;> refine congrArg Host.Outcome.next ?_
  · exact State.holdoverCount_of_before (s := { s with due := ws }) hs hn hb
  · exact State.holdoverCount_of_still (s := { s with due := ws }) h
  · exact State.announceAge_of_before (s := { s with due := ws }) ho ha hb
  · exact State.announceAge_of_still (s := { s with due := ws }) h
  · exact State.holdoverCountdown_of_before (s := { s with due := ws }) hs hh
  · exact State.holdoverCountdown_of_ne (s := { s with due := ws }) hs
  · exact State.pathTimeout_of_heard (s := { s with due := ws }) h
  · exact State.venueStep_of_unseated (s := { s with due := ws }) h
  · exact State.requestPass_of_idle (s := { s with due := ws }) (h.imp id .inr)

end Sys2Proof.Machine
end

section
/-! PROOFS. Every request is answered by one response (R161, R164). -/

namespace Sys2Proof.Machine

/-! ### A rule never refuses with NONE -/

/-- A refusal carries a result of its own: NONE is what RESPONSE answers without a response (R162). -/
def Answer.Proper : Answer → Prop
  | .refuse r => r ≠ .none
  | .ok _ _ _ => True

theorem Answer.Proper.ok {f : Flags} {b : List Byte} {t : State} : (Answer.ok f b t).Proper := trivial

theorem Answer.Proper.refuseIf {bad : Bool} {r : Result} {go : Answer} (hr : r ≠ .none) (h : go.Proper) :
    (Machine.refuseIf bad r go).Proper := by
  cases bad
  · exact h
  · exact hr

theorem Answer.Proper.orBadReference {α : Type} {found : Option α} {go : α → Answer} (h : ∀ a, (go a).Proper) :
    (Machine.orBadReference found go).Proper := by
  cases found with
  | none => exact (by decide : Result.badReference ≠ .none)
  | some a => exact h a

/-- The command runs as a request with this transfer and code, under a rule that refuses with results of its own. -/
def Answers (x : Transfer) (code : Nat) (i : Instr) : Prop :=
  ∀ s, ∃ handler : State → Answer, runRequest i s = request x (BitVec.ofNat 8 code) handler s ∧ (handler s).Proper

theorem Answers.of {x : Transfer} {code : Nat} {i : Instr} (rule : State → Answer)
    (run : ∀ s, runRequest i s = request x (BitVec.ofNat 8 code) rule s) (proper : ∀ s, (rule s).Proper) :
    Answers x code i := fun s => ⟨rule, run s, proper s⟩

theorem venueOpen_proper (a : VenueOpenArgs) (s : State) : (venueOpen a s).Proper := by
  refine .refuseIf (by decide) (.refuseIf (by decide) ?_)
  split
  · exact (by decide : Result.noCapacity ≠ .none)
  · trivial

theorem circuitOpen_proper (a : CircuitOpenArgs) (s : State) : (circuitOpen a s).Proper := by
  refine .orBadReference fun v => ?_
  dsimp only
  split
  · exact (by decide : Result.notAnnounced ≠ .none)
  · refine .refuseIf (by decide) (.refuseIf (by decide) (.refuseIf (by decide) ?_))
    split
    · exact (by decide : Result.noCapacity ≠ .none)
    · exact .refuseIf (by decide) trivial

theorem circuitRetire_proper (ref : CircuitRef) (option : Nat) (s : State) : (circuitRetire ref option s).Proper := by
  refine .orBadReference fun c => ?_
  split
  · exact (by decide : Result.badValue ≠ .none)
  · trivial
  · refine .refuseIf (by decide) ?_
    split <;> trivial

theorem Answer.Proper.badValue : (Answer.refuse .badValue).Proper := (by decide : Result.badValue ≠ .none)

theorem slotCommand_proper (slot : Nat) (arg : SourceArg) (s : State) (go : Fin 128 → Option SlotSource → Answer)
    (h : ∀ i src, (go i src).Proper) : (slotCommand slot arg s go).Proper :=
  .orBadReference fun i => .orBadReference fun src => .refuseIf (by decide) (.refuseIf (by decide) (h i src))

/-! ### What a body reader yields -/

/-- Whatever the reader reads has the property. -/
def Yields {α : Type} (P : α → Prop) (r : Reader α) : Prop := ∀ bs a rest, r bs = some (a, rest) → P a

theorem Yields.pure {α : Type} {P : α → Prop} {a : α} (h : P a) : Yields P (Reader.pure a) := by
  intro bs b rest e
  cases e
  exact h

theorem Yields.bind {α β : Type} {P : β → Prop} {r : Reader α} {f : α → Reader β} (h : ∀ a, Yields P (f a)) :
    Yields P (Reader.bind r f) := by
  intro bs b rest e
  unfold Reader.bind at e
  split at e
  · cases e
  · exact h _ _ _ _ e

theorem Yields.map {α β : Type} {P : β → Prop} {r : Reader α} {f : α → β} (h : ∀ a, P (f a)) :
    Yields P (readMap f r) := .bind fun a => .pure (h a)

/-- The command a body is read as runs under the code it was sent with. -/
theorem bodyReader_yields {x : Transfer} {code : Nat} {r : Reader Instr} (h : bodyReader x code = some r) :
    Yields (Answers x code) r := by
  unfold bodyReader at h
  split at h
  all_goals cases h
  · exact .pure <| .of (answer identity) (fun _ => rfl) fun _ => .ok
  · exact .pure <| .of (fun s => .ok {} (blockBytes s.blockCount) s.deviceClear) (fun _ => rfl) fun _ => .ok
  · exact .map fun _ => .of _ (fun _ => rfl) fun s => by exact venueOpen_proper _ s
  · exact .map fun _ => .of _ (fun _ => rfl) fun s => by exact .orBadReference fun _ => .refuseIf (by decide) (.refuseIf (by decide) .ok)
  · refine .bind fun v => .map fun o => ?_
    split
    · exact .of _ (fun _ => rfl) fun s => by exact .orBadReference fun _ => .ok
    · exact .of _ (fun _ => rfl) fun s => by exact .orBadReference fun _ => .refuseIf (by decide) (.refuseIf (by decide) .ok)
  · exact .map fun _ => .of _ (fun _ => rfl) fun s => by exact .orBadReference fun _ => .ok
  · exact .map fun _ => .of _ (fun _ => rfl) fun s => by exact circuitOpen_proper _ s
  · exact .bind fun _ => .map fun _ => .of _ (fun _ => rfl) fun s => by exact .orBadReference fun _ => .refuseIf (by decide) (.refuseIf (by decide) .ok)
  · exact .bind fun _ => .map fun _ => .of _ (fun _ => rfl) fun s => by exact .orBadReference fun _ => .refuseIf (by decide) .ok
  · exact .map fun _ => .of _ (fun _ => rfl) fun s => by exact .orBadReference fun _ => .refuseIf (by decide) .ok
  · exact .bind fun _ => .map fun _ => .of _ (fun _ => rfl) fun s => by exact circuitRetire_proper _ _ s
  · exact .map fun _ => .of _ (fun _ => rfl) fun s => by exact .orBadReference fun _ => .ok
  · exact .bind fun _ => .map fun _ => .of _ (fun _ => rfl) fun s => by exact .orBadReference fun _ => (by split; exacts [.badValue, .ok])
  · exact .map fun _ => .of _ (fun _ => rfl) fun s => by exact .orBadReference fun _ => .refuseIf (by decide) (.refuseIf (by decide) (.refuseIf (by decide) .ok))
  · exact .bind fun _ => .map fun _ => .of _ (fun _ => rfl) fun s => by exact .orBadReference fun _ => (by split; exacts [.badValue, .ok])
  · exact .map fun _ => .of _ (fun _ => rfl) fun s => by exact .orBadReference fun _ => .ok
  · exact .pure <| .of (fun s => answer (referenceReport s) s) (fun _ => rfl) fun _ => .ok
  · refine .map fun a => ?_
    split <;> exact .of _ (fun _ => rfl) fun s => by exact .orBadReference fun _ => .refuseIf (by decide) (.refuseIf (by decide) (.refuseIf (by decide) .ok))
  · exact .map fun _ => .of _ (fun _ => rfl) fun s => by exact .orBadReference fun _ => .ok
  · exact .map fun _ => .of _ (fun _ => rfl) fun s => by exact .orBadReference fun _ => .ok
  · exact .bind fun _ => .map fun _ => .of _ (fun _ => rfl) fun s => by exact slotCommand_proper _ _ s _ fun _ _ => .ok
  · exact .bind fun _ => .map fun _ => .of _ (fun _ => rfl) fun s => by exact slotCommand_proper _ _ s _ fun _ _ => .ok
  · exact .map fun _ => .of _ (fun _ => rfl) fun s => by exact .orBadReference fun _ => .ok
  · exact .map fun _ => .of _ (fun _ => rfl) fun s => by exact .orBadReference fun _ => .ok
  · exact .bind fun _ => .bind fun _ => .map fun _ => .of _ (fun _ => rfl) fun s => by exact .orBadReference fun _ => (by split; exacts [.badValue, .ok])
  · exact .bind fun _ => .bind fun _ => .map fun _ => .of _ (fun _ => rfl) fun s => by exact .orBadReference fun _ => .refuseIf (by decide) .ok
  · exact .bind fun _ => .map fun _ => .of _ (fun _ => rfl) fun s => by exact .orBadReference fun _ => .ok
  · exact .map fun _ => .of _ (fun _ => rfl) fun s => by exact .orBadReference fun _ => .ok
  · exact .bind fun _ => .bind fun _ => .map fun _ => .of _ (fun _ => rfl) fun s => by exact .orBadReference fun _ => (by split; exacts [.badValue, .ok])
  · exact .map fun _ => .of _ (fun _ => rfl) fun s => by exact .orBadReference fun _ => .refuseIf (by decide) (.refuseIf (by decide) .ok)
  · exact .map fun _ => .of _ (fun _ => rfl) fun s => by exact .orBadReference fun _ => .ok
  · exact .map fun _ => .of _ (fun _ => rfl) fun s => by split; exacts [.badValue, .ok]
  · refine .map fun a => .of _ (fun _ => rfl) fun s => ?_
    split
    · exact .refuseIf (by decide) (.refuseIf (by decide) .ok)
    · exact .orBadReference fun _ => .refuseIf (by decide) .ok
  · exact .map fun _ => .of _ (fun _ => rfl) fun s => by split; exacts [.badValue, .ok]
  · exact .bind fun _ => .map fun _ => .of _ (fun _ => rfl) fun s => by exact .orBadReference fun _ => (by split; exacts [.badValue, .ok])

/-! ### The raw request -/

theorem exec_unknownCommandRequest (x : Transfer) (code : Byte) (len : BitVec 16) (body : List Byte) (s : State) :
    exec (.unknownCommandRequest x code len body) s = rawRequest x code len body s := rfl

/-- Every message is taken as a request of its own transfer and code. -/
theorem rawRequest_eq_request (x : Transfer) (code : Byte) (len : BitVec 16) (body : List Byte) (s : State) :
    ∃ handler : State → Answer, rawRequest x code len body s = request x code handler s ∧ (handler s).Proper := by
  unfold rawRequest
  split
  · exact ⟨_, rfl, (by decide : Result.badLength ≠ .none)⟩
  · exact ⟨_, rfl, (by decide : Result.badCommand ≠ .none)⟩
  · next i hi =>
    unfold readRequest at hi
    split at hi
    · cases hi
    · split at hi
      · cases hi
      · next r hr =>
        split at hi
        · next j hj =>
          cases hi
          obtain ⟨handler, run, proper⟩ := bodyReader_yields hr _ _ _ hj s
          exact ⟨handler, by rw [run, BitVec.ofNat_toNat, BitVec.setWidth_eq], proper⟩
        · cases hi

theorem bodyReader_eq_none (x : Transfer) {code : Nat} (h : code ∉ [0x01, 0x02, 0x10, 0x11, 0x12, 0x13, 0x20, 0x21, 0x22,
    0x23, 0x24, 0x25, 0x26, 0x30, 0x31, 0x38, 0x40, 0x41, 0x42, 0x48, 0x50, 0x51, 0x52, 0x53, 0x54, 0x60, 0x61, 0x62, 0x63,
    0x64, 0x65, 0x66, 0x70, 0x71, 0x72]) : bodyReader x code = none := by
  unfold bodyReader
  split
  case h_36 => rfl
  all_goals exact absurd h (by decide)

theorem readRequest_of_length (x : Transfer) (code : Byte) {len : BitVec 16} {body : List Byte}
    (h : 252 < body.length ∨ len.toNat ≠ body.length) : readRequest x code len body = .badLength :=
  if_pos (by simpa using h)

/-- Settles O2: a message is a request of its code, whose rule refuses or runs. -/
theorem everyRequestHoldsOneResponse : Obligations.EveryRequestHoldsOneResponse := by
  refine ⟨fun x code len body s h => ?_, fun x code len body s h => ⟨fun hl => ?_, fun hl hn hc => ?_⟩⟩
  · obtain ⟨handler, run, proper⟩ := rawRequest_eq_request x code len body s
    rw [exec_unknownCommandRequest, run]
    cases hh : handler s with
    | refuse r =>
      rw [hh] at proper
      exact ⟨_, r, {}, [], request_refuse x code _ s h hh, rfl, proper, fun _ => ⟨rfl, rfl, rfl⟩⟩
    | ok f b t => exact ⟨_, .ok, f, b, request_ok x code _ s h hh, rfl, by decide, fun hr => absurd rfl hr⟩
  · rw [exec_unknownCommandRequest, rawRequest, readRequest_of_length x code hl]
    exact request_refuse x code _ s h rfl
  · have read : readRequest x code len body = .badCommand := by
      rw [readRequest, if_neg (by simp [hn]; omega), bodyReader_eq_none x hc]
    rw [exec_unknownCommandRequest, rawRequest, read]
    exact request_refuse x code _ s h rfl

end Sys2Proof.Machine
end

section
/-! PROOFS. A well-formed request, written as bytes, reads back as itself (R169). -/

namespace Sys2Proof.Machine

/-! ### Numbers and presence bits as bytes -/

theorem be_length (k n : Nat) : (be k n).length = k := by
  induction k with
  | zero => rfl
  | succ k ih => exact congrArg (· + 1) ih

theorem foldl_be (k n m : Nat) :
    (be k n).foldl (fun n b => 256 * n + b.toNat) m = 256 ^ k * m + n % 256 ^ k := by
  induction k generalizing m with
  | zero => simp [be, Nat.mod_one]
  | succ k ih =>
    have digit : n % 256 ^ (k + 1) = n % 256 ^ k + 256 ^ k * (n / 256 ^ k % 256) := Nat.mod_mul
    rw [be, List.foldl_cons, ih, digit, BitVec.toNat_ofNat, pow_succ]
    norm_num
    ring

theorem ofBe_be {k n : Nat} (h : n < 256 ^ k) : ofBe (be k n) = n := by
  rw [ofBe, foldl_be, Nat.mul_zero, Nat.zero_add, Nat.mod_eq_of_lt h]

/-- A value that fits `k` bytes is again what its two's complement spells. -/
theorem signedOf_emod {k : Nat} {i : Int} (hk : 0 < k) (h : fitsSigned k i = true) :
    (i % (256 : Int) ^ k).toNat < 256 ^ k ∧ signedOf k (i % (256 : Int) ^ k).toNat = i := by
  rw [fitsSigned, Bool.and_eq_true, decide_eq_true_eq, decide_eq_true_eq] at h
  obtain ⟨m, e⟩ : ∃ m : Nat, 256 ^ k = 2 * m ∧ (2 : Int) ^ (8 * k - 1) = m := by
    refine ⟨2 ^ (8 * k - 1), ?_, by push_cast; rfl⟩
    rw [← pow_succ', Nat.sub_add_cancel (by omega), show 256 = 2 ^ 8 from rfl, ← pow_mul]
  have ei : (256 : Int) ^ k = 2 * m := by exact_mod_cast e.1
  rw [signedOf, e.1, ei]
  rw [e.2] at h
  rcases le_or_gt 0 i with hi | hi
  · rw [Int.emod_eq_of_lt hi (by omega)]
    exact ⟨by omega, by rw [if_pos (by omega)]; omega⟩
  · rw [← Int.add_emod_right, Int.emod_eq_of_lt (by omega) (by omega)]
    exact ⟨by omega, by rw [if_neg (by omega)]; omega⟩

theorem presenceBits_testBit (bs : List Bool) (i : Nat) : (presenceBits bs).testBit i = bs.getD i false := by
  induction bs generalizing i with
  | nil => simp [presenceBits]
  | cons b bs ih =>
    have odd : ((if b then 1 else 0) + 2 * presenceBits bs).testBit i
        = if i = 0 then b else (presenceBits bs).testBit (i - 1) := by
      cases i with
      | zero => cases b <;> simp [Nat.testBit_zero]
      | succ i => cases b <;> simp [Nat.testBit_succ]; congr 1; omega
    rw [presenceBits, odd]
    cases i with
    | zero => rfl
    | succ i => exact ih i

theorem presenceBits_lt (bs : List Bool) : presenceBits bs < 2 ^ bs.length := by
  induction bs with
  | nil => decide
  | cons b bs ih =>
    rw [presenceBits, List.length_cons, pow_succ]
    cases b <;> simp <;> omega

theorem presenceBits_append (bs cs : List Bool) :
    presenceBits (bs ++ cs) = presenceBits bs + 2 ^ bs.length * presenceBits cs := by
  induction bs with
  | nil => simp [presenceBits]
  | cons b bs ih =>
    rw [List.cons_append, presenceBits, ih, presenceBits, List.length_cons, pow_succ]
    ring

/-! ### Reading back what was written -/

/-- The reader takes the bytes, of which there are at most `n`, from the front of any string and reads the value. -/
def Reads {α : Type} (n : Nat) (r : Reader α) (bs : List Byte) (a : α) : Prop :=
  bs.length ≤ n ∧ ∀ rest, r (bs ++ rest) = some (a, rest)

namespace Reads

variable {α β : Type} {m n : Nat} {r : Reader α} {bs cs : List Byte} {a : α}

theorem pure : Reads 0 (Reader.pure a) [] a := ⟨le_rfl, fun _ => rfl⟩

theorem cast {b : α} (h : Reads n r bs a) (e : a = b) : Reads n r bs b := e ▸ h

theorem bind {f : α → Reader β} {b : β} (h : Reads m r bs a) (k : Reads n (f a) cs b) :
    Reads (m + n) (r.bind f) (bs ++ cs) b := by
  refine ⟨by rw [List.length_append]; exact Nat.add_le_add h.1 k.1, fun rest => ?_⟩
  rw [Reader.bind, List.append_assoc, h.2]
  exact k.2 rest

theorem map {g : α → β} (h : Reads n r bs a) : Reads n (readMap g r) bs (g a) :=
  ⟨h.1, fun rest => by rw [readMap, Reader.bind, h.2]; rfl⟩

theorem nat {k v : Nat} (h : fitsBytes k v = true) : Reads k (readNat k) (be k v) v := by
  refine ⟨(be_length k v).le, fun rest => ?_⟩
  have long : ¬ (be k v ++ rest).length < k := by rw [List.length_append, be_length]; omega
  rw [readNat, if_neg long, List.take_left' (be_length k v), List.drop_left' (be_length k v),
    ofBe_be (of_decide_eq_true h)]

theorem signed {k : Nat} {i : Int} (hk : 0 < k) (h : fitsSigned k i = true) :
    Reads k (readSigned k) (beSigned k i) i := by
  obtain ⟨fits, back⟩ := signedOf_emod hk h
  have := (nat (decide_eq_true fits)).map (g := signedOf k)
  rwa [back] at this

theorem bits {k : Nat} (x : BitVec (8 * k)) : Reads k (readBits k) (be k x.toNat) x := by
  have fits : x.toNat < 256 ^ k := by rw [show 256 = 2 ^ 8 from rfl, ← pow_mul]; exact x.isLt
  have := (nat (decide_eq_true fits)).map (g := BitVec.ofNat (8 * k))
  rwa [BitVec.ofNat_toNat, BitVec.setWidth_eq] at this

/-- Whatever fits a byte is read as it, where the byte is no 255. -/
theorem someByte {v : Nat} (h : decide (v < 255) = true) : Reads 1 readNoneByte (be 1 v) (some v) := by
  have lt := of_decide_eq_true h
  have := (nat (k := 1) (decide_eq_true (lt.trans (by decide)))).map (g := fun n => if n = 255 then none else some n)
  rwa [if_neg lt.ne] at this

theorem noneByte {o : Option Nat} (h : fitsNoneByte o = true) : Reads 1 readNoneByte (writeNoneByte o) o := by
  cases o with
  | none => exact (nat (k := 1) (v := 255) rfl).map (g := fun n => if n = 255 then none else some n)
  | some v => exact someByte h

theorem given {p i : Nat} {o : Option α} {check : α → Bool} {w : α → List Byte} (hp : p.testBit i = o.isSome)
    (h : whenGiven check o = true) (hr : ∀ a, check a = true → Reads n r (w a) a) :
    Reads n (readGiven p i r) (writeGiven w o) o := by
  rw [readGiven, hp]
  cases o with
  | none => exact ⟨Nat.zero_le _, fun _ => rfl⟩
  | some a => exact (hr a h).map

/-- An optional field whose every value fits. -/
theorem givenAny {p i : Nat} {o : Option α} {w : α → List Byte} (hp : p.testBit i = o.isSome)
    (hr : ∀ a, Reads n r (w a) a) : Reads n (readGiven p i r) (writeGiven w o) o :=
  given (check := fun _ => true) hp (by cases o <;> rfl) fun a _ => hr a

/-- VENUE_OPEN leaves path B out, or gives its port. -/
theorem givenPort {p i : Nat} {o : Option Nat} (hp : p.testBit i = o.isSome) (h : fitsNoneByte o = true) :
    Reads 1 (readGiven p i readNoneByte) (writeGiven (be 1) o) (o.map some) := by
  rw [readGiven, hp]
  cases o with
  | none => exact ⟨Nat.zero_le _, fun _ => rfl⟩
  | some v => exact (someByte h).map

theorem presence {k : Nat} {l : List Bool} (hl : l.length = k) (hk : k ≤ 8) :
    Reads 1 (readPresence k) (be 1 (presenceBits l)) (presenceBits l) := by
  have lt : presenceBits l < 2 ^ k := hl ▸ presenceBits_lt l
  have fits : presenceBits l < 256 ^ 1 := lt.trans_le (Nat.pow_le_pow_right (by decide) hk)
  refine ⟨(be_length 1 _).le, fun rest => ?_⟩
  rw [readPresence, (nat (decide_eq_true fits)).2]
  exact if_pos lt

theorem presenceNine {l : List Bool} {b : Bool} (hl : l.length = 8) :
    Reads (1 + 1) readPresenceNine (be 1 (presenceBits l) ++ be 1 (presenceBits [b])) (presenceBits (l ++ [b])) := by
  have fits : presenceBits l < 256 ^ 1 := (presenceBits_lt l).trans_le (by rw [hl]; decide)
  rw [presenceBits_append, hl]
  exact (nat (decide_eq_true fits)).bind (presence (k := 1) (l := [b]) rfl (by decide)).map

theorem ref {c : CircuitRef} (h : c.wellFormed = true) : Reads (1 + (1 + 1)) readRef (writeRef c) c := by
  rw [CircuitRef.wellFormed.eq_def] at h
  cases c <;> simp only [Bool.and_eq_true, decide_eq_true_eq] at h
  case absolute i => exact (nat (k := 1) rfl).bind ((nat h).bind (nat (k := 1) rfl).map)
  case venueRelative v o => exact (nat (k := 1) rfl).bind ((nat h.1).bind (nat h.2).map)
  case keyed v t => exact (nat (k := 1) rfl).bind ((nat h.1).bind (nat h.2).map)
  case badForm f a b =>
    obtain ⟨⟨⟨hf, high⟩, ha⟩, hb⟩ := h
    refine .cast (((nat hf).bind ((nat ha).bind (nat hb).map))) ?_
    rw [if_neg (by omega), if_neg (by omega), if_neg (by omega)]

theorem source {c : SourceArg} (h : c.wellFormed = true) :
    Reads (1 + ((1 + (1 + 1)) + 1)) readSource (writeSource c) c := by
  rw [SourceArg.wellFormed.eq_def] at h
  cases c <;> simp only [Bool.and_eq_true, decide_eq_true_eq] at h
  case silence => exact (nat (k := 1) rfl).bind ((ref (c := .absolute 0) rfl).bind (nat (k := 1) rfl).map)
  case channel r ch => exact (nat (k := 1) rfl).bind ((ref h.1).bind (nat h.2).map)
  case badFlag f r ch =>
    obtain ⟨⟨⟨hf, high⟩, hr⟩, hc⟩ := h
    refine .cast ((nat hf).bind ((ref hr).bind (nat hc).map)) ?_
    rw [if_neg (by omega), if_neg (by omega)]

theorem domain {c : DomainArg} (h : c.wellFormed = true) : Reads (1 + 2) readDomain (writeDomain c) c := by
  rw [DomainArg.wellFormed.eq_def] at h
  cases c <;> simp only [Bool.and_eq_true, decide_eq_true_eq] at h
  case off => exact (nat (k := 1) rfl).bind (nat (k := 2) rfl).map
  case value d => exact (nat (k := 1) rfl).bind (nat h).map
  case badFlag f =>
    refine .cast ((nat h.1).bind (nat (k := 2) rfl).map) ?_
    rw [if_neg (by omega), if_neg (by omega)]

theorem weaken {k : Nat} (h : Reads n r bs a) (le : n ≤ k) : Reads k r bs a := ⟨h.1.trans le, h.2⟩

theorem openForm {c : OpenForm} (h : c.wellFormed = true) :
    Reads (1 + (1 + 1)) readOpenForm (writeOpenForm c) c := by
  rw [OpenForm.wellFormed.eq_def] at h
  cases c <;> simp only [Bool.and_eq_true, decide_eq_true_eq] at h
  case direct k c => exact (nat (k := 1) rfl).bind ((nat h.1).bind (nat h.2).map)
  case fromAnnouncement => exact (nat (k := 1) rfl).bind (pure.weaken (Nat.zero_le _))
  case badForm f =>
    have := (nat h.1).bind (f := fun f => if f = 0 then (readNat 1).bind fun k => (readNat 1).bind fun c =>
      Reader.pure (OpenForm.direct k c) else if f = 1 then Reader.pure .fromAnnouncement else Reader.pure (.badForm f))
      (n := 2) (cs := []) (b := .badForm f) (by
        rw [if_neg (by omega), if_neg (by omega)]
        exact pure.weaken (Nat.zero_le _))
    rwa [List.append_nil] at this

/-! ### The bodies -/

theorem venueOpen {a : VenueOpenArgs} (h : a.wellFormed = true) :
    Reads (1 + (2 + (1 + (1 + (2 + (1 + (1 + (1 + (2 + (2 + 4)))))))))) readVenueOpen (writeVenueOpen a) a := by
  simp only [VenueOpenArgs.wellFormed, Bool.and_eq_true] at h
  obtain ⟨⟨⟨⟨⟨⟨⟨⟨hA, hB⟩, ht⟩, hb⟩, ha⟩, hn⟩, hp⟩, hl⟩, hr⟩ := h
  have joined : (⟨a.key, a.portA, (a.portB.map some).join, a.target, a.budget, a.allowance, a.attempts, a.pathTimeout,
      a.lossTime, a.rate⟩ : VenueOpenArgs) = a := by
    cases a with | mk key portA portB => cases portB <;> rfl
  simp only [writeVenueOpen, List.append_assoc]
  refine .cast ?_ joined
  refine .bind (presence rfl (by decide)) ?_
  refine .bind (bits (k := 2) a.key) ?_
  refine .bind (noneByte hA) ?_
  refine .bind (givenPort (presenceBits_testBit _ 0) hB) ?_
  refine .bind (given (presenceBits_testBit _ 1) ht fun _ => nat) ?_
  refine .bind (given (presenceBits_testBit _ 2) hb fun _ => nat) ?_
  refine .bind (given (presenceBits_testBit _ 3) ha fun _ => nat) ?_
  refine .bind (given (presenceBits_testBit _ 4) hn fun _ => nat) ?_
  refine .bind (given (presenceBits_testBit _ 5) hp fun _ => nat) ?_
  refine .bind (given (presenceBits_testBit _ 6) hl fun _ => nat) ?_
  exact .map (given (presenceBits_testBit _ 7) hr fun _ => signed (by decide))

theorem venueSet {v : Nat} {a : VenueSetArgs} (hv : fitsBytes 1 v = true) (h : a.wellFormed = true) :
    Reads (1 + 1 + (1 + (2 + (1 + (1 + (2 + (1 + (1 + (1 + (2 + 2)))))))))) readVenueSet (writeVenueSet v a) (v, a) := by
  simp only [VenueSetArgs.wellFormed, Bool.and_eq_true] at h
  obtain ⟨⟨⟨⟨⟨⟨⟨hA, hB⟩, ht⟩, hb⟩, ha⟩, hn⟩, hp⟩, hl⟩ := h
  simp only [writeVenueSet, List.append_assoc]
  rw [← List.append_assoc]
  refine .bind (presenceNine rfl) ?_
  refine .bind (nat hv) ?_
  refine .bind (givenAny (presenceBits_testBit _ 0) bits) ?_
  refine .bind (given (presenceBits_testBit _ 1) hA fun _ => noneByte) ?_
  refine .bind (given (presenceBits_testBit _ 2) hB fun _ => noneByte) ?_
  refine .bind (given (presenceBits_testBit _ 3) ht fun _ => nat) ?_
  refine .bind (given (presenceBits_testBit _ 4) hb fun _ => nat) ?_
  refine .bind (given (presenceBits_testBit _ 5) ha fun _ => nat) ?_
  refine .bind (given (presenceBits_testBit _ 6) hn fun _ => nat) ?_
  refine .bind (given (presenceBits_testBit _ 7) hp fun _ => nat) ?_
  exact .map (given (presenceBits_testBit _ 8) hl fun _ => nat)

theorem circuitOpen {a : CircuitOpenArgs} (h : a.wellFormed = true) :
    Reads (1 + (1 + (1 + (2 + (1 + (1 + 1) + (2 + (2 + 1))))))) readCircuitOpen (writeCircuitOpen a) a := by
  simp only [CircuitOpenArgs.wellFormed, Bool.and_eq_true] at h
  obtain ⟨⟨⟨⟨⟨⟨hv, ht⟩, hw⟩, hf⟩, hl⟩, hh⟩, ha⟩ := h
  simp only [writeCircuitOpen, List.append_assoc]
  refine .bind (presence rfl (by decide)) ?_
  refine .bind (nat hv) ?_
  refine .bind (nat ht) ?_
  refine .bind (nat hw) ?_
  refine .bind (openForm hf) ?_
  refine .bind (given (presenceBits_testBit _ 0) hl fun _ => nat) ?_
  refine .bind (given (presenceBits_testBit _ 1) hh fun _ => nat) ?_
  exact .map (given (presenceBits_testBit _ 2) ha fun _ => nat)

theorem circuitSet {a : CircuitSetArgs} (h : a.wellFormed = true) :
    Reads (1 + (2 + (2 + (1 + 1)))) readCircuitSet (writeCircuitSet a) a := by
  simp only [CircuitSetArgs.wellFormed, Bool.and_eq_true] at h
  obtain ⟨⟨⟨hl, hh⟩, ha⟩, hf⟩ := h
  simp only [writeCircuitSet, List.append_assoc]
  refine .bind (presence rfl (by decide)) ?_
  refine .bind (given (presenceBits_testBit _ 0) hl fun _ => nat) ?_
  refine .bind (given (presenceBits_testBit _ 1) hh fun _ => nat) ?_
  refine .bind (given (presenceBits_testBit _ 2) ha fun _ => nat) ?_
  exact .map (given (presenceBits_testBit _ 3) hf fun _ => nat)

theorem portSet {p : Nat} {a : PortSetArgs} (hp : fitsBytes 1 p = true) (h : a.wellFormed = true) :
    Reads (1 + (1 + (1 + (6 + (2 + (1 + (1 + 2))))))) readPortSet (writePortSet p a) (p, a) := by
  simp only [PortSetArgs.wellFormed, Bool.and_eq_true] at h
  obtain ⟨⟨he, ht⟩, hd⟩ := h
  simp only [writePortSet, List.append_assoc]
  refine .bind (presence rfl (by decide)) ?_
  refine .bind (nat hp) ?_
  refine .bind (given (presenceBits_testBit _ 0) he fun _ => nat) ?_
  refine .bind (givenAny (presenceBits_testBit _ 1) bits) ?_
  refine .bind (givenAny (presenceBits_testBit _ 2) bits) ?_
  refine .bind (given (presenceBits_testBit _ 3) ht fun _ => nat) ?_
  exact .map (given (presenceBits_testBit _ 4) hd fun _ => domain)

theorem rate {v : Nat} {m : Option Nat} {a : RateArgs} (hv : fitsBytes 1 v = true)
    (hm : whenGiven (fitsBytes 1) m = true) (h : a.wellFormed = true) :
    Reads (1 + (1 + (4 + (1 + (2 + (1 + 1)))))) readRate (writeRate v m a) (v, m, a) := by
  simp only [RateArgs.wellFormed, Bool.and_eq_true] at h
  obtain ⟨⟨⟨hr, hs⟩, ht⟩, hf⟩ := h
  simp only [writeRate, List.append_assoc]
  refine .bind (presence rfl (by decide)) ?_
  refine .bind (nat hv) ?_
  refine .bind (given (presenceBits_testBit _ 0) hr fun _ => signed (by decide)) ?_
  refine .bind (given (presenceBits_testBit _ 1) hm fun _ => nat) ?_
  refine .bind (given (presenceBits_testBit _ 2) hs fun _ => nat) ?_
  refine .bind (given (presenceBits_testBit _ 3) ht fun _ => nat) ?_
  exact .map (given (presenceBits_testBit _ 4) hf fun _ => nat)

theorem laneSet {v : Nat} {a : LaneSetArgs} (hv : fitsBytes 1 v = true) (h : a.wellFormed = true) :
    Reads (1 + (1 + (1 + (1 + 1)))) readLaneSet (writeLaneSet v a) (v, a) := by
  simp only [LaneSetArgs.wellFormed, Bool.and_eq_true] at h
  obtain ⟨⟨he, hc⟩, hd⟩ := h
  simp only [writeLaneSet, List.append_assoc]
  refine .bind (presence rfl (by decide)) ?_
  refine .bind (nat hv) ?_
  refine .bind (given (presenceBits_testBit _ 0) he fun _ => nat) ?_
  refine .bind (given (presenceBits_testBit _ 1) hc fun _ => noneByte) ?_
  exact .map (given (presenceBits_testBit _ 2) hd fun _ => nat)

theorem alarm {a : AlarmArgs} (h : a.wellFormed = true) :
    Reads (1 + (1 + (1 + (2 + (2 + 2))))) readAlarm (writeAlarm a) a := by
  simp only [AlarmArgs.wellFormed, Bool.and_eq_true] at h
  obtain ⟨hv, ht⟩ := h
  simp only [writeAlarm, List.append_assoc]
  refine .bind (presence rfl (by decide)) ?_
  refine .bind (givenAny (presenceBits_testBit _ 0) bits) ?_
  refine .bind (given (presenceBits_testBit _ 1) hv fun _ => nat) ?_
  refine .bind (givenAny (presenceBits_testBit _ 2) bits) ?_
  refine .bind (givenAny (presenceBits_testBit _ 3) bits) ?_
  exact .map (given (presenceBits_testBit _ 4) ht fun _ => nat)

end Reads

/-! ### Every command -/

/-- The body spells the command under its code, within the longest body (R161). -/
def Spells (x : Transfer) (code : Nat) (body : List Byte) (i : Instr) : Prop :=
  code < 256 ∧ ∃ r, bodyReader x code = some r ∧ Reads 252 r body i

theorem Spells.of {x : Transfer} {code n : Nat} {body : List Byte} {i : Instr} {r : Reader Instr}
    (h : Reads n r body i) (lt : code < 256) (named : bodyReader x code = some r) (le : n ≤ 252) :
    Spells x code body i := ⟨lt, r, named, h.weaken le⟩

theorem Spells.readRequest {x : Transfer} {code : Nat} {body : List Byte} {i : Instr} (h : Spells x code body i) :
    readRequest x (BitVec.ofNat 8 code) (BitVec.ofNat 16 body.length) body = .fits i := by
  obtain ⟨lt, r, named, short, reads⟩ := h
  have length : (BitVec.ofNat 16 body.length).toNat = body.length := Nat.mod_eq_of_lt (by omega)
  have read : r body = some (i, []) := by rw [← reads [], List.append_nil]
  rw [Sys2Proof.readRequest, if_neg (by simp [length]; omega), BitVec.toNat_ofNat, Nat.mod_eq_of_lt lt, named]
  simp only [read]

theorem runRequest_eq_exec {i : Instr} {x : Transfer} (h : i.transfer = some x) (s : State) :
    runRequest i s = exec i s := by
  cases i <;> cases h <;> rfl

open Reads in
theorem spells_of_wellFormed {i : Instr} {x : Transfer} {code : Nat} {body : List Byte} (wf : i.wellFormed = true)
    (hx : i.transfer = some x) (hw : writeRequest i = some (code, body)) : Spells x code body i := by
  cases i <;> cases hx <;> cases hw <;> simp only [Instr.wellFormed, Bool.and_eq_true, decide_eq_true_eq] at wf
  case identify => exact .of .pure (by decide) rfl (by decide)
  case deviceClear => exact .of .pure (by decide) rfl (by decide)
  case venueOpen a => exact .of (Reads.venueOpen wf).map (by decide) rfl (by decide)
  case venueSet v a => exact .of (Reads.venueSet wf.1 wf.2).map (by decide) rfl (by decide)
  case venueRetire v o =>
    refine .of ((nat wf.1.1).bind ((nat wf.1.2).map.cast ?_)) (by decide) rfl (by decide)
    rw [if_neg wf.2]
  case venueRetireForce v => exact .of ((nat wf).bind (nat (k := 1) rfl).map) (by decide) rfl (by decide)
  case venueQuery v => exact .of (nat wf).map (by decide) rfl (by decide)
  case circuitOpen a => exact .of (Reads.circuitOpen wf).map (by decide) rfl (by decide)
  case circuitSet a r => exact .of ((Reads.circuitSet wf.1).bind (ref wf.2).map) (by decide) rfl (by decide)
  case circuitTrim d r => exact .of ((signed (by decide) wf.1).bind (ref wf.2).map) (by decide) rfl (by decide)
  case circuitRearm r => exact .of (ref wf).map (by decide) rfl (by decide)
  case circuitRetire r o => exact .of ((ref wf.1).bind (nat wf.2).map) (by decide) rfl (by decide)
  case circuitFind r => exact .of (ref wf).map (by decide) rfl (by decide)
  case circuitQuery r c => exact .of ((ref wf.1).bind (nat wf.2).map) (by decide) rfl (by decide)
  case portSet p a => exact .of (Reads.portSet wf.1 wf.2).map (by decide) rfl (by decide)
  case portQuery p c => exact .of ((nat wf.1).bind (nat wf.2).map) (by decide) rfl (by decide)
  case windowQuery r => exact .of (ref wf).map (by decide) rfl (by decide)
  case referenceQuery => exact .of .pure (by decide) rfl (by decide)
  case venueRate v m a =>
    refine .of ((rate wf.1.1.1 wf.1.1.2 wf.2).map.cast ?_) (by decide) rfl (by decide)
    exact if_neg wf.1.2
  case venueRateStepped v a => exact .of (rate wf.1 rfl wf.2).map (by decide) rfl (by decide)
  case timebaseCapture v => exact .of (nat wf).map (by decide) rfl (by decide)
  case recoveryQuery v => exact .of (nat wf).map (by decide) rfl (by decide)
  case slotAssign n a => exact .of ((nat wf.1).bind (source wf.2).map) (by decide) rfl (by decide)
  case slotPunch n a => exact .of ((nat wf.1).bind (source wf.2).map) (by decide) rfl (by decide)
  case slotRelease n => exact .of (nat wf).map (by decide) rfl (by decide)
  case slotQuery n => exact .of (nat wf).map (by decide) rfl (by decide)
  case muteModify b m o =>
    rw [List.append_assoc]
    exact .of ((nat wf.1).bind ((bits (k := 4) m).bind (nat wf.2).map)) (by decide) rfl (by decide)
  case sourceSet n e =>
    rw [List.append_assoc]
    exact .of ((presence (k := 1) rfl (by decide)).bind ((nat wf.1).bind
      (given (presenceBits_testBit _ 0) wf.2 fun _ => nat).map)) (by decide) rfl (by decide)
  case sourceKey n d => exact .of ((nat wf.1).bind (nat wf.2).map) (by decide) rfl (by decide)
  case sourceUnkey n => exact .of (nat wf).map (by decide) rfl (by decide)
  case targetModify n m o =>
    rw [List.append_assoc]
    exact .of ((nat wf.1).bind ((bits (k := 3) m).bind (nat wf.2).map)) (by decide) rfl (by decide)
  case laneSet v a => exact .of (Reads.laneSet wf.1 wf.2).map (by decide) rfl (by decide)
  case laneQuery v => exact .of (nat wf).map (by decide) rfl (by decide)
  case arbiterMode m => exact .of (nat wf).map (by decide) rfl (by decide)
  case alarmEnable a => exact .of (alarm wf).map (by decide) rfl (by decide)
  case attentionRead c => exact .of (nat wf).map (by decide) rfl (by decide)
  case healthRead v c => exact .of ((nat wf.1).bind (nat wf.2).map) (by decide) rfl (by decide)

/-- Settles O3: each field is read back from the bytes it was written as, and so is the body of every command. -/
theorem writtenRequestReadsBack : Obligations.WrittenRequestReadsBack := by
  intro i x code body wf hx hw
  have read := (spells_of_wellFormed wf hx hw).readRequest
  refine ⟨read, fun s => ?_⟩
  rw [exec_unknownCommandRequest, rawRequest, read]
  exact runRequest_eq_exec hx s

end Sys2Proof.Machine
end

section
/-! PROOFS. Reset, the control port's transactions, and the commands that find, report and clear records. -/

namespace Sys2Proof.Machine

/-! ### Reset and DEVICE_CLEAR (R165, R167) -/

theorem exec_hardwareReset (s : State) : exec .hardwareReset s = .next s.hardwareReset := rfl

theorem exec_resetRelease (s : State) : exec .resetRelease s = .next { s with resetLow := false } := rfl

theorem exec_deviceClear (x : Transfer) (s : State) : exec (.deviceClear x) s =
    request x 0x02 (fun s => .ok {} (blockBytes s.blockCount) s.deviceClear) s := rfl

theorem State.busSlot_eq {b : Fin 4} {i : Fin 32} {n : Fin 128} (h : n.val = 32 * b.val + i.val) : State.busSlot b i = n :=
  Fin.ext h.symm

theorem State.deviceClear_port (s : State) (p : Fin 4) : s.deviceClear.port p = (s.port p).deviceClear :=
  vector_map_get s.ports Port.deviceClear p

/-- Settles O4: each block is put at its reset values, and the outputs follow the level of RESET_N. -/
theorem hardwareResetAndDeviceClear : Obligations.HardwareResetAndDeviceClear := by
  refine ⟨⟨fun s => ⟨s.hardwareReset, rfl, rfl, rfl, rfl, State.reset_port, State.reset_venue, State.reset_circuit, rfl,
    State.reset_slot, State.reset_source, rfl, fun n => ?_, rfl, rfl, rfl, rfl, fun sel => State.pins_low rfl sel,
    fun b i j => State.busSample_low rfl b i j⟩, fun s => ⟨_, exec_resetRelease s, rfl, fun sel => ?_, fun b i j n h => ?_⟩⟩,
    fun x s h => ⟨s.deviceClear.hold x 0x02 .ok {} (blockBytes s.blockCount), ?_, rfl, rfl, rfl, State.deviceClear_port s,
      State.reset_venue, State.reset_circuit, rfl, State.reset_slot, State.reset_source, rfl, rfl, rfl, h.1, rfl⟩⟩
  · exact Vector.getElem_replicate _
  · rw [State.pins_high rfl]
    exact ⟨rfl, rfl, rfl, rfl, rfl⟩
  · rw [State.busSample_high rfl, State.busSlot_eq h]
    rfl
  · rw [exec_deviceClear]
    exact request_ok x _ _ s h rfl

/-! ### RESPONSE, STATUS and malformed transactions (R160, R162, R163) -/

theorem exec_responseTransaction (n : Nat) (s : State) : exec (.responseTransaction false n) s =
    .next (if s.takes false then s.clockResponse n else s) := rfl

theorem exec_statusTransaction (n : Nat) (s : State) : exec (.statusTransaction false n) s =
    .next (if s.takes false then s.clockStatus n else s) := rfl

theorem State.takes_of_high {s : State} (h : s.resetLow = false) : s.takes false = true := by
  rw [State.takes, h]
  rfl

theorem State.takes_of_low {s : State} (h : s.resetLow = true) : s.takes false = false := by
  rw [State.takes, h]
  rfl

theorem State.transactionBytes_of_other (s : State) {kind : Byte} (h2 : kind ≠ 2) (h3 : kind ≠ 3) :
    s.transactionBytes kind = [] := by
  rw [State.transactionBytes, if_neg h2, if_neg h3]

theorem State.transactionBytes_status (s : State) : s.transactionBytes 3 = [s.statusByte] := rfl

theorem State.responseBytes_of_none {s : State} (h : s.control.held = none) : s.responseBytes = [0, 0, 10, 0, 0, 0] := by
  rw [State.responseBytes, h]
  rfl

theorem State.responseBytes_of_some {s : State} {r : Response} (h : s.control.held = some r) :
    s.responseBytes = r.bytes := by
  rw [State.responseBytes, h]

theorem Response.bytes_length (r : Response) : r.bytes.length = 6 + r.body.length := by
  simp only [Response.bytes, u8, u16, List.length_append, be_length, List.length_cons, List.length_nil]

theorem State.statusByte_bits (s : State) : s.statusByte.getLsbD 0 = s.control.held.isSome ∧
    s.statusByte.getLsbD 1 = s.control.responseLost ∧ s.statusByte.getLsbD 2 = s.control.malformed ∧
    s.statusByte.getLsbD 3 = s.attention ∧ s.statusByte.toNat < 16 := by
  rw [State.statusByte]
  generalize s.control.held.isSome = a
  generalize s.control.responseLost = b
  generalize s.control.malformed = c
  generalize s.attention = d
  revert a b c d
  decide

theorem exec_malformedTransaction {bs : List Byte} {s : State} (hs : s.resetLow = false)
    (h : bs = [] ∨ (∃ k rest, bs = k :: rest ∧ k ≠ 1 ∧ k ≠ 2 ∧ k ≠ 3) ∨
      ∃ rest : List Byte, bs = 1 :: rest ∧ rest.length < 4) :
    exec (.malformedTransaction false bs) s = .next (s.latchMalformed bs.length) := by
  change execMalformedTransaction false bs s = _
  rw [execMalformedTransaction.eq_def, State.takes_of_high hs]
  rcases h with rfl | ⟨k, rest, rfl, h1, h2, h3⟩ | ⟨rest, rfl, short⟩
  · rfl
  · simp only [Bool.not_true, Bool.false_eq_true, if_false, if_neg h1, if_neg h2, if_neg h3]
  · match rest, short with
    | [], _ => rfl
    | [_], _ => rfl
    | [_, _], _ => rfl
    | [_, _, _], _ => rfl

/-- Settles O27: what is driven is the zero of the kind byte, the transaction's own bytes, then zeros. -/
theorem controlPortTransactions : Obligations.ControlPortTransactions := by
  intro s hs
  have response : ∀ n, exec (.responseTransaction false n) s = .next (s.clockResponse n) := fun n => by
    rw [exec_responseTransaction, State.takes_of_high hs, if_pos rfl]
  have status : ∀ n, exec (.statusTransaction false n) s = .next (s.clockStatus n) := fun n => by
    rw [exec_statusTransaction, State.takes_of_high hs, if_pos rfl]
  have driven : ∀ n, s.misoBytes 2 n =
      0 :: (s.responseBytes.take n ++ List.replicate (n - s.responseBytes.length) 0) := s.misoBytes_eq 2
  refine ⟨⟨by rw [State.pins_high hs]; rfl, by rw [State.pins_high hs]; rfl⟩, fun kind => ⟨rfl, fun h2 h3 j => ?_⟩,
    fun t n j e hj => ?_, fun t n j e hj => ?_, fun n h => ?_, fun r n h hn => ?_, fun r n h hn => ?_, fun n hn => ?_,
    fun n hn => ⟨s.statusByte, ?_, s.statusByte_bits⟩, fun bs h => exec_malformedTransaction hs h, fun t ht n bs => ?_⟩
  · cases j with
    | zero => rfl
    | succ j => rw [State.misoByte_after, State.transactionBytes_of_other s h2 h3]; rfl
  · rw [response] at e
    cases e
    exact s.misoBytes_getElem? 2 n j hj
  · rw [status] at e
    cases e
    exact s.misoBytes_getElem? 3 (n / 8) j hj
  · have kept : (if ([0, 0, 10, 0, 0, 0] : List Byte).length ≤ n then none else s.control.held) = s.control.held := by
      rw [h, ite_self]
    rw [response, State.clockResponse, driven, State.responseBytes_of_none h, kept]
    rfl
  · have long : ¬ r.bytes.length ≤ n := by rw [r.bytes_length]; omega
    rw [response, State.clockResponse, driven, State.responseBytes_of_some h, if_neg long,
      Nat.sub_eq_zero_of_le (Nat.le_of_not_le long), List.replicate_zero, List.append_nil]
  · have whole : r.bytes.length ≤ n := by rw [r.bytes_length]; exact hn
    rw [response, State.clockResponse, driven, State.responseBytes_of_some h, if_pos whole, List.take_of_length_le whole,
      r.bytes_length]
    rfl
  · rw [status, State.clockStatus, decide_eq_true hn, Bool.and_true, Bool.and_true, Nat.div_eq_of_lt hn]
    rfl
  · obtain ⟨m, hm⟩ : ∃ m, n / 8 = m + 1 := ⟨n / 8 - 1, by omega⟩
    rw [status, State.clockStatus, decide_eq_false (by omega), Bool.and_false, Bool.and_false, State.misoBytes_eq, hm,
      State.transactionBytes_status, List.take_succ_cons, List.take_nil]
    rfl
  · refine ⟨?_, ?_, ?_⟩
    · rw [exec_responseTransaction, State.takes_of_low ht]; rfl
    · rw [exec_statusTransaction, State.takes_of_low ht]; rfl
    · change execMalformedTransaction false bs t = _
      rw [execMalformedTransaction.eq_def, State.takes_of_low ht]
      rfl

/-! ### References to circuits (R31) -/

theorem State.resolve_absolute {s : State} {c : Fin 128} (h : (s.circuit c).state ≠ .free) :
    s.resolve (.absolute c.val) = some c := by
  rw [State.resolve, inTable_val]
  exact (Option.filter_eq_some_iff).2 ⟨rfl, by simpa using h⟩

theorem State.resolve_venueRelative {s : State} {v : Fin 24} {c : Fin 128} {ord : Nat} (ho : (s.venue v).state ≠ .free)
    (hc : (s.venue v).circuits[ord]? = some c) (h : (s.circuit c).state ≠ .free) :
    s.resolve (.venueRelative v.val ord) = some c := by
  rw [State.resolve, State.openVenue_of_open ho]
  exact (Option.filter_eq_some_iff).2 ⟨hc, by simpa using h⟩

/-- The only circuit of a list with a tag is found by it. -/
theorem State.tagged_of_unique {s : State} {v : Fin 24} {c : Fin 128} {tag : Nat} (hc : c ∈ (s.venue v).circuits)
    (ht : (s.circuit c).tag = some tag) (unique : ∀ d ∈ (s.venue v).circuits, (s.circuit d).tag = some tag → d = c) :
    s.tagged v tag = some c := by
  cases found : s.tagged v tag with
  | none => exact absurd ht (by simpa using List.find?_eq_none.1 found c hc)
  | some d =>
    rw [unique d (List.mem_of_find?_eq_some found) (by simpa using List.find?_some found)]

theorem State.resolve_keyed {s : State} {v : Fin 24} {c : Fin 128} {tag : Nat} (ho : (s.venue v).state ≠ .free)
    (hc : s.tagged v tag = some c) (le : tag ≤ 254) (h : (s.circuit c).state ≠ .free) :
    s.resolve (.keyed v.val tag) = some c := by
  rw [State.resolve, State.openVenue_of_open ho, Option.bind_some, if_pos le, hc]
  exact (Option.filter_eq_some_iff).2 ⟨rfl, by simpa using h⟩

theorem State.ordinal_of_listed {s : State} {v : Fin 24} {c : Fin 128} {ord : Nat} (hv : (s.circuit c).venue = some v)
    (hn : (s.venue v).circuits.Nodup) (hc : (s.venue v).circuits[ord]? = some c) : s.ordinal c = ord := by
  obtain ⟨lt, rfl⟩ := List.getElem?_eq_some_iff.1 hc
  rw [State.ordinal, hv]
  exact hn.idxOf_getElem ord lt

/-! ### Reading a record, and clearing it (R32, R41, R59) -/

theorem flagOf_of_le {k : Nat} (h : 2 ≤ k) : flagOf k = none := by
  match k, h with
  | _ + 2, _ => rfl

theorem exec_circuitFind (x : Transfer) (r : CircuitRef) (s : State) : exec (.circuitFind x r) s =
    request x 0x25 (fun s => orBadReference (s.resolve r) fun c => answer (findReport s c) s) s := rfl

theorem exec_circuitQuery (x : Transfer) (r : CircuitRef) (k : Nat) (s : State) :
    exec (.circuitQuery x r k) s = request x 0x26 (circuitQuery r k) s := rfl

theorem exec_portQuery (x : Transfer) (p k : Nat) (s : State) :
    exec (.portQuery x p k) s = request x 0x31 (portQuery p k) s := rfl

theorem circuitQuery_of_resolve {s : State} {r : CircuitRef} {c : Fin 128} (h : s.resolve r = some c) (k : Nat) :
    circuitQuery r k s = match flagOf k with
      | none => .refuse .badValue
      | some b => .ok {} (circuitReport s c) (if b then s.modCircuit c Circuit.clearCounters else s) := by
  rw [circuitQuery, h]
  rfl

theorem portQuery_of_port (p : Fin 4) (k : Nat) (s : State) :
    portQuery p.val k s = match flagOf k with
      | none => .refuse .badValue
      | some b => .ok {} (portReport s p) (if b then s.modPort p Port.clearCounters else s) := by
  rw [portQuery, inTable_val]
  rfl

/-- Settles O9: each form of reference names the circuit, and a clearing read sets the counters to 0. -/
theorem circuitFindAndRecordReads : Obligations.CircuitFindAndRecordReads := by
  refine ⟨fun x s h => ⟨fun v c tag ord hl hc ht le unique r hr => ?_, fun r hr => ?_⟩, fun x s h =>
    ⟨fun r c hr => ⟨?_, ?_, fun k hk => ?_⟩, fun p => ⟨?_, ?_, fun k hk => ?_⟩, fun r k hr => ?_, fun p k hp => ?_⟩⟩
  · have listed : c ∈ (s.venue v).circuits := List.mem_of_getElem? hc
    obtain ⟨live, venue⟩ := (hl.2.1 v c).1 listed
    have ho : (s.venue v).state ≠ .free := fun e => by simp [hl.2.2 v e] at listed
    have resolved : s.resolve r = some c := by
      simp only [List.mem_cons, List.not_mem_nil, or_false] at hr
      rcases hr with rfl | rfl | rfl
      · exact State.resolve_absolute live
      · exact State.resolve_venueRelative ho hc live
      · exact State.resolve_keyed ho (State.tagged_of_unique listed ht unique) le live
    have report : findReport s c = be 1 c.val ++ be 1 v.val ++ be 1 ord ++ be 1 tag ++ be 1 (kindCode (s.circuit c).kind) ++
        be 1 (s.circuit c).channels ++ be 1 (circuitStateCode (s.circuit c).state) := by
      simp only [findReport, venue, ht, State.ordinal_of_listed venue (hl.1 v) hc]
      rfl
    rw [exec_circuitFind, ← report]
    exact request_ok x _ _ s h (by rw [resolved]; rfl)
  · rw [exec_circuitFind]
    exact request_refuse x _ _ s h (by rw [hr]; rfl)
  · rw [exec_circuitQuery]
    exact request_ok x _ _ s h (circuitQuery_of_resolve hr 0)
  · rw [exec_circuitQuery]
    exact request_ok x _ _ s h (circuitQuery_of_resolve hr 1)
  · rw [exec_circuitQuery]
    exact request_refuse x _ _ s h (by rw [circuitQuery_of_resolve hr, flagOf_of_le hk])
  · rw [exec_portQuery]
    exact request_ok x _ _ s h (portQuery_of_port p 0 s)
  · rw [exec_portQuery]
    exact request_ok x _ _ s h (portQuery_of_port p 1 s)
  · rw [exec_portQuery]
    exact request_refuse x _ _ s h (by rw [portQuery_of_port, flagOf_of_le hk])
  · rw [exec_circuitQuery]
    exact request_refuse x _ _ s h (by rw [circuitQuery, hr]; rfl)
  · rw [exec_portQuery]
    exact request_refuse x _ _ s h (by rw [portQuery, inTable_of_le hp]; rfl)

end Sys2Proof.Machine
end

section
/-! PROOFS. HEALTH_READ, ATTENTION_READ and ALARM_ENABLE (R157 to R159). -/

namespace Sys2Proof.Machine

theorem State.modCircuits_eq (s : State) (cs : List (Fin 128)) (f : Circuit → Circuit) :
    s.modCircuits cs f = { s with circuits := (s.modCircuits cs f).circuits } := by
  induction cs generalizing s with
  | nil => rfl
  | cons c cs ih => exact ih (s.modCircuit c f)

/-- A change that is the same when made twice reaches every circuit of a list, however often it stands there. -/
theorem State.modCircuits_circuit_of_idem (s : State) {cs : List (Fin 128)} {f : Circuit → Circuit}
    (idem : ∀ x, f (f x) = f x) (c : Fin 128) :
    (s.modCircuits cs f).circuit c = if c ∈ cs then f (s.circuit c) else s.circuit c := by
  induction cs generalizing s with
  | nil => rfl
  | cons d cs ih =>
    rw [State.modCircuits_cons, ih, State.modCircuit_eq, State.setCircuit_circuit_eq_ite]
    by_cases e : c = d
    · subst e
      simp only [if_true, idem, ite_self, List.mem_cons, true_or]
    · simp only [e, if_false, List.mem_cons, false_or]

theorem State.clearHealth_of_free {s : State} {v : Fin 24} (h : (s.venue v).state = .free) : s.clearHealth v = s := by
  rw [State.clearHealth, if_neg (by rw [Venue.isOpen_iff]; exact not_not_intro h)]

theorem State.clearHealth_of_open {s : State} {v : Fin 24} (h : (s.venue v).state ≠ .free) :
    s.clearHealth v = (s.modVenue v fun ve => ve.modHealth Health.clear).modCircuits (s.venue v).circuits
      fun x => { x with lossLatched := false } := by
  rw [State.clearHealth, if_pos ((Venue.isOpen_iff _).2 h)]

theorem exec_healthRead (x : Transfer) (v k : Nat) (s : State) : exec (.healthRead x v k) s =
    request x 0x72 (fun s => orBadReference (inTable 24 v) fun v => match flagOf k with
      | none => .refuse .badValue
      | some k => .ok {} (healthReport s v) (if k then s.clearHealth v else s)) s := rfl

theorem exec_attentionRead (x : Transfer) (k : Nat) (s : State) : exec (.attentionRead x k) s =
    request x 0x71 (fun s => match flagOf k with
      | none => .refuse .badValue
      | some k => .ok {} (attentionReport s) (if k then { s with refLoss := false } else s)) s := rfl

theorem exec_healthRead_one {x : Transfer} {s : State} (v : Fin 24) (h : Taken x s) :
    exec (.healthRead x v.val 1) s = .next ((s.clearHealth v).hold x 0x72 .ok {} (healthReport s v)) := by
  rw [exec_healthRead]
  exact request_ok x _ _ s h (by rw [inTable_val]; rfl)

/-! ### ALARM_ENABLE -/

theorem exec_alarmEnable (x : Transfer) (a : AlarmArgs) (s : State) :
    exec (.alarmEnable x a) s = execAlarmEnable x a s := rfl

theorem exec_alarmEnable_device {x : Transfer} {a : AlarmArgs} (s : State) (h : a.venue = none) :
    exec (.alarmEnable x a) s = request x 0x70 (alarmDevice a) s := by
  rw [exec_alarmEnable, execAlarmEnable, h]

theorem exec_alarmEnable_venue {x : Transfer} {a : AlarmArgs} {i : Nat} (s : State) (h : a.venue = some i) :
    exec (.alarmEnable x a) s =
      request x 0x70 (fun s => orBadReference (s.openVenue i) fun v => alarmVenue a v s) s := by
  rw [exec_alarmEnable, execAlarmEnable, h]

theorem alarmBad_iff (a : AlarmArgs) : alarmBad a = true ↔ (∃ c, a.classes = some c ∧ 32 ≤ c.toNat) ∨
    (∃ m, a.captureEnable = some m ∧ 32768 ≤ m.toNat) ∨ ∃ m, a.rateEnable = some m ∧ 32768 ≤ m.toNat := by
  simp only [alarmBad, Bool.or_eq_true, Option.any_eq_true, decide_eq_true_eq, or_assoc]

theorem alarmBad_eq_false {a : AlarmArgs} (hc : ∀ c, a.classes = some c → c.toNat < 32)
    (hm : ∀ m, a.captureEnable = some m → m.toNat < 32768) (hr : ∀ m, a.rateEnable = some m → m.toNat < 32768) :
    alarmBad a = false := by
  rw [← Bool.not_eq_true, alarmBad_iff]
  rintro (⟨c, e, le⟩ | ⟨m, e, le⟩ | ⟨m, e, le⟩)
  · exact absurd (hc c e) (by omega)
  · exact absurd (hm m e) (by omega)
  · exact absurd (hr m e) (by omega)

theorem classesAfter_eq (old : BitVec 5) (a : AlarmArgs) :
    classesAfter old a = match a.classes with | none => old | some c => c.setWidth 5 := by
  rw [classesAfter]
  cases a.classes <;> rfl

theorem classesAfter_toNat {old : BitVec 5} {a : AlarmArgs} (hc : ∀ c, a.classes = some c → c.toNat < 32) :
    (classesAfter old a).toNat = match a.classes with | none => old.toNat | some c => c.toNat := by
  rw [classesAfter_eq]
  cases given : a.classes with
  | none => rfl
  | some c => exact (BitVec.toNat_setWidth ..).trans (Nat.mod_eq_of_lt (hc c given))

/-- The health record after ALARM_ENABLE: what is given is stored, and a new threshold is judged at once. -/
theorem Health.enable_fields (h : Health) (a : AlarmArgs) :
    (h.enable a).captureEnable = (match a.captureEnable with | none => h.captureEnable | some m => m.setWidth 15) ∧
    (h.enable a).rateEnable = (match a.rateEnable with | none => h.rateEnable | some m => m.setWidth 15) ∧
    (h.enable a).threshold = (match a.threshold with | none => h.threshold | some k => max 1 (min 65535 k)) ∧
    ((h.enable a).degraded = true ↔
      h.degraded = true ∨ (a.threshold ≠ none ∧ (h.enable a).threshold ≤ h.windowCount)) ∧
    h.enable a = { h with captureEnable := (h.enable a).captureEnable, rateEnable := (h.enable a).rateEnable,
                          threshold := (h.enable a).threshold, degraded := (h.enable a).degraded } := by
  refine ⟨?_, ?_, ?_, ?_, rfl⟩
  · rw [Health.enable]
    cases a.captureEnable <;> rfl
  · rw [Health.enable]
    cases a.rateEnable <;> rfl
  · rw [Health.enable]
    cases a.threshold <;> rfl
  · simp only [Health.enable, Bool.or_eq_true, Bool.and_eq_true, Option.isSome_iff_ne_none, decide_eq_true_eq]

theorem alarmEnable_refused {x : Transfer} {s : State} {a : AlarmArgs} (h : Taken x s)
    (bad : (∃ n, a.venue = some n ∧ (24 ≤ n ∨ ∃ v : Fin 24, n = v.val ∧ (s.venue v).state = .free)) ∨
      (a.venue = none ∧ (a.captureEnable ≠ none ∨ a.rateEnable ≠ none ∨ a.threshold ≠ none))) :
    exec (.alarmEnable x a) s = .next (s.hold x 0x70 .badReference {} []) := by
  rcases bad with ⟨n, named, absent⟩ | ⟨unnamed, given⟩
  · have missing : s.openVenue n = none := by
      rcases absent with le | ⟨v, rfl, free⟩
      · exact State.openVenue_of_le le
      · exact State.openVenue_of_free free
    rw [exec_alarmEnable_venue s named]
    exact request_refuse x _ _ s h (by rw [missing]; rfl)
  · have given' : alarmVenueGiven a = true := by
      simpa only [alarmVenueGiven, Bool.or_eq_true, Option.isSome_iff_ne_none, or_assoc] using given
    rw [exec_alarmEnable_device s unnamed]
    exact request_refuse x _ _ s h (by rw [alarmDevice, given']; rfl)

/-- Settles O10: a clearing read clears its flags and counters, and ALARM_ENABLE stores what it gives. -/
theorem healthCommandsReadAndStore : Obligations.HealthCommandsReadAndStore := by
  refine ⟨⟨fun x s v h => ⟨?_, fun free => ?_, fun open' => ⟨s.clearHealth v, exec_healthRead_one v h, ?_, fun w hw => ?_,
    fun c => ?_, ?_⟩, fun k hk => ?_⟩, fun x s h => ⟨?_, ?_, fun k hk => ?_⟩⟩, fun x s a h =>
    ⟨alarmEnable_refused h, fun hc unnamed hm hr ht => ?_, fun v named open' => ⟨fun bad => ?_, fun hc hm hr => ?_⟩⟩⟩
  · rw [exec_healthRead]
    exact request_ok x _ _ s h (by rw [inTable_val]; rfl)
  · rw [exec_healthRead_one v h, State.clearHealth_of_free free]
  · rw [State.clearHealth_of_open open', State.modCircuits_venue, State.modVenue_eq, State.setVenue_venue]
    rfl
  · rw [State.clearHealth_of_open open', State.modCircuits_venue, State.modVenue_eq, State.setVenue_venue_of_ne (h := hw)]
  · rw [State.clearHealth_of_open open']
    exact State.modCircuits_circuit_of_idem _ (f := fun x => { x with lossLatched := false }) (fun _ => rfl) c
  · rw [State.clearHealth_of_open open']
    conv => lhs; rw [State.modCircuits_eq]
    simp only [State.modCircuits_venues]
    rfl
  · rw [exec_healthRead]
    exact request_refuse x _ _ s h (by rw [inTable_of_le hk]; rfl)
  · rw [exec_attentionRead]
    exact request_ok x _ _ s h rfl
  · rw [exec_attentionRead]
    exact request_ok x _ _ s h rfl
  · rw [exec_attentionRead]
    exact request_refuse x _ _ s h (by rw [flagOf_of_le hk])
  · have good : alarmBad a = false := alarmBad_eq_false hc (by simp [hm]) (by simp [hr])
    have none' : alarmVenueGiven a = false := by rw [alarmVenueGiven, hm, hr, ht]; rfl
    have stored : exec (.alarmEnable x a) s = .next (({ s with classEnables := classesAfter s.classEnables a }).hold x 0x70
        .ok {} (be 1 (classesAfter s.classEnables a).toNat)) := by
      rw [exec_alarmEnable_device s unnamed]
      exact request_ok x _ _ s h (by rw [alarmDevice, none', good]; rfl)
    rw [stored, classesAfter_toNat hc, classesAfter_eq] <;> rfl
  · rw [exec_alarmEnable_venue s named]
    exact request_refuse x _ _ s h (by
      rw [State.openVenue_of_open open', orBadReference_some, alarmVenue, (alarmBad_iff a).2 bad]; rfl)
  · obtain ⟨capture, rate, threshold, degraded, rest⟩ := (s.venue v).health.enable_fields a
    refine ⟨(s.venue v).health.enable a, { clamped := a.threshold.any fun n => clampNat 1 65535 n != n }, classesAfter s.classEnables a, ?_, classesAfter_eq _ a, capture, rate,
      threshold, degraded, rest⟩
    rw [exec_alarmEnable_venue s named]
    exact request_ok x _ _ s h (by
      rw [State.openVenue_of_open open', orBadReference_some, alarmVenue, alarmBad_eq_false hc hm hr]; rfl)

end Sys2Proof.Machine
end

section
/-! PROOFS. VENUE_OPEN, VENUE_SET and VENUE_RETIRE (R15 to R18). -/

namespace Sys2Proof.Machine

/-! ### Looking up venues and keys -/

/-- The lowest index at which a condition holds is the first that is found. -/
theorem find?_finRange {n : Nat} {p : Fin n → Bool} {i : Fin n} (h : p i = true) (lower : ∀ j, j < i → p j = false) :
    (List.finRange n).find? p = some i := by
  refine List.find?_eq_some_iff_getElem.2 ⟨h, i.val, by simp, by simp, fun j hj => ?_⟩
  simpa using lower ⟨j, hj.trans i.isLt⟩ hj

theorem State.freeVenue_of_lowest {s : State} {v : Fin 24} (free : (s.venue v).state = .free)
    (lower : ∀ w, w < v → (s.venue w).state ≠ .free) : s.freeVenue = some v :=
  find?_finRange (by simp [Venue.isOpen, free]) fun w hw => by simpa [Venue.isOpen] using lower w hw

theorem State.keyTaken_iff (s : State) (k : BitVec 16) (but : Option (Fin 24)) : s.keyTaken k but = true ↔
    ∃ w, (s.venue w).state ≠ .free ∧ (s.venue w).key = k ∧ some w ≠ but := by
  simp only [State.keyTaken, List.any_eq_true, Bool.and_eq_true, Venue.isOpen_iff, beq_iff_eq, bne_iff_ne, and_assoc]
  exact ⟨fun ⟨w, _, h⟩ => ⟨w, h⟩, fun ⟨w, h⟩ => ⟨w, List.mem_finRange w, h⟩⟩

theorem State.keyTaken_of_distinct {s : State} {k : BitVec 16} {but : Option (Fin 24)}
    (h : ∀ w, some w ≠ but → (s.venue w).state ≠ .free → (s.venue w).key ≠ k) : s.keyTaken k but = false := by
  rw [← Bool.not_eq_true, State.keyTaken_iff]
  rintro ⟨w, ho, hk, hb⟩
  exact h w hb ho hk

/-! ### Settings (R4) -/

theorem Settings.store_target (x : Settings) (g : SettingsGiven) (m : Nat) : (x.store g m).target =
    match g.target with | none => x.target | some t => max 480 (min m t) := by
  rw [Settings.store]
  cases g.target <;> rfl

theorem Settings.store_budget (x : Settings) (g : SettingsGiven) (m : Nat) : (x.store g m).budget =
    match g.budget, g.target with
    | some r, _ => max 1 (min (budgetMax (x.store g m).target) r)
    | none, some _ => max 1 (min (budgetMax (x.store g m).target) x.budget)
    | none, none => x.budget := by
  rw [Settings.store]
  cases g.budget <;> cases g.target <;> rfl

theorem Settings.store_rest (x : Settings) (g : SettingsGiven) (m : Nat) :
    (x.store g m).allowance = (match g.allowance with | none => x.allowance | some n => min 20 n) ∧
    (x.store g m).attempts = (match g.attempts with | none => x.attempts | some n => min 2 n) ∧
    (x.store g m).pathTimeout = (match g.pathTimeout with | none => x.pathTimeout | some n => max 10 (min 1000 n)) ∧
    (x.store g m).lossTime = (match g.lossTime with | none => x.lossTime | some n => max 1 (min 60 n)) := by
  rw [Settings.store]
  refine ⟨?_, ?_, ?_, ?_⟩
  · cases g.allowance with
    | none => rfl
    | some n => exact Nat.zero_max _
  · cases g.attempts with
    | none => rfl
    | some n => exact Nat.zero_max _
  · cases g.pathTimeout <;> rfl
  · cases g.lossTime <;> rfl

/-- A request that gives no setting. -/
def SettingsGiven.nothing : SettingsGiven := ⟨none, none, none, none, none, none⟩

theorem Settings.store_nothing (x : Settings) (m : Nat) : x.store .nothing m = x := rfl

theorem Settings.clamped_nothing (x : Settings) : x.clamped .nothing x = false := by
  simp [Settings.clamped, SettingsGiven.nothing, wasClamped]

/-! ### VENUE_OPEN -/

theorem exec_venueOpen (x : Transfer) (a : VenueOpenArgs) (s : State) :
    exec (.venueOpen x a) s = request x 0x10 (venueOpen a) s := rfl

theorem portBad_val (p : Fin 4) : portBad (some p.val) = false := decide_eq_false (by omega)

theorem portBad_map_val (p : Option (Fin 4)) : portBad (p.map fun p => p.val) = false := by
  cases p with
  | none => rfl
  | some p => exact portBad_val p

theorem portArg_val (p : Fin 4) : portArg p.val = some p := inTable_val p

theorem bind_portArg (p : Option (Fin 4)) : (p.map fun p => p.val).bind portArg = p := by
  cases p with
  | none => rfl
  | some p => exact portArg_val p

theorem map_portVal_inj {p q : Option (Fin 4)} (h : (p.map fun p => p.val) = q.map fun p => p.val) : p = q := by
  rw [← bind_portArg p, h, bind_portArg]

theorem Path.bound_eq (p : Option (Fin 4)) : Path.bound p =
    { port := p, state := if p.isSome then .down else .absent, lastArrival := none, reply := none } := by
  cases p <;> rfl

/-- A well-given VENUE_OPEN with a record to take. -/
theorem venueOpen_of_checks {a : VenueOpenArgs} {s : State} {v : Fin 24} {pa : Fin 4} {pb : Option (Fin 4)} (key : a.key ≠ 0)
    (hA : a.portA = some pa.val) (hB : a.portB = pb.map fun p => p.val) (two : pb ≠ some pa)
    (distinct : ∀ w, (s.venue w).state ≠ .free → (s.venue w).key ≠ a.key) (hv : s.freeVenue = some v) :
    venueOpen a s = .ok { clamped := openClamped a }
      (u8 v.val ++ venueSettings (openedVenue a) ++ s32 (openedVenue a).timebase.rhoP) (s.setVenue v (openedVenue a)) := by
  have other : (some pa.val == pb.map fun p => p.val) = false :=
    beq_eq_false_iff_ne.2 fun e => two (map_portVal_inj (p := some pa) e).symm
  have zero : (a.key == 0) = false := beq_eq_false_iff_ne.2 key
  rw [venueOpen, zero, hA, hB, portBad_val, portBad_map_val, other,
    State.keyTaken_of_distinct fun w _ ho => distinct w ho, hv]
  rfl

/-- Settles O11. -/
theorem venueOpenSetsUpLowestFreeRecord : Obligations.VenueOpenSetsUpLowestFreeRecord := by
  intro x a s v pa pb h key hA hB two distinct free lower
  have store := Settings.store_rest Settings.default (VenueOpenGiven a) (targetMax [])
  have target := Settings.store_target Settings.default (VenueOpenGiven a) (targetMax [])
  have budget := Settings.store_budget Settings.default (VenueOpenGiven a) (targetMax [])
  obtain ⟨allowance, attempts, pathTimeout, lossTime⟩ := store
  refine ⟨_, _, openedVenue a, by
      rw [exec_venueOpen]
      exact request_ok x _ _ s h (venueOpen_of_checks key hA hB two distinct (State.freeVenue_of_lowest free lower)),
    by rw [u8_eq_singleton]; rfl, rfl, rfl, ?_, ?_, ?_, ?_, ?_, ?_, ?_, ?_, rfl, rfl, rfl, rfl, rfl, rfl, rfl, rfl, rfl, rfl,
    rfl, rfl, rfl, rfl, rfl, rfl, rfl, rfl⟩
  · change Path.bound (a.portA.bind portArg) = _
    rw [hA, Option.bind_some, portArg_val]
    rfl
  · change Path.bound (a.portB.bind portArg) = _
    rw [hB, bind_portArg, Path.bound_eq]
  · refine target.trans ?_
    change (match a.target with | none => 4800 | some t => max 480 (min 48768 t)) = _
    cases a.target <;> rfl
  · refine budget.trans ?_
    change (match a.budget, a.target with
      | some r, _ => max 1 (min (budgetMax (openedVenue a).settings.target) r)
      | none, some _ => max 1 (min (budgetMax (openedVenue a).settings.target) 40)
      | none, none => 40) = max 1 (min (budgetMax (openedVenue a).settings.target) (a.budget.getD 40))
    cases a.budget with
    | some r => rfl
    | none =>
      cases given : a.target with
      | some t => rfl
      | none =>
        have four : (openedVenue a).settings.target = 4800 := by
          refine target.trans ?_
          change (match a.target with | none => 4800 | some t => max 480 (min 48768 t)) = _
          rw [given]
        rw [four]
        rfl
  · refine allowance.trans ?_
    change (match a.allowance with | none => 3 | some t => min 20 t) = _
    cases a.allowance <;> rfl
  · refine attempts.trans ?_
    change (match a.attempts with | none => 1 | some t => min 2 t) = _
    cases a.attempts <;> rfl
  · refine pathTimeout.trans ?_
    change (match a.pathTimeout with | none => 100 | some t => max 10 (min 1000 t)) = _
    cases a.pathTimeout <;> rfl
  · refine lossTime.trans ?_
    change (match a.lossTime with | none => 10 | some t => max 1 (min 60 t)) = _
    cases a.lossTime <;> rfl

/-! ### VENUE_SET -/

theorem exec_venueSet (x : Transfer) (i : Nat) (a : VenueSetArgs) (s : State) :
    exec (.venueSet x i a) s = request x 0x11 (venueSet i a) s := rfl

/-- A VENUE_SET that passes its checks. -/
theorem venueSet_of_checks {a : VenueSetArgs} {s : State} {v : Fin 24} (ho : (s.venue v).state ≠ .free)
    (good : venueSetBad (s.venue v) a = false) (distinct : (a.key.any fun k => s.keyTaken k (some v)) = false) :
    venueSet v.val a s = .ok
      { clamped := (s.venue v).settings.clamped (VenueSetGiven a)
          ((s.venue v).change a (targetMax (s.windowsOf v))).settings }
      (venueSettings ((s.venue v).change a (targetMax (s.windowsOf v))))
      (if ((s.venue v).change a (targetMax (s.windowsOf v))).pathA = (s.venue v).pathA &&
          ((s.venue v).change a (targetMax (s.windowsOf v))).pathB = (s.venue v).pathB
        then s.setVenue v ((s.venue v).change a (targetMax (s.windowsOf v)))
        else (s.setVenue v ((s.venue v).change a (targetMax (s.windowsOf v)))).holdoverIfPathless v) := by
  rw [venueSet, State.openVenue_of_open ho, orBadReference_some, good, refuseIf_false, distinct]
  rfl

theorem targetMax_eq {ws : List Nat} {m : Nat} (h : (ws = [] ∧ m = 48768) ∨
    ((∃ w ∈ ws, m = min 48768 (windowLimit w)) ∧ ∀ w ∈ ws, m ≤ windowLimit w)) : targetMax ws = m := by
  rcases h with ⟨rfl, rfl⟩ | ⟨⟨w, hw, rfl⟩, le⟩
  · rfl
  · exact le_antisymm (le_min (targetMax_le ws) (targetMax_le_windowLimit hw)) (le_targetMax (min_le_left ..) le)

/-- The one port twice is what VENUE_SET cannot take of two ports in the table. -/
theorem venueSetBad_of_ports {ve : Venue} {a : VenueSetArgs} (key : a.key ≠ some 0) (hA : a.portA.any portBad = false)
    (hB : a.portB.any portBad = false) (given : a.portA ≠ some none)
    (two : (portAfter ve.pathA a.portA).isSome = true → portAfter ve.pathA a.portA ≠ portAfter ve.pathB a.portB) :
    venueSetBad ve a = false := by
  rw [← Bool.not_eq_true]
  simp only [venueSetBad, hA, hB, Bool.or_eq_true, Bool.and_eq_true, beq_iff_eq, key, given, or_false, false_or,
    Bool.false_eq_true]
  exact fun ⟨some', same⟩ => two some' same

/-- Settles O12. -/
theorem venueSetStoresSettings : Obligations.VenueSetStoresSettings := by
  intro x a s v tMax h ho hA hB key two distinct hMax
  have max' : targetMax (s.windowsOf v) = tMax := by
    refine targetMax_eq (hMax.imp (fun ⟨e, m⟩ => ⟨by rw [State.windowsOf, e]; rfl, m⟩) fun ⟨⟨c, hc, e⟩, le⟩ =>
      ⟨⟨_, List.mem_map_of_mem hc, e⟩, fun w hw => ?_⟩)
    obtain ⟨c, hc, rfl⟩ := List.mem_map.1 hw
    exact le c hc
  have good : venueSetBad (s.venue v) a = false := by
    refine venueSetBad_of_ports key (by rw [hA]; rfl) (by rw [hB]; rfl) (by rw [hA]; exact fun e => nomatch e) fun _ => ?_
    rw [hA, hB]
    exact fun e => two (map_portVal_inj e)
  have unique : (a.key.any fun k => s.keyTaken k (some v)) = false := by
    cases given : a.key with
    | none => rfl
    | some k => exact State.keyTaken_of_distinct fun w hw ho' => distinct k given w (fun e => hw (e ▸ rfl)) ho'
  have changed : (s.venue v).change a tMax = { s.venue v with
      key := a.key.getD (s.venue v).key, settings := (s.venue v).settings.store (VenueSetGiven a) tMax } := by
    rw [Venue.change, hA, hB]
    rfl
  have stored := venueSet_of_checks ho good unique
  rw [max', changed, if_pos (by simp)] at stored
  obtain ⟨allowance, attempts, pathTimeout, lossTime⟩ := (s.venue v).settings.store_rest (VenueSetGiven a) tMax
  refine ⟨_, _, (s.venue v).settings.store (VenueSetGiven a) tMax, by
    rw [exec_venueSet]
    exact request_ok x _ _ s h stored, Settings.store_target .., Settings.store_budget .., allowance, attempts, pathTimeout,
    lossTime⟩

theorem portAfter_of_given {y : Path} {g : Option (Option Nat)} {p : Option (Fin 4)}
    (h : g = some (p.map fun p => p.val) ∨ g = none ∧ y.port = p) : portAfter y g = p.map fun p => p.val := by
  rcases h with rfl | ⟨rfl, rfl⟩ <;> rfl

theorem portBad_of_given {y : Path} {g : Option (Option Nat)} {p : Option (Fin 4)}
    (h : g = some (p.map fun p => p.val) ∨ g = none ∧ y.port = p) : g.any portBad = false := by
  rcases h with rfl | ⟨rfl, rfl⟩
  · exact portBad_map_val p
  · rfl

/-- A path stays as it is while its port does not change. -/
theorem Path.rebind_of_given {y : Path} {g : Option (Option Nat)} {p : Option (Fin 4)}
    (h : g = some (p.map fun p => p.val) ∨ g = none ∧ y.port = p) :
    y.rebind g = if y.port = p then y
      else { port := p, state := if p.isSome then .down else .absent, lastArrival := none, reply := none } := by
  rcases h with rfl | ⟨rfl, rfl⟩
  · rw [Path.rebind, bind_portArg, Path.bound_eq]
    simp only [eq_comm (a := p)]
  · rw [if_pos rfl, Path.rebind]

theorem Venue.anyPathUp_iff (ve : Venue) : ve.anyPathUp = true ↔ ve.pathA.state = .up ∨ ve.pathB.state = .up := by
  simp only [Venue.anyPathUp, Bool.or_eq_true, beq_iff_eq]

theorem State.holdoverIfPathless_of_lost {s : State} {v : Fin 24} (hs : (s.venue v).state = .active)
    (hA : (s.venue v).pathA.state ≠ .up) (hB : (s.venue v).pathB.state ≠ .up) :
    s.holdoverIfPathless v = s.enterHoldover v := by
  have down : (s.venue v).anyPathUp = false := by
    rw [← Bool.not_eq_true, Venue.anyPathUp_iff]
    exact not_or_intro hA hB
  rw [State.holdoverIfPathless, if_pos (by simp [hs, down])]

theorem State.holdoverIfPathless_of_kept {s : State} {v : Fin 24}
    (h : (s.venue v).state ≠ .active ∨ (s.venue v).pathA.state = .up ∨ (s.venue v).pathB.state = .up) :
    s.holdoverIfPathless v = s := by
  rw [State.holdoverIfPathless, if_neg]
  rw [← Venue.anyPathUp_iff] at h
  rcases h with h | h <;> simp [h]

/-- What entering HOLDOVER leaves: trim and interval discarded, the queue flushed, every entry counted CANCELLED. -/
theorem State.enterHoldover_venue (s : State) (v : Fin 24) : (s.enterHoldover v).venue v = { s.venue v with
    state := .holdover, holdoverElapsed := 0, holdoverSince := some s.blockCount, recovery := []
    timebase := (s.venue v).timebase.enterHoldover, health := ((s.enterHoldover v).venue v).health } := by
  rw [State.enterHoldover, State.flush_venue_self, State.modVenue_eq, State.setVenue_venue]

theorem State.enterHoldover_venue_of_ne (s : State) {v w : Fin 24} (h : w ≠ v) :
    (s.enterHoldover v).venue w = s.venue w := by
  rw [State.enterHoldover, State.flush_venue_of_ne _ _ _ h, State.modVenue_eq, State.setVenue_venue_of_ne (h := h)]

theorem State.enterHoldover_cancelled (s : State) (v : Fin 24) (h : (s.venue v).health.counter .cancelled ≤ 65535) :
    ((s.enterHoldover v).venue v).health.counter .cancelled =
      min 65535 ((s.venue v).health.counter .cancelled + (s.venue v).recovery.length) := by
  rw [State.enterHoldover, State.flush_cancelled] <;> rw [State.modVenue_eq, State.setVenue_venue]
  exact h

theorem State.enterHoldover_pathDown (s : State) (v : Fin 24) :
    ((s.enterHoldover v).venue v).health.pathDown = (s.venue v).health.pathDown := by
  rw [State.enterHoldover, State.flush_pathDown, State.modVenue_eq, State.setVenue_venue]

theorem State.enterHoldover_eq (s : State) (v : Fin 24) :
    s.enterHoldover v = { s with venues := (s.enterHoldover v).venues } := by
  rw [State.enterHoldover]
  exact State.flush_eq _ v

/-- Settles O13. -/
theorem venueSetRebindsPaths : Obligations.VenueSetRebindsPaths := by
  intro x s v ga gb pa pb na nb a lost h ho hA hB two ha hna hnb hlost
  have hA' : ga = some ((some pa : Option (Fin 4)).map fun p => p.val) ∨ ga = none ∧ (s.venue v).pathA.port = some pa := hA
  have good : venueSetBad (s.venue v) a = false := by
    subst ha
    refine venueSetBad_of_ports (fun e => nomatch e) (portBad_of_given hA') (portBad_of_given hB) ?_ fun _ => ?_
    · rcases hA with rfl | ⟨rfl, _⟩ <;> exact fun e => nomatch e
    · rw [portAfter_of_given hA', portAfter_of_given hB]
      exact fun e => two (map_portVal_inj e).symm
  have changed : (s.venue v).change a (targetMax (s.windowsOf v)) = { s.venue v with pathA := na, pathB := nb } := by
    subst ha
    rw [Venue.change, Path.rebind_of_given hA', Path.rebind_of_given hB, hna, hnb]
    rfl
  have stored := venueSet_of_checks ho good (by subst ha; rfl)
  rw [changed] at stored
  have calm : ({ clamped := (s.venue v).settings.clamped (VenueSetGiven a) (s.venue v).settings } : Flags) = {} := by
    subst ha
    exact congrArg (Flags.mk · false false false) (Settings.clamped_nothing _)
  rw [calm] at stored
  refine ⟨_, _, by
    rw [exec_venueSet]
    exact request_ok x _ _ s h stored, fun kept => ?_, fun hl => ?_⟩
  · split
    · rfl
    · next moved =>
      refine State.holdoverIfPathless_of_kept ?_
      rw [State.setVenue_venue]
      by_contra none'
      simp only [not_or, not_not] at none'
      obtain ⟨active, downA, downB⟩ := none'
      exact kept (hlost.2 ⟨active, by simpa [imp_iff_not_or] using moved, downA, downB⟩)
  · obtain ⟨active, moved, downA, downB⟩ := hlost.1 hl
    rw [if_neg (by simpa [imp_iff_not_or] using moved),
      State.holdoverIfPathless_of_lost (by rw [State.setVenue_venue]; exact active) (by rw [State.setVenue_venue]; exact downA)
        (by rw [State.setVenue_venue]; exact downB)]
    have venue := State.enterHoldover_venue (s.setVenue v { s.venue v with pathA := na, pathB := nb }) v
    rw [State.setVenue_venue] at venue
    refine ⟨by rw [venue], by rw [venue], by rw [venue]; rfl, by rw [venue], by rw [venue], by rw [venue], by rw [venue]; rfl,
      fun le => ?_, ?_, fun w hw => ?_, ?_⟩
    · rw [State.enterHoldover_cancelled, State.setVenue_venue]
      rw [State.setVenue_venue]
      exact le
    · rw [State.enterHoldover_pathDown, State.setVenue_venue]
    · rw [State.enterHoldover_venue_of_ne _ hw, State.setVenue_venue_of_ne (h := hw)]
    · conv => lhs; rw [State.enterHoldover_eq]
      rfl

end Sys2Proof.Machine
end

section
/-! PROOFS. VENUE_RETIRE and CIRCUIT_RETIRE: freeing records (R17, R18, R38, R39, R128). -/

namespace Sys2Proof.Machine

/-! ### Freeing a list of circuits -/

/-- Nothing differs but venues, circuits, slots and the pool. -/
def State.FreesTo (s t : State) : Prop :=
  t = { s with venues := t.venues, circuits := t.circuits, slots := t.slots, poolFree := t.poolFree }

theorem State.FreesTo.trans {s t u : State} (h : s.FreesTo t) (g : t.FreesTo u) : s.FreesTo u := by
  rw [State.FreesTo] at *
  refine g.trans ?_
  rw [h]

theorem State.freeRecord_freesTo (s : State) (c : Fin 128) : s.FreesTo (s.freeRecord c) := by
  rw [State.FreesTo, State.freeRecord]
  dsimp only
  split
  · rfl
  · split <;> rfl

/-- The circuits of a list that are open and of one venue, each standing in it once. -/
structure State.Owned (s : State) (v : Fin 24) (cs : List (Fin 128)) : Prop where
  nodup : cs.Nodup
  live : ∀ c ∈ cs, (s.circuit c).state ≠ .free
  venue : ∀ c ∈ cs, (s.circuit c).venue = some v

theorem ListLaw.owned {s : State} (hs : ListLaw s) (v : Fin 24) : s.Owned v (s.venue v).circuits where
  nodup := hs.1 v
  live c hc := ((hs.2.1 v c).1 hc).1
  venue c hc := ((hs.2.1 v c).1 hc).2

theorem State.freeRecord_circuit_of_ne (s : State) {c d : Fin 128} (h : d ≠ c) :
    (s.freeRecord c).circuit d = s.circuit d := by
  rw [State.freeRecord_circuit, if_neg fun e => h e.1]

theorem State.Owned.tail {s : State} {v : Fin 24} {c : Fin 128} {cs : List (Fin 128)} (h : s.Owned v (c :: cs)) :
    (s.freeRecord c).Owned v cs := by
  obtain ⟨notMem, nodup⟩ := List.nodup_cons.1 h.nodup
  have same : ∀ d ∈ cs, (s.freeRecord c).circuit d = s.circuit d := fun d hd =>
    s.freeRecord_circuit_of_ne (ne_of_mem_of_not_mem hd notMem)
  exact ⟨nodup, fun d hd => by rw [same d hd]; exact h.live d (.tail _ hd),
    fun d hd => by rw [same d hd]; exact h.venue d (.tail _ hd)⟩

theorem State.freeAll_circuit {s : State} {v : Fin 24} {cs : List (Fin 128)} (h : s.Owned v cs) (c : Fin 128) :
    (s.freeAll cs).1.circuit c = if c ∈ cs then Circuit.free else s.circuit c := by
  induction cs generalizing s with
  | nil => rfl
  | cons d cs ih =>
    rw [State.freeAll_cons, ih h.tail, State.freeRecord_circuit]
    have live := h.live d (.head _)
    by_cases e : c = d <;> simp [e, live]

theorem State.freeAll_venue_of_ne {s : State} {v w : Fin 24} {cs : List (Fin 128)} (h : s.Owned v cs) (hw : w ≠ v) :
    (s.freeAll cs).1.venue w = s.venue w := by
  induction cs generalizing s with
  | nil => rfl
  | cons d cs ih =>
    rw [State.freeAll_cons, ih h.tail, State.freeRecord_venue, if_neg]
    rintro ⟨_, e⟩
    rw [h.venue d (.head _)] at e
    exact hw (Option.some.inj e).symm

theorem State.freeAll_poolFree {s : State} {v : Fin 24} {cs : List (Fin 128)} (h : s.Owned v cs) :
    (s.freeAll cs).1.poolFree = s.poolFree + (cs.map fun c => (s.circuit c).units).sum := by
  induction cs generalizing s with
  | nil => rfl
  | cons d cs ih =>
    have same : (cs.map fun c => ((s.freeRecord d).circuit c).units) = cs.map fun c => (s.circuit c).units :=
      List.map_congr_left fun c hc => by
        rw [s.freeRecord_circuit_of_ne (ne_of_mem_of_not_mem hc (List.nodup_cons.1 h.nodup).1)]
    rw [State.freeAll_cons, ih h.tail, same, State.freeRecord_poolFree, if_pos (h.live d (.head _)), List.map_cons,
      List.sum_cons, Nat.add_assoc]

theorem State.freeAll_freesTo (s : State) (cs : List (Fin 128)) : s.FreesTo (s.freeAll cs).1 := by
  induction cs generalizing s with
  | nil => rfl
  | cons d cs ih =>
    rw [State.freeAll_cons]
    exact (s.freeRecord_freesTo d).trans (ih (s.freeRecord d))

theorem State.freeAll_source (s : State) (cs : List (Fin 128)) (n : Fin 16) :
    (s.freeAll cs).1.source n = s.source n := by
  rw [State.source, s.freeAll_freesTo cs]
  rfl

/-! ### VENUE_RETIRE -/

theorem exec_venueRetire (x : Transfer) (i o : Nat) (s : State) :
    exec (.venueRetire x i o) s = request x 0x12 (venueRetire i o) s := rfl

theorem exec_venueRetireForce (x : Transfer) (i : Nat) (s : State) :
    exec (.venueRetireForce x i) s = request x 0x12 (venueRetireForce i) s := rfl

theorem State.closeVenue_targets_eq (s : State) (v w : Fin 24) (n : Fin 16) :
    ((s.closeVenue v).source n).targets.getLsbD w.val = (decide (w ≠ v) && (s.source n).targets.getLsbD w.val) := by
  rw [State.closeVenue_targets, Bool.and_comm]

/-- Settles O14. -/
theorem venueRetireFreesRecord : Obligations.VenueRetireFreesRecord := by
  refine ⟨fun x s v h ho => ⟨fun empty => ⟨s.closeVenue v, ?_, ?_, fun w hw => ?_, fun n => ?_,
    fun n w => s.closeVenue_targets_eq v w n, rfl⟩, fun some' => ?_⟩, fun x s v h hl ho => ?_⟩
  · rw [exec_venueRetire]
    exact request_ok x _ _ s h (by rw [venueRetire, State.openVenue_of_open ho, orBadReference_some, empty]; rfl)
  · rw [State.closeVenue_venue, if_pos rfl]
  · rw [State.closeVenue_venue, if_neg hw]
  · rw [State.closeVenue_source]
  · rw [exec_venueRetire]
    exact request_refuse x _ _ s h (by
      rw [venueRetire, State.openVenue_of_open ho, orBadReference_some, List.isEmpty_eq_false_iff.2 some']; rfl)
  · have owned := hl.owned v
    obtain ⟨slots, count⟩ := State.freeAll_slots (s.venue v).circuits owned.nodup s owned.live
    refine ⟨(s.freeAll (s.venue v).circuits).1.closeVenue v, ?_, ?_, fun w hw => ?_, fun c => ?_, ?_, fun i y hy => ?_,
      fun i => ?_, fun n => ?_, fun n w => ?_, ?_⟩
    · rw [exec_venueRetireForce, ← count]
      exact request_ok x _ _ s h (by rw [venueRetireForce, State.openVenue_of_open ho]; rfl)
    · rw [State.closeVenue_venue, if_pos rfl]
    · rw [State.closeVenue_venue, if_neg hw, State.freeAll_venue_of_ne owned hw]
    · rw [State.closeVenue_circuit, State.freeAll_circuit owned]
    · rw [State.closeVenue_poolFree, State.freeAll_poolFree owned]
      rfl
    · rw [State.closeVenue_slot] at hy
      have kept : y ∈ (s.slot i).sources.filter fun e => decide (e.circuit ∉ (s.venue v).circuits) := by
        rw [← (slots i).1.sources]
        exact hy
      exact of_decide_eq_true (List.mem_filter.1 kept).2
    · rw [State.closeVenue_slot]
      exact slots i
    · rw [State.closeVenue_source, State.freeAll_source]
    · rw [State.closeVenue_targets_eq, State.freeAll_source]
    · have frame := s.freeAll_freesTo (s.venue v).circuits
      rw [State.FreesTo] at frame
      conv => lhs; rw [frame]
      conv => rhs; rw [frame]
      rfl

/-! ### CIRCUIT_RETIRE -/

theorem Venue.seated_iff (ve : Venue) : ve.seated = true ↔ ve.state = .active ∨ ve.state = .holdover := by
  simp only [Venue.seated, Bool.or_eq_true, beq_iff_eq]

theorem State.unseat_of_empty {s : State} {v : Fin 24} (h : (s.venue v).circuits = []) : s.unseat v = s.unseatVenue v := by
  rw [State.unseat_eq, h]
  rfl

theorem State.unseatVenue_venue (s : State) (v : Fin 24) : (s.unseatVenue v).venue v = { s.venue v with
    state := .waiting, recovery := [], newest := none, aheadStreak := 0, lateStreak := 0
    timebase := (s.venue v).timebase.unseat, holdoverElapsed := 0, holdoverSince := none
    health := ((s.unseatVenue v).venue v).health } := by
  rw [State.unseatVenue, State.modVenue_eq, State.setVenue_venue, State.flush_venue_self, State.modCircuits_venue]

theorem State.unseatVenue_eq_of_empty {s : State} {v : Fin 24} (h : (s.venue v).circuits = []) :
    s.unseatVenue v = { s with venues := (s.unseatVenue v).venues } := by
  rw [State.unseatVenue, h, State.modCircuits_nil, State.flush_eq]
  rfl

theorem filter_ne_eq_nil_iff {l : List (Fin 128)} {c : Fin 128} (hn : l.Nodup) (hc : c ∈ l) :
    l.filter (fun d => d != c) = [] ↔ l = [c] := by
  refine ⟨fun h => ?_, fun h => by simp [h]⟩
  have perm := List.perm_cons_erase hc
  rwa [hn.erase_eq_filter, h, List.perm_singleton] at perm

/-- R39 with R12: whether the freed circuit leaves a seated venue without circuits. -/
theorem State.freeCircuit_of_listed {s : State} {v : Fin 24} {c : Fin 128} (hl : ListLaw s) (live : (s.circuit c).state ≠ .free)
    (hv : (s.circuit c).venue = some v) :
    ((s.venue v).circuits = [c] → (s.venue v).state = .active ∨ (s.venue v).state = .holdover →
      s.freeCircuit c = (s.freeRecord c).unseatVenue v ∧ ((s.freeRecord c).venue v).circuits = []) ∧
    (¬ ((s.venue v).circuits = [c] ∧ ((s.venue v).state = .active ∨ (s.venue v).state = .holdover)) →
      s.freeCircuit c = s.freeRecord c) := by
  have empty := filter_ne_eq_nil_iff (hl.1 v) ((hl.2.1 v c).2 ⟨live, hv⟩)
  have venue : (s.freeRecord c).venue v =
      { (s.venue v).dropEntries c with circuits := (s.venue v).circuits.filter fun d => d != c } := by
    rw [State.freeRecord_venue, if_pos ⟨live, hv⟩]
  have circuits : ((s.freeRecord c).venue v).circuits = (s.venue v).circuits.filter fun d => d != c := by rw [venue]
  have alone : (((s.freeRecord c).venue v).seated && ((s.freeRecord c).venue v).circuits.isEmpty) = true ↔
      (s.venue v).circuits = [c] ∧ ((s.venue v).state = .active ∨ (s.venue v).state = .holdover) := by
    have seated : ((s.freeRecord c).venue v).seated = (s.venue v).seated := by rw [venue]; rfl
    rw [seated, circuits, Bool.and_eq_true, List.isEmpty_iff, empty, and_comm, Venue.seated_iff]
  rw [State.freeCircuit, hv]
  refine ⟨fun only seated => ?_, fun h => if_neg fun e => h (alone.1 e)⟩
  have none' : ((s.freeRecord c).venue v).circuits = [] := by rw [circuits, empty, only]
  exact ⟨(if_pos (alone.2 ⟨only, seated⟩)).trans (State.unseat_of_empty none'), none'⟩

theorem exec_circuitRetire (x : Transfer) (r : CircuitRef) (o : Nat) (s : State) :
    exec (.circuitRetire x r o) s = request x 0x24 (circuitRetire r o) s := rfl

theorem circuitRetire_of_resolve {r : CircuitRef} {s : State} {c : Fin 128} (h : s.resolve r = some c) :
    circuitRetire r 0 s = retireNow s c ∧
    ((s.circuit c).state = .closing → circuitRetire r 1 s = .refuse .badState) ∧
    ((s.circuit c).state ≠ .closing → (s.circuit c).fades = true → circuitRetire r 1 s =
      .ok {} (u8 (s.circuit c).fadeLength)
        (s.modCircuit c fun x => { x with state := .closing, fade := x.fadeLength })) ∧
    ((s.circuit c).state ≠ .closing → (s.circuit c).fades = false → circuitRetire r 1 s = retireNow s c) := by
  simp only [circuitRetire, h, orBadReference_some, flagOf]
  refine ⟨trivial, fun closing => ?_, fun other fades => ?_, fun other fades => ?_⟩
  · rw [closing]
    rfl
  · rw [beq_false_of_ne other, refuseIf_false, if_pos fades]
  · rw [beq_false_of_ne other, refuseIf_false, if_neg (by rw [fades]; exact Bool.false_ne_true)]

theorem Circuit.fades_iff (x : Circuit) :
    x.fades = true ↔ (x.state = .running ∨ x.state = .concealing) ∧ 1 ≤ x.fadeLength := by
  simp only [Circuit.fades, Bool.and_eq_true, Bool.or_eq_true, beq_iff_eq, decide_eq_true_eq, Nat.succ_le_iff]

/-- What freeing leaves of the rest of the part, whether or not the venue is unseated with it. -/
theorem State.freeCircuit_rest {s : State} {v : Fin 24} {c : Fin 128} (hl : ListLaw s) (live : (s.circuit c).state ≠ .free)
    (hv : (s.circuit c).venue = some v) :
    s.freeCircuit c = { s.freeRecord c with venues := (s.freeCircuit c).venues } ∧
    (∀ w, w ≠ v → (s.freeCircuit c).venue w = s.venue w) := by
  obtain ⟨last, others⟩ := State.freeCircuit_of_listed hl live hv
  have away : ∀ w, w ≠ v → (s.freeRecord c).venue w = s.venue w := fun w hw => by
    rw [State.freeRecord_venue, if_neg]
    rintro ⟨_, e⟩
    rw [hv] at e
    exact hw (Option.some.inj e).symm
  by_cases h : (s.venue v).circuits = [c] ∧ ((s.venue v).state = .active ∨ (s.venue v).state = .holdover)
  · obtain ⟨e, empty⟩ := last h.1 h.2
    rw [e]
    exact ⟨State.unseatVenue_eq_of_empty empty, fun w hw => by rw [State.unseatVenue_venue_of_ne _ hw, away w hw]⟩
  · rw [others h]
    exact ⟨rfl, away⟩

/-- Settles O18. -/
theorem circuitRetireFreesOrFades : Obligations.CircuitRetireFreesOrFades := by
  intro x r s c h hr
  have live := State.resolve_open hr
  obtain ⟨now, closing, fading, else'⟩ := circuitRetire_of_resolve hr
  refine ⟨fun hs => ?_, fun hs hF => ?_, fun o v hl hv ho => ?_⟩
  · rw [exec_circuitRetire]
    exact request_refuse x _ _ s h (closing hs)
  · have other : (s.circuit c).state ≠ .closing := by rcases hs with e | e <;> simp [e]
    rw [exec_circuitRetire]
    exact request_ok x _ _ s h (fading other ((Circuit.fades_iff _).2 ⟨hs, hF⟩))
  · have freed : circuitRetire r o s = retireNow s c := by
      rcases ho with rfl | ⟨rfl, ho⟩
      · exact now
      · refine else' (fun e => by simp [e] at ho) ?_
        rw [← Bool.not_eq_true, Circuit.fades_iff]
        rintro ⟨playing, pos⟩
        rcases ho with e | e | ⟨_, e⟩
        · simp [e] at playing
        · simp [e] at playing
        · omega
    obtain ⟨last, others⟩ := State.freeCircuit_of_listed hl live hv
    obtain ⟨frame, away⟩ := State.freeCircuit_rest hl live hv
    have circuit : ∀ d, (s.freeCircuit c).circuit d = (s.freeRecord c).circuit d := fun d => by rw [frame]; rfl
    have slot : ∀ i, (s.freeCircuit c).slot i = (s.freeRecord c).slot i := fun i => by rw [frame]; rfl
    have pool : (s.freeCircuit c).poolFree = (s.freeRecord c).poolFree := by rw [frame]
    have record : (s.freeRecord c).venue v =
        { (s.venue v).dropEntries c with circuits := (s.venue v).circuits.filter fun d => d != c } := by
      rw [State.freeRecord_venue, if_pos ⟨live, hv⟩]
    have dropped := s.freeRecord_dropped c live
    refine ⟨s.freeCircuit c, ?_, ?_, ?_, ?_, fun i y hy => ?_, fun i => ?_, ?_, fun d hd => ?_, away, ?_, fun hn => ?_,
      fun only seated => ?_, ?_⟩
    · rw [exec_circuitRetire, ← State.references_eq]
      exact request_ok x _ _ s h freed
    · rw [circuit, State.freeRecord_circuit, if_pos ⟨rfl, live⟩]
    · by_cases alone : (s.venue v).circuits = [c] ∧ ((s.venue v).state = .active ∨ (s.venue v).state = .holdover)
      · rw [(last alone.1 alone.2).1, State.unseatVenue_venue, record]
      · rw [others alone, record]
    · by_cases alone : (s.venue v).circuits = [c] ∧ ((s.venue v).state = .active ∨ (s.venue v).state = .holdover)
      · rw [(last alone.1 alone.2).1, State.unseatVenue_venue]
        exact fun e he => nomatch he
      · rw [others alone, record]
        exact fun e he => by simpa using (List.mem_filter.1 he).2
    · rw [slot] at hy
      have kept : y ∈ (s.slot i).sources.filter fun e => decide (e.circuit ∉ [c]) := by
        rw [← (dropped i).sources]
        exact hy
      simpa using (List.mem_filter.1 kept).2
    · rw [slot]
      exact ⟨dropped i, by rw [State.freeRecord_slot, if_pos live, Slot.dropCircuit_staged]⟩
    · rw [pool, State.freeRecord_poolFree, if_pos live]
      rfl
    · rw [circuit, s.freeRecord_circuit_of_ne hd]
    · split
      · next alone => rw [(last alone.1 alone.2).1, State.unseatVenue_venue]
      · next many => rw [others many, record]; rfl
    · rw [others hn, record]
      rfl
    · have unseated := State.unseatVenue_venue (s.freeRecord c) v
      have none' : (s.venue v).circuits.filter (fun d => d != c) = [] := by simp [only]
      rw [record, none'] at unseated
      rw [(last only seated).1, unseated]
      rfl
    · have freed := s.freeRecord_freesTo c
      rw [State.FreesTo] at freed
      conv => lhs; rw [frame, freed]
      conv => rhs; rw [frame]

end Sys2Proof.Machine
end

section
/-! PROOFS. CIRCUIT_OPEN, and the order in which the checks of a command refuse it (R15 to R18, R33, R34, R122). -/

namespace Sys2Proof.Machine

/-! ### CIRCUIT_OPEN -/

theorem exec_circuitOpen (x : Transfer) (a : CircuitOpenArgs) (s : State) :
    exec (.circuitOpen x a) s = request x 0x20 (circuitOpen a) s := rfl

theorem State.tagged_eq_none {s : State} {v : Fin 24} {tag : Nat}
    (h : ∀ d ∈ (s.venue v).circuits, (s.circuit d).tag ≠ some tag) : s.tagged v tag = none :=
  List.find?_eq_none.2 fun d hd => by simpa using h d hd

theorem State.tagged_isSome {s : State} {v : Fin 24} {tag : Nat}
    (h : ∃ d ∈ (s.venue v).circuits, (s.circuit d).tag = some tag) : (s.tagged v tag).isSome = true := by
  obtain ⟨d, hd, e⟩ := h
  exact List.find?_isSome.2 ⟨d, hd, by simpa using e⟩

theorem State.freeRecordIndex_of_lowest {s : State} {c : Fin 128} (free : (s.circuit c).state = .free)
    (lower : ∀ d, d < c → (s.circuit d).state ≠ .free) : s.freeRecordIndex = some c :=
  find?_finRange (by simp [free]) fun d hd => by simpa using lower d hd

theorem State.freeRecordIndex_eq_none {s : State} (h : ∀ d, (s.circuit d).state ≠ .free) : s.freeRecordIndex = none :=
  List.find?_eq_none.2 fun d _ => by simpa using h d

theorem kindOf_kindCode (k : CircuitKind) : kindOf (kindCode k) = some k := by
  cases k <;> rfl

theorem kindOf_eq_none_iff (n : Nat) : kindOf n = none ↔ n ∉ [1, 2, 3] := by
  match n with
  | 0 => decide
  | 1 => decide
  | 2 => decide
  | 3 => decide
  | n + 4 => simp [kindOf]

theorem circuitValueBad_iff (ve : Venue) (a : CircuitOpenArgs) (kind : Option CircuitKind) (ch : Nat) :
    circuitValueBad ve a kind ch = true ↔ a.tag = 255 ∨ (formBad a.form = false ∧ (kind = none ∨ ch ∉ [1, 2])) ∨
      a.window ∉ [64, 128, 256, 512] ∨ (a.window - 4) * 96 < ve.settings.target := by
  change _ ↔ _ ∨ _ ∨ _ ∨ windowLimit a.window < ve.settings.target
  simp [circuitValueBad, windowSizes, or_assoc]

/-- The checks of R33 after NOT_ANNOUNCED, in their order. -/
theorem circuitOpen_of_form {a : CircuitOpenArgs} {s : State} {v : Fin 24} {kind : Option CircuitKind} {ch : Nat}
    (ha : a.venue = v.val) (ho : (s.venue v).state ≠ .free) (form : readForm (s.venue v) a.tag a.form = some (kind, ch)) :
    circuitOpen a s =
      refuseIf (circuitValueBad (s.venue v) a kind ch) .badValue
      (refuseIf (s.tagged v a.tag).isSome .duplicateKey
      (refuseIf (decide (8 ≤ (s.venue v).circuits.length) || decide (s.poolFree < ch * a.window)) .noCapacity
      (match s.freeRecordIndex with
        | none => .refuse .noCapacity
        | some c => refuseIf (formBad a.form || !codeOk flagOf a.autoRearm) .badValue
            (.ok { clamped := wasClamped (openedCircuit a v (kind.getD .commentary) ch).level a.level ||
                    wasClamped (openedCircuit a v (kind.getD .commentary) ch).holdInit a.hold }
              (u8 c.val ++ u8 (s.venue v).circuits.length ++ u16 (openedCircuit a v (kind.getD .commentary) ch).level ++
                u16 (openedCircuit a v (kind.getD .commentary) ch).holdInit ++
                u16 (s.openCircuit v c (openedCircuit a v (kind.getD .commentary) ch)).poolFree)
              (s.openCircuit v c (openedCircuit a v (kind.getD .commentary) ch)))))) := by
  rw [circuitOpen, ha, State.openVenue_of_open ho, orBadReference_some]
  dsimp only
  rw [form] <;> rfl

theorem wasClamped_clampOr (lo hi old : Nat) (g : Option Nat) (le : lo ≤ hi) :
    wasClamped (clampOr lo hi old g) g = true ↔ ∃ n, g = some n ∧ (n < lo ∨ hi < n) := by
  cases g with
  | none => simp [wasClamped]
  | some n =>
    simp only [wasClamped, clampOr, clampNat, bne_iff_ne, Option.some.injEq, exists_eq_left']
    omega

/-- Settles O15. -/
theorem circuitOpenTakesRecordAndUnits : Obligations.CircuitOpenTakesRecordAndUnits := by
  intro x a s v c kind ch auto h ho ha tag hch window target hform hauto other room pool free lower
  have form : readForm (s.venue v) a.tag a.form = some (some kind, ch) ∧ formBad a.form = false := by
    rcases hform with e | ⟨e, found⟩
    · rw [e]
      exact ⟨by rw [readForm, kindOf_kindCode], rfl⟩
    · rw [e]
      exact ⟨by rw [readForm, found]; rfl, rfl⟩
  have good : circuitValueBad (s.venue v) a (some kind) ch = false := by
    rw [← Bool.not_eq_true, circuitValueBad_iff]
    rintro (e | ⟨_, e | e⟩ | e | e)
    · exact tag e
    · cases e
    · exact e (by simpa using hch)
    · exact e window
    · omega
  have code : codeOk flagOf a.autoRearm = true := by
    rw [hauto]
    cases auto <;> rfl
  have opened := circuitOpen_of_form ha ho form.1
  rw [good, State.tagged_eq_none other, decide_eq_false (by omega), decide_eq_false (by omega),
    State.freeRecordIndex_of_lowest free lower, form.2, code] at opened
  refine ⟨_, openedCircuit a v kind ch, by
    rw [exec_circuitOpen]
    exact request_ok x _ _ s h opened, rfl, rfl, rfl, rfl, rfl, rfl, ?_, ?_, rfl, ?_, rfl, rfl, rfl, rfl, rfl, rfl, ?_⟩
  · change clampOr 0 16383 4096 a.level = _
    cases a.level with
    | none => rfl
    | some l => exact Nat.zero_max _
  · change clampOr 1 65535 (holdDefault kind) a.hold = _
    cases a.hold with
    | none => cases kind <;> rfl
    | some n => rfl
  · change codeOr flagOf false a.autoRearm = _
    rw [hauto]
    cases auto <;> rfl
  · simp only [Bool.or_eq_true]
    change (wasClamped (clampOr 0 16383 4096 a.level) a.level = true ∨
      wasClamped (clampOr 1 65535 (holdDefault kind) a.hold) a.hold = true) ↔ _
    rw [wasClamped_clampOr _ _ _ _ (by decide), wasClamped_clampOr _ _ _ _ (by decide)]
    simp only [Nat.not_lt_zero, false_or, Nat.lt_one_iff]

/-! ### Refusals -/

theorem venueOpen_badValue {a : VenueOpenArgs} (s : State) (h : a.key = 0 ∨ a.portA = none ∨ (∃ p, a.portA = some p ∧ 3 < p) ∨
    (∃ p, a.portB = some p ∧ 3 < p) ∨ a.portA = a.portB) : venueOpen a s = .refuse .badValue := by
  have bad : (a.key == 0 || portBad a.portA || portBad a.portB || a.portA.isNone || a.portA == a.portB) = true := by
    rcases h with h | h | ⟨p, h, lt⟩ | ⟨p, h, lt⟩ | h
    · simp [h]
    · simp [h]
    · simp [h, portBad, lt]
    · simp [h, portBad, lt]
    · simp [h]
  rw [venueOpen, bad, refuseIf_true]

/-- Past the value checks of VENUE_OPEN. -/
theorem venueOpen_of_values {a : VenueOpenArgs} {pa : Fin 4} {pb : Option (Fin 4)} (s : State) (key : a.key ≠ 0)
    (hA : a.portA = some pa.val) (hB : a.portB = pb.map fun p => p.val) (two : pb ≠ some pa) :
    (s.keyTaken a.key none = true → venueOpen a s = .refuse .duplicateKey) ∧
    (s.keyTaken a.key none = false → s.freeVenue = none → venueOpen a s = .refuse .noCapacity) := by
  have other : (some pa.val == pb.map fun p => p.val) = false :=
    beq_eq_false_iff_ne.2 fun e => two (map_portVal_inj (p := some pa) e).symm
  have zero : (a.key == 0) = false := beq_eq_false_iff_ne.2 key
  rw [venueOpen, zero, hA, hB, portBad_val, portBad_map_val, other]
  refine ⟨fun taken => ?_, fun free full => ?_⟩
  · rw [taken]
    rfl
  · rw [free, full]
    rfl

theorem State.openVenue_eq_none {s : State} {n : Nat} (h : 24 ≤ n ∨ ∃ v : Fin 24, n = v.val ∧ (s.venue v).state = .free) :
    s.openVenue n = none := by
  rcases h with le | ⟨v, rfl, free⟩
  · exact State.openVenue_of_le le
  · exact State.openVenue_of_free free

theorem circuitOpen_of_closed {a : CircuitOpenArgs} {s : State} (h : s.openVenue a.venue = none) :
    circuitOpen a s = .refuse .badReference := by
  rw [circuitOpen, h, orBadReference_none]

theorem exec_slotPunch (x : Transfer) (slot : Nat) (arg : SourceArg) (s : State) :
    exec (.slotPunch x slot arg) s = request x 0x51 (fun s => slotCommand slot arg s fun i src =>
      .ok { displaced := (s.slot i).displaced.isSome }
        (slotReport ((s.slot i).punch src) ++
          (match (s.slot i).displaced with | none => [] | some e => slotSourceBytes (some e)))
        (s.setSlot i ((s.slot i).punch src))) s := rfl

/-- What a command that sets a slot's source answers when its checks refuse it, whichever of the two it is. -/
theorem slotCommands_refused {x : Transfer} {s : State} {n : Nat} {arg : SourceArg} {r : Result} (h : Taken x s)
    (refused : ∀ go, slotCommand n arg s go = .refuse r) :
    exec (.slotAssign x n arg) s = .next (s.hold x 0x50 r {} []) ∧
    exec (.slotPunch x n arg) s = .next (s.hold x 0x51 r {} []) := by
  rw [exec_slotAssign, exec_slotPunch]
  exact ⟨request_refuse x _ _ s h (refused _), request_refuse x _ _ s h (refused _)⟩

theorem State.sourceOf_channel_eq_none {s : State} {r : CircuitRef} {ch : Nat}
    (h : s.resolve r = none ∨ ∃ c, s.resolve r = some c ∧ (s.circuit c).channels ≤ ch) :
    s.sourceOf (.channel r ch) = none := by
  rcases h with h | ⟨c, h, le⟩
  · simp [State.sourceOf, h]
  · simp [State.sourceOf, h, Nat.not_lt.2 le]

theorem State.sourceOf_badFlag (s : State) (f : Nat) (r : CircuitRef) (ch : Nat) :
    s.sourceOf (.badFlag f r ch) = s.sourceOf (.channel r ch) := rfl

theorem slotCommand_of_noSlot {n : Nat} (arg : SourceArg) (s : State) (go : Fin 128 → Option SlotSource → Answer)
    (h : 128 ≤ n) : slotCommand n arg s go = .refuse .badReference := by
  rw [slotCommand, inTable_of_le h, orBadReference_none]

theorem slotCommand_of_noSource {arg : SourceArg} {s : State} (i : Fin 128) (go : Fin 128 → Option SlotSource → Answer)
    (h : s.sourceOf arg = none) : slotCommand i.val arg s go = .refuse .badReference := by
  rw [slotCommand, inTable_val, orBadReference_some, h, orBadReference_none]

theorem slotCommand_of_source {arg : SourceArg} {s : State} {src : SlotSource} (i : Fin 128)
    (go : Fin 128 → Option SlotSource → Answer) (h : s.sourceOf arg = some (some src)) :
    slotCommand i.val arg s go = if (s.circuit src.circuit).state = .closing then .refuse .badState
      else refuseIf (sourceFlagBad arg) .badValue (go i (some src)) := by
  rw [slotCommand, inTable_val, orBadReference_some, h, orBadReference_some]
  split
  · next closing => simp [State.sourceClosing, closing]
  · next open' => rw [State.sourceClosing_some open', refuseIf_false]

theorem venueSet_badValue {a : VenueSetArgs} {s : State} {v : Fin 24} (ho : (s.venue v).state ≠ .free)
    (h : a.key = some 0 ∨ a.portA = some none ∨ (∃ p, a.portA = some (some p) ∧ 3 < p) ∨
      (∃ p, a.portB = some (some p) ∧ 3 < p) ∨ (∃ p, a.portA = some (some p) ∧ a.portB = some (some p)) ∨
      (∃ p : Fin 4, a.portA = some (some p.val) ∧ a.portB = none ∧ (s.venue v).pathB.port = some p) ∨
      (∃ p : Fin 4, a.portB = some (some p.val) ∧ a.portA = none ∧ (s.venue v).pathA.port = some p)) :
    venueSet v.val a s = .refuse .badValue := by
  have bad : venueSetBad (s.venue v) a = true := by
    rcases h with h | h | ⟨p, h, lt⟩ | ⟨p, h, lt⟩ | ⟨p, hA, hB⟩ | ⟨p, hA, hB, hp⟩ | ⟨p, hB, hA, hp⟩
    · simp [venueSetBad, h]
    · simp [venueSetBad, h]
    · simp [venueSetBad, h, portBad, lt]
    · simp [venueSetBad, h, portBad, lt]
    · simp [venueSetBad, hA, hB, portAfter]
    · simp [venueSetBad, hA, hB, hp, portAfter]
    · simp [venueSetBad, hA, hB, hp, portAfter]
  rw [venueSet, State.openVenue_of_open ho, orBadReference_some, bad, refuseIf_true]

theorem venueSet_duplicateKey {a : VenueSetArgs} {s : State} {v w : Fin 24} {k : BitVec 16} (ho : (s.venue v).state ≠ .free)
    (hA : a.portA = none) (hB : a.portB = none) (two : (s.venue v).pathA.port ≠ (s.venue v).pathB.port)
    (given : a.key = some k) (zero : k ≠ 0) (hw : w ≠ v) (how : (s.venue w).state ≠ .free) (hk : (s.venue w).key = k) :
    venueSet v.val a s = .refuse .duplicateKey := by
  have good : venueSetBad (s.venue v) a = false := by
    refine venueSetBad_of_ports (by simpa [given] using zero) (by rw [hA]; rfl) (by rw [hB]; rfl)
      (by rw [hA]; exact fun e => nomatch e) fun _ => ?_
    rw [hA, hB]
    exact fun e => two (map_portVal_inj e)
  have taken : (a.key.any fun k => s.keyTaken k (some v)) = true := by
    rw [given]
    exact (State.keyTaken_iff ..).2 ⟨w, how, hk, fun e => hw (Option.some.inj e)⟩
  rw [venueSet, State.openVenue_of_open ho, orBadReference_some, good, refuseIf_false, taken, refuseIf_true]

theorem venueOpen_refusals {x : Transfer} {a : VenueOpenArgs} {s : State} (h : Taken x s) :
    ((a.key = 0 ∨ a.portA = none ∨ (∃ p, a.portA = some p ∧ 3 < p) ∨ (∃ p, a.portB = some p ∧ 3 < p) ∨
        a.portA = a.portB) → exec (.venueOpen x a) s = .next (s.hold x 0x10 .badValue {} [])) ∧
    ∀ (pa : Fin 4) (pb : Option (Fin 4)), a.key ≠ 0 → a.portA = some pa.val → a.portB = pb.map (fun p => p.val) →
      pb ≠ some pa →
      ((∃ w, (s.venue w).state ≠ .free ∧ (s.venue w).key = a.key) →
        exec (.venueOpen x a) s = .next (s.hold x 0x10 .duplicateKey {} [])) ∧
      ((∀ w, (s.venue w).state ≠ .free ∧ (s.venue w).key ≠ a.key) →
        exec (.venueOpen x a) s = .next (s.hold x 0x10 .noCapacity {} [])) := by
  rw [exec_venueOpen]
  refine ⟨fun bad => request_refuse x _ _ s h (venueOpen_badValue s bad), fun pa pb key hA hB two => ?_⟩
  obtain ⟨duplicate, full⟩ := venueOpen_of_values s key hA hB two
  refine ⟨fun ⟨w, how, hk⟩ => request_refuse x _ _ s h (duplicate ((State.keyTaken_iff ..).2 ⟨w, how, hk, fun e => nomatch e⟩)),
    fun all => request_refuse x _ _ s h (full (State.keyTaken_of_distinct fun w _ _ => (all w).2) ?_)⟩
  exact List.find?_eq_none.2 fun w _ => by simpa [Venue.isOpen] using (all w).1

theorem circuitOpen_refusals {x : Transfer} {a : CircuitOpenArgs} {s : State} {v : Fin 24} (h : Taken x s)
    (ha : a.venue = v.val) (ho : (s.venue v).state ≠ .free) {kind ch : Nat} (hf : a.form = .direct kind ch) :
    ((a.tag = 255 ∨ kind ∉ [1, 2, 3] ∨ ch ∉ [1, 2] ∨ a.window ∉ [64, 128, 256, 512] ∨
        (a.window - 4) * 96 < (s.venue v).settings.target) →
      exec (.circuitOpen x a) s = .next (s.hold x 0x20 .badValue {} [])) ∧
    (a.tag ≠ 255 → kind ∈ [1, 2, 3] → ch ∈ [1, 2] → a.window ∈ [64, 128, 256, 512] →
        (s.venue v).settings.target ≤ (a.window - 4) * 96 →
      ((∃ d ∈ (s.venue v).circuits, (s.circuit d).tag = some a.tag) →
        exec (.circuitOpen x a) s = .next (s.hold x 0x20 .duplicateKey {} [])) ∧
      ((∀ d ∈ (s.venue v).circuits, (s.circuit d).tag ≠ some a.tag) →
        (8 ≤ (s.venue v).circuits.length ∨ s.poolFree < ch * a.window ∨ ∀ d, (s.circuit d).state ≠ .free) →
        exec (.circuitOpen x a) s = .next (s.hold x 0x20 .noCapacity {} []))) := by
  have form : readForm (s.venue v) a.tag a.form = some (kindOf kind, ch) := by rw [hf, readForm]
  have checks := circuitOpen_of_form ha ho form
  have bad := circuitValueBad_iff (s.venue v) a (kindOf kind) ch
  rw [kindOf_eq_none_iff, hf] at bad
  rw [exec_circuitOpen]
  refine ⟨fun value => request_refuse x _ _ s h ?_, fun tag hk hc hw ht => ?_⟩
  · rw [checks, bad.2, refuseIf_true]
    rcases value with e | e | e | e | e
    · exact .inl e
    · exact .inr (.inl ⟨rfl, .inl e⟩)
    · exact .inr (.inl ⟨rfl, .inr e⟩)
    · exact .inr (.inr (.inl e))
    · exact .inr (.inr (.inr e))
  · have good : circuitValueBad (s.venue v) a (kindOf kind) ch = false := by
      rw [← Bool.not_eq_true, bad]
      rintro (e | ⟨_, e | e⟩ | e | e)
      · exact tag e
      · exact e hk
      · exact e hc
      · exact e hw
      · omega
    rw [good, refuseIf_false] at checks
    refine ⟨fun same => request_refuse x _ _ s h ?_, fun other full => request_refuse x _ _ s h ?_⟩
    · rw [checks, State.tagged_isSome same, refuseIf_true]
    · rw [checks, State.tagged_eq_none other, Option.isSome_none, refuseIf_false]
      rcases full with e | e | e
      · rw [decide_eq_true e]
        rfl
      · rw [decide_eq_true e, Bool.or_true]
        rfl
      · rw [State.freeRecordIndex_eq_none e]
        cases decide (8 ≤ (s.venue v).circuits.length) || decide (s.poolFree < ch * a.window) <;> rfl

/-- Settles O16. -/
theorem refusalsInOrderOfChecks : Obligations.RefusalsInOrderOfChecks := by
  refine ⟨⟨fun x a s h => venueOpen_refusals h, fun x a s h => ⟨fun le => ?_, fun v ha => ⟨fun free => ?_, fun ho =>
    ⟨fun hf none' => ?_, fun kind ch hf => circuitOpen_refusals h ha ho hf⟩⟩⟩⟩, fun x s h => ⟨fun n src le => ?_,
    fun i r ch => ⟨fun missing => ?_, fun c hr hc closing => ?_, fun flag missing => ?_, fun flag c hr hc => ?_⟩⟩,
    fun x a s h => ⟨fun n closed => ?_, fun v ho => ⟨fun bad => ?_, fun k w hA hB two given zero hw how hk => ?_,
      fun o le => ?_⟩⟩⟩
  · rw [exec_circuitOpen]
    exact request_refuse x _ _ s h (circuitOpen_of_closed (State.openVenue_of_le le))
  · rw [exec_circuitOpen]
    exact request_refuse x _ _ s h (circuitOpen_of_closed (by rw [ha, State.openVenue_of_free free]))
  · have unread : readForm (s.venue v) a.tag a.form = none := by
      rw [hf, readForm, List.find?_eq_none.2 fun e he => by simpa using none' e he]
      rfl
    rw [exec_circuitOpen]
    exact request_refuse x _ _ s h (by
      rw [circuitOpen, ha, State.openVenue_of_open ho, orBadReference_some]
      dsimp only
      rw [unread])
  · obtain ⟨assign, punch⟩ := slotCommands_refused h fun go => slotCommand_of_noSlot src s go le
    exact ⟨assign, punch, by
      rw [exec_slotRelease]
      exact request_refuse x _ _ s h (by rw [inTable_of_le le, orBadReference_none])⟩
  · exact slotCommands_refused h fun go => slotCommand_of_noSource i go (State.sourceOf_channel_eq_none missing)
  · exact slotCommands_refused h fun go => by
      rw [slotCommand_of_source i go (State.sourceOf_channel hr hc), if_pos closing]
  · exact slotCommands_refused h fun go => slotCommand_of_noSource i go
      (by rw [State.sourceOf_badFlag, State.sourceOf_channel_eq_none missing])
  · refine slotCommands_refused h fun go => ?_
    rw [slotCommand_of_source i go ((s.sourceOf_badFlag flag r ch).trans (State.sourceOf_channel hr hc))]
    split <;> rfl
  · have missing := State.openVenue_eq_none closed
    refine ⟨?_, fun o => ?_, ?_⟩
    · rw [exec_venueSet]
      exact request_refuse x _ _ s h (by rw [venueSet, missing, orBadReference_none])
    · rw [exec_venueRetire]
      exact request_refuse x _ _ s h (by rw [venueRetire, missing, orBadReference_none])
    · rw [exec_venueRetireForce]
      exact request_refuse x _ _ s h (by rw [venueRetireForce, missing, orBadReference_none])
  · rw [exec_venueSet]
    exact request_refuse x _ _ s h (venueSet_badValue ho bad)
  · rw [exec_venueSet]
    exact request_refuse x _ _ s h (venueSet_duplicateKey ho hA hB two given zero hw how hk)
  · rw [exec_venueRetire]
    refine request_refuse x _ _ s h ?_
    rw [venueRetire, State.openVenue_of_open ho, orBadReference_some]
    split
    · next empty =>
      have other : (o != 0) = true := bne_iff_ne.2 (by omega)
      rw [empty, other]
      rfl
    · next some' => rw [List.isEmpty_eq_false_iff.2 some']; rfl

end Sys2Proof.Machine
end

section
/-! PROOFS. Settings of circuits, ports and rates (R35 to R37, R58, R92, R93). -/

namespace Sys2Proof.Machine

/-! ### Clamped values -/

theorem clampInt_bne (lo hi x : Int) (h : lo ≤ hi) : (clampInt lo hi x != x) = decide (x < lo ∨ hi < x) := by
  rw [Bool.eq_iff_iff, bne_iff_ne, decide_eq_true_eq, clampInt]
  omega

theorem clampNat_bne (lo hi x : Nat) (h : lo ≤ hi) : (clampNat lo hi x != x) = decide (x < lo ∨ hi < x) := by
  rw [Bool.eq_iff_iff, bne_iff_ne, decide_eq_true_eq, clampNat]
  omega

theorem clampOr_zero (hi old : Nat) (g : Option Nat) :
    clampOr 0 hi old g = match g with | none => old | some n => min hi n := by
  cases g with
  | none => rfl
  | some n => exact Nat.zero_max _

theorem flagOf_of_le_one {k : Nat} (h : k ≤ 1) : flagOf k = some (k == 1) := by
  match k, h with
  | 0, _ => rfl
  | 1, _ => rfl

theorem codeOk_flagOf {g : Option Nat} (h : ∀ k, g = some k → k ≤ 1) : codeOk flagOf g = true := by
  cases g with
  | none => rfl
  | some k => rw [codeOk, flagOf_of_le_one (h k rfl)]; rfl

theorem codeOr_flagOf (old : Bool) (g : Option Nat) : (∀ k, g = some k → k ≤ 1) →
    codeOr flagOf old g = match g with | none => old | some k => k == 1 := by
  intro h
  cases g with
  | none => rfl
  | some k => rw [codeOr, flagOf_of_le_one (h k rfl)]; rfl

/-! ### CIRCUIT_SET, CIRCUIT_TRIM, CIRCUIT_REARM -/

theorem exec_circuitSet (x : Transfer) (a : CircuitSetArgs) (r : CircuitRef) (s : State) :
    exec (.circuitSet x a r) s = request x 0x21 (circuitSet a r) s := rfl

theorem exec_circuitTrim (x : Transfer) (d : Int) (r : CircuitRef) (s : State) :
    exec (.circuitTrim x d r) s = request x 0x22 (circuitTrim d r) s := rfl

theorem exec_circuitRearm (x : Transfer) (r : CircuitRef) (s : State) :
    exec (.circuitRearm x r) s = request x 0x23 (circuitRearm r) s := rfl

/-- R35: h after a new H, by the circuit's state. -/
theorem Circuit.change_hold (x : Circuit) (a : CircuitSetArgs) : (x.change a).hold = match a.hold, x.state with
    | some _, .armed | some _, .running => (x.change a).holdInit
    | some _, .concealing => min x.hold (x.change a).holdInit
    | _, _ => x.hold := by
  rw [Circuit.change]
  cases a.hold with
  | none => rfl
  | some n => cases x with | mk state => cases state <;> rfl

theorem circuitSettings_eq (x : Circuit) : circuitSettings x =
    be 2 x.level ++ be 2 x.holdInit ++ [if x.autoRearm then 1 else 0] ++ be 1 x.fadeLength := by
  rw [circuitSettings, flagByte_eq_singleton]
  rfl

theorem circuitSet_of_resolve {a : CircuitSetArgs} {r : CircuitRef} {s : State} {c : Fin 128} (hr : s.resolve r = some c)
    (open' : (s.circuit c).state ≠ .closing) (code : codeOk flagOf a.autoRearm = true) :
    circuitSet a r s = .ok
      { clamped := wasClamped ((s.circuit c).change a).level a.level ||
          wasClamped ((s.circuit c).change a).holdInit a.hold || wasClamped ((s.circuit c).change a).fadeLength a.fade }
      (circuitSettings ((s.circuit c).change a)) (s.setCircuit c ((s.circuit c).change a)) := by
  rw [circuitSet, hr, orBadReference_some, beq_false_of_ne open', code]
  rfl

theorem circuitTrim_of_resolve {d : Int} {r : CircuitRef} {s : State} {c : Fin 128} (hr : s.resolve r = some c)
    (open' : (s.circuit c).state ≠ .closing) : circuitTrim d r s = .ok
      { clamped := clampInt (-16383) 16383 d != d
        saturated := clampInt 0 16383 (trimSum (s.circuit c).level d) != trimSum (s.circuit c).level d }
      (u16 (clampInt 0 16383 (trimSum (s.circuit c).level d)).toNat)
      (s.modCircuit c fun x => { x with level := (clampInt 0 16383 (trimSum (s.circuit c).level d)).toNat }) := by
  rw [circuitTrim, hr, orBadReference_some, beq_false_of_ne open']
  rfl

theorem circuitRearm_of_resolve {r : CircuitRef} {s : State} {c : Fin 128} (hr : s.resolve r = some c)
    (open' : (s.circuit c).state ≠ .closing) : circuitRearm r s = .ok {}
      (u8 (circuitStateCode (s.circuit c).rearm.state) ++ u16 (s.circuit c).rearm.hold)
      (s.setCircuit c (s.circuit c).rearm) := by
  rw [circuitRearm, hr, orBadReference_some, beq_false_of_ne open']
  rfl

theorem Circuit.rearm_of_lost {x : Circuit} (h : x.state = .lost) :
    x.rearm = { x with state := .armed, hold := x.holdInit } := by
  rw [Circuit.rearm, h]

theorem Circuit.rearm_of_concealing {x : Circuit} (h : x.state = .concealing) :
    x.rearm = { x with hold := x.holdInit } := by
  rw [Circuit.rearm, h]

theorem Circuit.rearm_of_standing {x : Circuit} (h : x.state = .armed ∨ x.state = .running) : x.rearm = x := by
  rcases h with h | h <;> rw [Circuit.rearm, h]

theorem circuitSet_settings {x : Transfer} {a : CircuitSetArgs} {r : CircuitRef} {s : State} {c : Fin 128} (h : Taken x s)
    (hr : s.resolve r = some c) (open' : (s.circuit c).state ≠ .closing) (code : ∀ k, a.autoRearm = some k → k ≤ 1) :
    ∃ (f : Flags) (y : Circuit),
      exec (.circuitSet x a r) s = .next ((s.setCircuit c y).hold x 0x21 .ok f
        (be 2 y.level ++ be 2 y.holdInit ++ [if y.autoRearm then 1 else 0] ++ be 1 y.fadeLength)) ∧
      y = { s.circuit c with level := y.level, holdInit := y.holdInit, hold := y.hold,
                             autoRearm := y.autoRearm, fadeLength := y.fadeLength } ∧
      y.level = (match a.level with | none => (s.circuit c).level | some l => min 16383 l) ∧
      y.holdInit = (match a.hold with | none => (s.circuit c).holdInit | some h => max 1 (min 65535 h)) ∧
      y.hold = (match a.hold, (s.circuit c).state with
        | some _, .armed | some _, .running => y.holdInit
        | some _, .concealing => min (s.circuit c).hold y.holdInit
        | _, _ => (s.circuit c).hold) ∧
      y.autoRearm = (match a.autoRearm with | none => (s.circuit c).autoRearm | some k => k == 1) ∧
      y.fadeLength = (match a.fade with | none => (s.circuit c).fadeLength | some k => min 255 k) ∧
      (f.clamped = true ↔ (∃ l, a.level = some l ∧ 16383 < l) ∨
        (∃ h, a.hold = some h ∧ (h = 0 ∨ 65535 < h)) ∨ (∃ k, a.fade = some k ∧ 255 < k)) ∧
      f = { clamped := f.clamped } := by
  refine ⟨{ clamped := wasClamped ((s.circuit c).change a).level a.level ||
      wasClamped ((s.circuit c).change a).holdInit a.hold || wasClamped ((s.circuit c).change a).fadeLength a.fade },
    (s.circuit c).change a, ?_, rfl, clampOr_zero .., ?_, Circuit.change_hold .., codeOr_flagOf _ _ code, clampOr_zero .., ?_, rfl⟩
  · rw [exec_circuitSet, ← circuitSettings_eq]
    exact request_ok x _ _ s h (circuitSet_of_resolve hr open' (codeOk_flagOf code))
  · change clampOr 1 65535 (s.circuit c).holdInit a.hold = _
    cases a.hold <;> rfl
  · simp only [Bool.or_eq_true, or_assoc]
    change (wasClamped (clampOr 0 16383 (s.circuit c).level a.level) a.level = true ∨
      wasClamped (clampOr 1 65535 (s.circuit c).holdInit a.hold) a.hold = true ∨
      wasClamped (clampOr 0 255 (s.circuit c).fadeLength a.fade) a.fade = true) ↔ _
    rw [wasClamped_clampOr _ _ _ _ (by decide), wasClamped_clampOr _ _ _ _ (by decide),
      wasClamped_clampOr _ _ _ _ (by decide)]
    simp only [Nat.not_lt_zero, false_or, Nat.lt_one_iff]

theorem circuitTrim_level {x : Transfer} {d : Int} {r : CircuitRef} {s : State} {c : Fin 128} (h : Taken x s)
    (hr : s.resolve r = some c) (open' : (s.circuit c).state ≠ .closing) : ∃ (delta : Int) (level : Nat),
      exec (.circuitTrim x d r) s = .next ((s.setCircuit c { s.circuit c with level := level }).hold x 0x22
        .ok { clamped := decide (d < -16383 ∨ 16383 < d)
              saturated := decide ((s.circuit c).level + delta < 0 ∨ 16383 < (s.circuit c).level + delta) }
        (be 2 level)) ∧
      ((d < -16383 ∧ delta = -16383) ∨ (-16383 ≤ d ∧ d ≤ 16383 ∧ delta = d) ∨ (16383 < d ∧ delta = 16383)) ∧
      (((s.circuit c).level + delta < 0 ∧ level = 0) ∨ (16383 < (s.circuit c).level + delta ∧ level = 16383) ∨
        (0 ≤ (s.circuit c).level + delta ∧ (s.circuit c).level + delta ≤ 16383 ∧
          (level : Int) = (s.circuit c).level + delta)) := by
  refine ⟨clampInt (-16383) 16383 d, (clampInt 0 16383 (trimSum (s.circuit c).level d)).toNat, ?_, ?_, ?_⟩
  · rw [exec_circuitTrim, ← clampInt_bne _ _ _ (by decide), ← clampInt_bne _ _ _ (by decide)]
    exact request_ok x _ _ s h (circuitTrim_of_resolve hr open')
  · simp only [clampInt]
    omega
  · simp only [trimSum, clampInt]
    omega

/-- Settles O17. -/
theorem circuitSettingsFollowCommands : Obligations.CircuitSettingsFollowCommands := by
  refine ⟨fun x a r s h => ⟨fun hr => ?_, fun c hr => ⟨fun closing => ?_, circuitSet_settings h hr⟩⟩,
    fun x d r s h => ⟨fun hr => ?_, fun c hr => ⟨fun closing => ?_, circuitTrim_level h hr⟩⟩,
    fun x r s h => ⟨fun hr => ?_, fun c hr => ⟨fun closing => ?_, fun lost => ?_, fun concealing => ?_, fun armed => ?_,
      fun running => ?_⟩⟩⟩
  · rw [exec_circuitSet]
    exact request_refuse x _ _ s h (by rw [circuitSet, hr, orBadReference_none])
  · rw [exec_circuitSet]
    exact request_refuse x _ _ s h (by rw [circuitSet, hr, orBadReference_some, closing]; rfl)
  · rw [exec_circuitTrim]
    exact request_refuse x _ _ s h (by rw [circuitTrim, hr, orBadReference_none])
  · rw [exec_circuitTrim]
    exact request_refuse x _ _ s h (by rw [circuitTrim, hr, orBadReference_some, closing]; rfl)
  · rw [exec_circuitRearm]
    exact request_refuse x _ _ s h (by rw [circuitRearm, hr, orBadReference_none])
  · rw [exec_circuitRearm]
    exact request_refuse x _ _ s h (by rw [circuitRearm, hr, orBadReference_some, closing]; rfl)
  · rw [exec_circuitRearm]
    refine request_ok x _ _ s h ((circuitRearm_of_resolve hr (by simp [lost])).trans ?_)
    rw [Circuit.rearm_of_lost lost, u8_eq_singleton]
    rfl
  · rw [exec_circuitRearm]
    refine request_ok x _ _ s h ((circuitRearm_of_resolve hr (by simp [concealing])).trans ?_)
    have code : circuitStateCode (s.circuit c).rearm.state = 3 := by
      rw [Circuit.rearm_of_concealing concealing]
      exact congrArg circuitStateCode concealing
    rw [code, Circuit.rearm_of_concealing concealing, u8_eq_singleton]
    rfl
  · rw [exec_circuitRearm]
    refine request_ok x _ _ s h ((circuitRearm_of_resolve hr (by simp [armed])).trans ?_)
    rw [Circuit.rearm_of_standing (.inl armed), State.setCircuit_self, armed, u8_eq_singleton]
    rfl
  · rw [exec_circuitRearm]
    refine request_ok x _ _ s h ((circuitRearm_of_resolve hr (by simp [running])).trans ?_)
    rw [Circuit.rearm_of_standing (.inr running), State.setCircuit_self, running, u8_eq_singleton]
    rfl

/-! ### PORT_SET -/

theorem exec_portSet (x : Transfer) (p : Nat) (a : PortSetArgs) (s : State) :
    exec (.portSet x p a) s = request x 0x30 (portSet p a) s := rfl

/-- A flag byte of the domain filter that holds no code (R170). -/
def domainFlagBad (a : PortSetArgs) : Bool :=
  match a.domain with | some (.badFlag _) => true | _ => false

theorem portSet_of_port (p : Fin 4) (a : PortSetArgs) (s : State) : portSet p.val a s =
    refuseIf (portValueBad a) .badValue
    (refuseIf (codeOr flagOf (s.port p).enable a.enable && a.address.getD (s.port p).address == 0) .badValue
    (refuseIf (!codeOk flagOf a.enable || domainFlagBad a) .badValue
    (.ok {} (portSettings ((s.port p).configure a)) (s.setPort p ((s.port p).configure a))))) := by
  rw [portSet, inTable_val, orBadReference_some, State.modPort_eq]
  dsimp only
  rw [State.setPort_port]
  rfl

theorem isTagType_toNat (e : BitVec 16) : isTagType e.toNat = true ↔ e = 0x8100 ∨ e = 0x88A8 := by
  simp only [isTagType, Bool.or_eq_true, beq_iff_eq, BitVec.toNat_eq]
  rfl

theorem codeOk_tagModeOf (g : Option Nat) : codeOk tagModeOf g = true ↔ ∀ m, g = some m → m ≤ 2 := by
  match g with
  | none => simp [codeOk]
  | some 0 => simp [codeOk, tagModeOf]
  | some 1 => simp [codeOk, tagModeOf]
  | some 2 => simp [codeOk, tagModeOf]
  | some (m + 3) => simp [codeOk, tagModeOf]

/-- A domain that does not fit a byte (R58). -/
def domainValueBad (a : PortSetArgs) : Bool :=
  match a.domain with | some (.value d) => decide (255 < d) | _ => false

theorem domainValueBad_iff (a : PortSetArgs) : domainValueBad a = true ↔ ∃ d, a.domain = some (.value d) ∧ 255 < d := by
  rw [domainValueBad]
  cases a.domain with
  | none => simp
  | some d => cases d <;> simp

theorem domainFlagBad_iff (a : PortSetArgs) : domainFlagBad a = true ↔ ∃ k, a.domain = some (.badFlag k) := by
  rw [domainFlagBad]
  cases a.domain with
  | none => simp
  | some d => cases d <;> simp

theorem portValueBad_eq (a : PortSetArgs) : portValueBad a =
    ((a.etherType.any fun e => decide (e.toNat < 0x0600) || isTagType e.toNat) || !codeOk tagModeOf a.tagMode ||
      domainValueBad a || a.address.any isGroup) := rfl

theorem portValueBad_iff (a : PortSetArgs) : portValueBad a = true ↔
    (∃ e, a.etherType = some e ∧ (e.toNat < 0x0600 ∨ e = 0x8100 ∨ e = 0x88A8)) ∨ (∃ m, a.tagMode = some m ∧ 2 < m) ∨
    (∃ d, a.domain = some (.value d) ∧ 255 < d) ∨ ∃ m, a.address = some m ∧ m.getLsbD 40 = true := by
  have mode : (!codeOk tagModeOf a.tagMode) = true ↔ ∃ m, a.tagMode = some m ∧ 2 < m := by
    rw [Bool.not_eq_true', ← Bool.not_eq_true, codeOk_tagModeOf]
    simp only [not_forall, not_le, exists_prop]
  rw [portValueBad_eq, Bool.or_eq_true, Bool.or_eq_true, Bool.or_eq_true, mode, domainValueBad_iff]
  simp only [Option.any_eq_true, Bool.or_eq_true, decide_eq_true_eq, isTagType_toNat, isGroup, or_assoc]

theorem codeOr_enable_iff (old : Bool) (g : Option Nat) (h : ∀ k, g = some k → k ≤ 1) :
    codeOr flagOf old g = true ↔ (g = none ∧ old = true) ∨ g = some 1 := by
  rw [codeOr_flagOf old g h]
  cases g with
  | none => simp
  | some k => simp

theorem Port.configure_fields (pt : Port) (a : PortSetArgs) :
    (((pt.enable = false ∨ (pt.configure a).enable = true) →
      (pt.configure a).queue = pt.queue ∧ (pt.configure a).dropped = pt.dropped)) ∧
    (pt.enable = true → (pt.configure a).enable = false →
      (pt.configure a).queue = [] ∧ (pt.configure a).dropped = min 65535 (pt.dropped + pt.queue.length)) ∧
    pt.configure a = { pt with
      enable := (pt.configure a).enable, address := (pt.configure a).address, etherType := (pt.configure a).etherType
      tagMode := (pt.configure a).tagMode, domain := (pt.configure a).domain, queue := (pt.configure a).queue
      dropped := (pt.configure a).dropped } := by
  have enable : (pt.configure a).enable = codeOr flagOf pt.enable a.enable := rfl
  rw [enable]
  rw [Port.configure]
  cases pt.enable <;> cases codeOr flagOf _ a.enable <;>
    exact ⟨by simp, by simp [Port.dropQueue, satAdd], rfl⟩

/-- Three checks that refuse alike. -/
theorem refuseIf_badValue {a b c : Bool} {go : Answer} (h : a = true ∨ b = true ∨ c = true) :
    refuseIf a .badValue (refuseIf b .badValue (refuseIf c .badValue go)) = .refuse .badValue := by
  rcases h with rfl | rfl | rfl
  · rfl
  · cases a <;> rfl
  · cases a <;> cases b <;> rfl

/-- Settles O19. -/
theorem portSetStoresSettings : Obligations.PortSetStoresSettings := by
  intro x a s h
  refine ⟨fun n le => ?_, fun p => ⟨fun bad => ?_, fun het hm hd ha he hz => ?_⟩⟩
  · rw [exec_portSet]
    exact request_refuse x _ _ s h (by rw [portSet, inTable_of_le le, orBadReference_none])
  · rw [exec_portSet]
    refine request_refuse x _ _ s h ?_
    rw [portSet_of_port]
    refine refuseIf_badValue ?_
    rw [portValueBad_iff, Bool.or_eq_true, domainFlagBad_iff]
    rcases bad with e | e | e | e | e | ⟨on, zero⟩
    · exact .inl (.inl e)
    · exact .inl (.inr (.inl e))
    · exact .inl (.inr (.inr (.inl e)))
    · exact .inr (.inr (.inr e))
    · exact .inl (.inr (.inr (.inr e)))
    · refine .inr (.inl ?_)
      rcases on with ⟨e, on⟩ | e
      · simp [e, on, zero, codeOr]
      · simp [e, zero, codeOr, flagOf]
  · have value : portValueBad a = false := by
      rw [← Bool.not_eq_true, portValueBad_iff]
      rintro (⟨e, given, bad⟩ | ⟨m, given, bad⟩ | ⟨d, given, bad⟩ | ⟨m, given, bad⟩)
      · obtain ⟨low, single, double⟩ := het e given
        rcases bad with bad | bad | bad
        · omega
        · exact single bad
        · exact double bad
      · exact absurd (hm m given) (by omega)
      · rcases hd _ given with e | ⟨k, le, e⟩
        · cases e
        · cases e
          omega
      · rw [ha m given] at bad
        cases bad
    have zero : (codeOr flagOf (s.port p).enable a.enable && a.address.getD (s.port p).address == 0) = false := by
      rw [← Bool.not_eq_true, Bool.and_eq_true, codeOr_enable_iff _ _ he, beq_iff_eq]
      exact fun ⟨on, e⟩ => hz on e
    have flag : domainFlagBad a = false := by
      rw [← Bool.not_eq_true, domainFlagBad_iff]
      rintro ⟨k, given⟩
      rcases hd _ given with e | ⟨_, _, e⟩ <;> cases e
    obtain ⟨kept, dropped, rest⟩ := (s.port p).configure_fields a
    refine ⟨(s.port p).configure a, ?_, codeOr_flagOf _ _ he, rfl, rfl, ?_, ?_, kept, dropped, rest⟩
    · rw [exec_portSet]
      exact request_ok x _ _ s h (by rw [portSet_of_port, value, zero, codeOk_flagOf he, flag]; rfl)
    · change codeOr tagModeOf (s.port p).tagMode a.tagMode = _
      cases given : a.tagMode with
      | none => rfl
      | some m =>
        match m, hm m given with
        | 0, _ => rfl
        | 1, _ => rfl
        | 2, _ => rfl
    · change domainOr (s.port p).domain a.domain = _
      cases a.domain with
      | none => rfl
      | some d => cases d <;> rfl

/-! ### VENUE_RATE -/

theorem exec_venueRate (x : Transfer) (i : Nat) (m : Option Nat) (a : RateArgs) (s : State) :
    exec (.venueRate x i m a) s = request x 0x41 (venueRate i m a) s := rfl

theorem exec_venueRateStepped (x : Transfer) (i : Nat) (a : RateArgs) (s : State) :
    exec (.venueRateStepped x i a) s = request x 0x41 (venueRate i (some 1) a) s := rfl

/-- VENUE_RATE of an open venue: its three checks, then the rates. -/
theorem venueRate_of_open {s : State} {v : Fin 24} (ho : (s.venue v).state ≠ .free) (m : Option Nat) (a : RateArgs) :
    venueRate v.val m a s =
      refuseIf ((a.rate.isSome && m.isNone) || !codeOk flagOf m) .badValue
      (refuseIf (m == some 1 && (s.venue v).state == .waiting) .badState
      (refuseIf (!codeOk frozenOf a.frozen) .badValue
      (.ok { clamped := rateClamped a } (rateReport ((s.venue v).timebase.applyRate (m == some 1) a))
        (s.setVenue v { s.venue v with timebase := (s.venue v).timebase.applyRate (m == some 1) a })))) := by
  rw [venueRate, State.openVenue_of_open ho, orBadReference_some, State.modVenue_eq]
  dsimp only
  rw [State.setVenue_venue]
  rfl

theorem codeOk_frozenOf {g : Option Nat} (h : ∀ k, g = some k → k ≤ 2) : codeOk frozenOf g = true := by
  cases g with
  | none => rfl
  | some k =>
    match k, h k rfl with
    | 0, _ => rfl
    | 1, _ => rfl
    | 2, _ => rfl

theorem clampRate_eq (r : Int) : clampRate r = max (-1073741) (min 1073741 r) := rfl

theorem rateClamped_eq (a : RateArgs) : rateClamped a =
    decide ((∃ r, a.rate = some r ∧ (r < -1073741 ∨ 1073741 < r)) ∨ (∃ k, a.step = some k ∧ (k = 0 ∨ 65535 < k)) ∨
      (∃ k, a.settle = some k ∧ (k = 0 ∨ 127 < k))) := by
  have any : rateClamped a = (a.rate.any (fun r => clampRate r != r) || a.step.any (fun k => clampNat 1 65535 k != k) ||
      a.settle.any fun k => clampNat 1 127 k != k) := by
    rw [rateClamped]
    cases a.rate <;> cases a.step <;> cases a.settle <;> rfl
  have rate : ∀ r, (clampRate r != r) = decide (r < -1073741 ∨ 1073741 < r) := fun r => clampInt_bne _ _ r (by decide)
  rw [any, Bool.eq_iff_iff]
  simp only [rate, clampNat_bne _ _ _ (show 1 ≤ 65535 by decide), clampNat_bne _ _ _ (show 1 ≤ 127 by decide),
    Bool.or_eq_true, Option.any_eq_true, decide_eq_true_eq, Nat.lt_one_iff, or_assoc]

/-- What VENUE_RATE stores beside the rate. -/
theorem Timebase.storeRateSettings_fields (t : Timebase) (a : RateArgs) :
    (t.storeRateSettings a).step = (match a.step with | none => t.step | some k => max 1 (min 65535 k)) ∧
    (t.storeRateSettings a).settle = (match a.settle with | none => t.settle | some k => max 1 (min 127 k)) ∧
    (t.storeRateSettings a).frozen = (match a.frozen with | some 1 => true | some 2 => false | _ => t.frozen) ∧
    t.storeRateSettings a = { t with
      step := (t.storeRateSettings a).step, settle := (t.storeRateSettings a).settle
      frozen := (t.storeRateSettings a).frozen } := by
  refine ⟨rfl, rfl, ?_, rfl⟩
  rw [Timebase.storeRateSettings]
  cases a.frozen with
  | none => rfl
  | some n =>
    match n with
    | 0 => rfl
    | 1 => rfl
    | 2 => rfl
    | _ + 3 => rfl

/-- Settings stored, then a walk begun or left off, keep what the settings are. -/
theorem Timebase.setStepped_fields (t : Timebase) (r : Int) :
    (t.setStepped r).rhoCmd = r ∧ (r ≠ t.rhoP → (t.setStepped r).active = true ∧ (t.setStepped r).countdown = t.settle) ∧
    (r = t.rhoP → (t.setStepped r).active = false ∧ (t.setStepped r).countdown = 0) ∧
    t.setStepped r = { t with rhoCmd := r, active := (t.setStepped r).active, countdown := (t.setStepped r).countdown } := by
  rw [Timebase.setStepped]
  split
  · next e => exact ⟨rfl, fun ne => absurd e ne, fun _ => ⟨rfl, rfl⟩, rfl⟩
  · next ne => exact ⟨rfl, fun _ => ⟨rfl, rfl⟩, fun e => absurd e ne, rfl⟩

theorem Timebase.applyRate_of_none {t : Timebase} {a : RateArgs} (b : Bool) (h : a.rate = none) :
    t.applyRate b a = t.storeRateSettings a := by
  rw [Timebase.applyRate, h]

theorem Timebase.applyRate_immediate {t : Timebase} {a : RateArgs} {r : Int} (h : a.rate = some r) :
    t.applyRate false a = (t.storeRateSettings a).setImmediate (clampRate r) := by
  rw [Timebase.applyRate, h]
  rfl

theorem Timebase.applyRate_stepped {t : Timebase} {a : RateArgs} {r : Int} (h : a.rate = some r) :
    t.applyRate true a = (t.storeRateSettings a).setStepped (clampRate r) := by
  rw [Timebase.applyRate, h]
  rfl

/-- A rate given or not, the settings are stored, and nothing changes that VENUE_RATE does not speak of. -/
theorem Timebase.applyRate_false_fields (t : Timebase) (a : RateArgs) :
    (t.applyRate false a).step = (t.storeRateSettings a).step ∧
    (t.applyRate false a).settle = (t.storeRateSettings a).settle ∧
    (t.applyRate false a).frozen = (t.storeRateSettings a).frozen ∧
    t.applyRate false a = { t with
      step := (t.applyRate false a).step, settle := (t.applyRate false a).settle, frozen := (t.applyRate false a).frozen
      rhoCmd := (t.applyRate false a).rhoCmd, rhoP := (t.applyRate false a).rhoP
      rhoEff := (t.applyRate false a).rhoEff, active := (t.applyRate false a).active
      countdown := (t.applyRate false a).countdown } := by
  cases given : a.rate with
  | none => rw [Timebase.applyRate_of_none false given]; exact ⟨rfl, rfl, rfl, rfl⟩
  | some r => rw [Timebase.applyRate_immediate given]; exact ⟨rfl, rfl, rfl, rfl⟩

/-- VENUE_RATE without STEPPED, accepted: settings stored, and a rate given set at once. -/
theorem venueRate_immediate {x : Transfer} {a : RateArgs} {mode : Option Nat} {s : State} {v : Fin 24} (h : Taken x s)
    (ho : (s.venue v).state ≠ .free) (hm : mode = some 0 ∨ (mode = none ∧ a.rate = none))
    (hf : ∀ k, a.frozen = some k → k ≤ 2) : exec (.venueRate x v.val mode a) s =
      .next ((s.setVenue v { s.venue v with timebase := (s.venue v).timebase.applyRate false a }).hold x 0x41 .ok
        { clamped := rateClamped a } (rateReport ((s.venue v).timebase.applyRate false a))) := by
  rw [exec_venueRate]
  refine request_ok x _ _ s h ?_
  rw [venueRate_of_open ho, codeOk_frozenOf hf]
  rcases hm with rfl | ⟨rfl, none'⟩
  · rw [Option.isNone_some, Bool.and_false]
    rfl
  · rw [none']
    rfl

/-- Settles O20. -/
theorem venueRateSetsRates : Obligations.VenueRateSetsRates := by
  refine ⟨fun x a mode s h stepped => ⟨fun n closed => ?_, fun v ho => ⟨fun bad => ?_, fun hm hf => ?_⟩⟩,
    fun x s v r step settle frozen h hf => ⟨fun free => ?_, fun waiting => ?_, fun seated => ?_⟩⟩
  · rw [exec_venueRate]
    exact request_refuse x _ _ s h (by rw [venueRate, State.openVenue_eq_none closed, orBadReference_none])
  · rw [exec_venueRate]
    refine request_refuse x _ _ s h ?_
    rw [venueRate_of_open ho]
    rcases bad with ⟨k, rfl, le⟩ | ⟨rfl, given⟩
    · rw [codeOk, flagOf_of_le le, Option.isNone_some, Bool.and_false]
      rfl
    · rw [Option.isSome_iff_ne_none.2 given]
      rfl
  · obtain ⟨hstep, hsettle, hfrozen, _⟩ := (s.venue v).timebase.storeRateSettings_fields a
    obtain ⟨kstep, ksettle, kfrozen, rest⟩ := (s.venue v).timebase.applyRate_false_fields a
    refine ⟨(s.venue v).timebase.applyRate false a, ?_, ?_, ?_, ?_, fun r given => ?_, fun none' => ?_, ?_⟩
    · rw [← rateClamped_eq]
      exact venueRate_immediate h ho hm hf
    · exact kstep.trans hstep
    · exact ksettle.trans hsettle
    · exact kfrozen.trans hfrozen
    · rw [Timebase.applyRate_immediate given]
      exact ⟨rfl, rfl, rfl, rfl, rfl⟩
    · rw [Timebase.applyRate_of_none false none']
      exact ⟨rfl, rfl, rfl, rfl, rfl⟩
    · exact rest
  · rw [exec_venueRateStepped]
    exact request_refuse x _ _ s h (by rw [venueRate, State.openVenue_of_free free, orBadReference_none])
  · rw [exec_venueRateStepped]
    exact request_refuse x _ _ s h (by rw [venueRate_of_open (by simp [waiting]), waiting]; rfl)
  · have ho : (s.venue v).state ≠ .free := by rcases seated with e | e <;> simp [e]
    have hw : ((s.venue v).state == .waiting) = false := by rcases seated with e | e <;> simp [e]
    obtain ⟨hstep, hsettle, _, _⟩ := (s.venue v).timebase.storeRateSettings_fields ⟨some r, step, settle, frozen⟩
    obtain ⟨cmd, walks, idles, rest⟩ :=
      ((s.venue v).timebase.storeRateSettings ⟨some r, step, settle, frozen⟩).setStepped_fields (clampRate r)
    refine ⟨{ clamped := rateClamped ⟨some r, step, settle, frozen⟩ },
      (s.venue v).timebase.applyRate true ⟨some r, step, settle, frozen⟩, ?_, ?_⟩
    · rw [exec_venueRateStepped]
      refine request_ok x _ _ s h ?_
      rw [venueRate_of_open ho, hw, codeOk_frozenOf (g := frozen) hf]
      rfl
    · rw [Timebase.applyRate_stepped rfl]
      refine ⟨cmd, ?_, ?_, fun ne => ?_, fun e => ?_, ?_⟩
      · rw [rest]
        exact hstep
      · rw [rest]
        exact hsettle
      · rw [cmd] at ne
        obtain ⟨active, countdown⟩ := walks ne
        exact ⟨active, by rw [countdown, rest]⟩
      · rw [cmd] at e
        exact idles e
      · rw [rest]
        rfl

end Sys2Proof.Machine
end

section
/-! PROOFS. SLOT_PUNCH and MUTE_MODIFY (sections 7.3 and 7.4, R124, R127). -/

namespace Sys2Proof.Machine

/-! ### SLOT_PUNCH (R124) -/

theorem exec_slotPunch_of_checks {x : Transfer} {s : State} {arg : SourceArg} {src : Option SlotSource}
    (i : Fin 128) (h : Taken x s) (hs : s.sourceOf arg = some src) (open' : s.sourceClosing src = false)
    (flag : sourceFlagBad arg = false) :
    exec (.slotPunch x i.val arg) s = .next ((s.setSlot i ((s.slot i).punch src)).hold x 0x51 .ok
      { displaced := (s.slot i).displaced.isSome }
      (slotReport ((s.slot i).punch src) ++ (((s.slot i).displaced.map fun e => slotSourceBytes (some e)).getD []))) := by
  rw [exec_slotPunch]
  refine request_ok x 0x51 _ s h ?_
  rw [slotCommand_of_checks hs open' flag]
  cases (s.slot i).displaced <;> rfl

theorem Slot.pushed_of_silent {sl : Slot} (h : sl.source = none) : sl.pushed = sl.stack := by
  rw [Slot.pushed, h]

theorem Slot.pushed_of_source {sl : Slot} {old : SlotSource} (h : sl.source = some old) :
    sl.pushed = old :: sl.stack := by
  rw [Slot.pushed, h]

/-- Up to its depth the stack keeps what was pushed, and displaces nothing. -/
theorem Slot.punch_of_room {sl : Slot} (src : Option SlotSource) (h : sl.pushed.length ≤ 4) :
    sl.punch src = { sl with source := src, stack := sl.pushed } ∧ sl.displaced = none :=
  ⟨by rw [Slot.punch, List.take_of_length_le (show _ ≤ Config.stackDepth from h)], List.getElem?_eq_none h⟩

/-- Settles O22, by the three shapes of the slot: NONE, room on the stack, a full stack. -/
theorem slotPunchPushesOldSource : Obligations.SlotPunchPushesOldSource := by
  intro x s i arg src h form
  obtain ⟨hs, open', flag⟩ :
      s.sourceOf arg = some src ∧ s.sourceClosing src = false ∧ sourceFlagBad arg = false := by
    rcases form with ⟨rfl, rfl⟩ | ⟨r, c, ch, rfl, hr, hc, open', rfl⟩
    · exact ⟨rfl, rfl, rfl⟩
    · exact ⟨State.sourceOf_channel hr hc, State.sourceClosing_some open', rfl⟩
  have punched := exec_slotPunch_of_checks i h hs open' flag
  refine ⟨fun silent room => ?_, fun old source room => ?_, fun old e1 e2 e3 e4 source full => ?_⟩
  · have pushed := Slot.pushed_of_silent silent
    obtain ⟨slot, displaced⟩ := Slot.punch_of_room src (by rw [pushed]; exact room)
    rw [punched, slot, displaced, pushed]
    simp
  · have pushed := Slot.pushed_of_source source
    obtain ⟨slot, displaced⟩ := Slot.punch_of_room src
      (by rw [pushed, List.length_cons]; exact Nat.succ_le_succ room)
    rw [punched, slot, displaced, pushed]
    simp
  · have pushed : (s.slot i).pushed = [old, e1, e2, e3, e4] := by rw [Slot.pushed_of_source source, full]
    have displaced : (s.slot i).displaced = some e4 := by rw [Slot.displaced, pushed]; rfl
    have slot : (s.slot i).punch src = { s.slot i with source := src, stack := [old, e1, e2, e3] } := by
      rw [Slot.punch, pushed]; rfl
    rw [punched, slot, displaced]
    rfl

/-! ### MUTE_MODIFY (R127) -/

theorem exec_muteModify (x : Transfer) (bus : Nat) (mask : BitVec 32) (mode : Nat) (s : State) :
    exec (.muteModify x bus mask mode) s = request x 0x54 (muteModify bus mask mode) s := rfl

theorem State.muteBus_slot (s : State) (bus : Nat) (mask : BitVec 32) (m : MaskMode) (i : Fin 128) :
    (s.muteBus bus mask m).slot i = if i.val / 32 = bus then
      { s.slot i with muted := m.apply (mask.getLsbD (i.val % 32)) (s.slot i).muted } else s.slot i := by
  simp only [State.muteBus, State.slot, Fin.getElem_fin, Vector.getElem_ofFn]

theorem State.busMutes_bit (s : State) (b : Fin 4) (i : Fin 128) (h : i.val / 32 = b.val) :
    (s.busMutes b).getLsbD (i.val % 32) = (s.slot i).muted := by
  have lt : i.val % 32 < 32 := Nat.mod_lt _ (by decide)
  have bit := maskOf_getLsbD (fun j : Fin 32 => (s.slot ⟨32 * b.val + j.val, by omega⟩).muted) ⟨i.val % 32, lt⟩
  rw [State.busMutes, bit]
  congr 2
  exact Fin.ext (by simp only; omega)

theorem maskModeOf_of_le {m : Nat} (h : 3 ≤ m) : maskModeOf m = none := by
  match m, h with
  | n + 3, _ => rfl

/-- The three modes of a mask, by their codes. -/
theorem maskModeOf_apply {m : Nat} (h : m ≤ 2) : ∃ mode, maskModeOf m = some mode ∧ ∀ inMask old,
    mode.apply inMask old = if m = 0 then inMask else if m = 1 then old || inMask else old && !inMask := by
  match m, h with
  | 0, _ => exact ⟨.replace, rfl, fun _ _ => rfl⟩
  | 1, _ => exact ⟨.set, rfl, fun _ _ => rfl⟩
  | 2, _ => exact ⟨.clear, rfl, fun _ _ => rfl⟩

/-- Settles O23. -/
theorem muteModifyChangesOneBus : Obligations.MuteModifyChangesOneBus := by
  intro x s mask h
  refine ⟨fun n m le => ?_, fun n m le => ?_, fun n m le => ?_⟩
  · rw [exec_muteModify]
    exact request_refuse x 0x54 _ s h (by rw [muteModify, inTable_of_le le, orBadReference_none])
  · rw [exec_muteModify]
    exact request_refuse x 0x54 _ s h (by rw [muteModify, inTable_val, orBadReference_some, maskModeOf_of_le le])
  · obtain ⟨mode, code, apply⟩ := maskModeOf_apply le
    have slot := s.muteBus_slot n.val mask mode
    refine ⟨s.muteBus n.val mask mode, (s.muteBus n.val mask mode).busMutes n, ?_, fun i => ?_, fun i off => ?_,
      fun i on => ⟨?_, State.busMutes_bit _ n i on⟩, rfl⟩
    · rw [exec_muteModify]
      exact request_ok x 0x54 _ s h (by rw [muteModify, inTable_val, orBadReference_some, code])
    · rw [slot]
      split <;> rfl
    · rw [slot, if_neg off]
    · rw [slot, if_pos on, ← apply]

end Sys2Proof.Machine
end

section
/-! PROOFS. Talkback sources and foldback lanes (sections 8.3, 8.4 and 8.6). -/

namespace Sys2Proof.Machine

/-! ### The priority order of a lane (R136) -/

/-- A lane's rank of a source: its place in the priority order. -/
def Lane.rank (l : Lane) (mode : ArbiterMode) (k : Fin 16) : Nat :=
  match mode, l.lastHolder with
  | .rotating, some n => (k.val + 15 - n.val) % 16
  | _, _ => k.val

/-- The first asking source from `start` upward: no asking source stands nearer. -/
theorem find?_sourcesFrom {start : Nat} {asks : Fin 16 → Bool} {m : Fin 16} (h : asks m = true)
    (first : ∀ k : Fin 16, asks k = true → (m.val + 16 - start % 16) % 16 ≤ (k.val + 16 - start % 16) % 16) :
    (sourcesFrom start).find? asks = some m := by
  have place : (⟨(start + (m.val + 16 - start % 16) % 16) % 16, Nat.mod_lt _ (by decide)⟩ : Fin 16) = m :=
    Fin.ext (by simp only; omega)
  have found : (List.range 16).find? (asks ∘ fun i => (⟨(start + i) % 16, Nat.mod_lt _ (by decide)⟩ : Fin 16)) =
      some ((m.val + 16 - start % 16) % 16) := by
    refine List.find?_range_eq_some.2 ⟨(congrArg asks place).trans h, List.mem_range.2 (Nat.mod_lt _ (by decide)),
      fun j lt => ?_⟩
    have nearer := first ⟨(start + j) % 16, Nat.mod_lt _ (by decide)⟩
    simp only at nearer
    simp only [Function.comp, Bool.not_eq_true']
    by_contra asking
    have := nearer (by simpa using asking)
    omega
  rw [sourcesFrom, List.find?_map, found]
  exact congrArg some place

/-- R136: the arbiter grants the lane to the asking source of the lowest rank. -/
theorem Lane.arbitrate_first {l : Lane} {mode : ArbiterMode} {asks : Fin 16 → Bool} {m : Fin 16} (h : asks m = true)
    (first : ∀ k, asks k = true → l.rank mode m ≤ l.rank mode k) :
    l.arbitrate mode asks = { l with state := .held m, lastHolder := some m } := by
  have granted : (l.order mode).find? asks = some m := by
    unfold Lane.rank at first
    unfold Lane.order
    cases mode with
    | fixed => exact find?_sourcesFrom h fun k hk => by have := first k hk; simp only at this; omega
    | rotating =>
      cases hl : l.lastHolder with
      | none => exact find?_sourcesFrom h fun k hk => by have := first k hk; simp only [hl] at this; omega
      | some n => exact find?_sourcesFrom h fun k hk => by have := first k hk; simp only [hl] at this; omega
  rw [Lane.arbitrate, granted]

/-! ### Source commands (R141 to R144) -/

theorem exec_sourceSet (x : Transfer) (n : Nat) (e : Option Nat) (s : State) : exec (.sourceSet x n e) s =
    request x 0x60 (fun s => orBadReference (inTable 16 n) fun n =>
      refuseIf (!codeOk flagOf e) .badValue (sourceAnswer s n false fun y => y.setLine e)) s := rfl

theorem exec_sourceKey (x : Transfer) (n d : Nat) (s : State) : exec (.sourceKey x n d) s =
    request x 0x61 (fun s => orBadReference (inTable 16 n) fun n => sourceAnswer s n false fun y => y.key d) s := rfl

theorem exec_sourceUnkey (x : Transfer) (n : Nat) (s : State) : exec (.sourceUnkey x n) s =
    request x 0x62 (fun s => orBadReference (inTable 16 n) fun n => sourceAnswer s n false Source.unkey) s := rfl

theorem exec_targetModify (x : Transfer) (n : Nat) (m : BitVec 24) (mode : Nat) (s : State) :
    exec (.targetModify x n m mode) s = request x 0x63 (targetModify n m mode) s := rfl

/-- A source command that is accepted: `f` the change, `clamped` whether positions were dropped. -/
def AcceptedSource (x : Transfer) (s : State) (n : Fin 16) (c : Instr) (code : Byte) (clamped : Bool)
    (f : Source → Source) : Prop :=
  exec c s = .next ((s.changeSource n f).hold x code .ok { clamped := clamped } (sourceReport (s.changeSource n f) n))

section Accepted

variable {x : Transfer} {s : State} (n : Fin 16) (h : Taken x s)

include h

theorem acceptedSource_set {e : Option Nat} (he : ∀ k, e = some k → k ≤ 1) :
    AcceptedSource x s n (.sourceSet x n.val e) 0x60 false fun y => y.setLine e := by
  rw [AcceptedSource, exec_sourceSet]
  exact request_ok x 0x60 _ s h (by rw [inTable_val, orBadReference_some, codeOk_flagOf he]; rfl)

theorem acceptedSource_key (d : Nat) : AcceptedSource x s n (.sourceKey x n.val d) 0x61 false fun y => y.key d := by
  rw [AcceptedSource, exec_sourceKey]
  exact request_ok x 0x61 _ s h (by rw [inTable_val, orBadReference_some]; rfl)

theorem acceptedSource_unkey : AcceptedSource x s n (.sourceUnkey x n.val) 0x62 false Source.unkey := by
  rw [AcceptedSource, exec_sourceUnkey]
  exact request_ok x 0x62 _ s h (by rw [inTable_val, orBadReference_some]; rfl)

theorem acceptedSource_targets (m : BitVec 24) {mode : Nat} {mm : MaskMode} (hm : maskModeOf mode = some mm) :
    AcceptedSource x s n (.targetModify x n.val m mode) 0x63 (s.targetMask m mm != m)
      fun y => { y with targets := mm.targets (s.targetMask m mm) y.targets } := by
  rw [AcceptedSource, exec_targetModify]
  exact request_ok x 0x63 _ s h (by rw [targetModify, inTable_val, orBadReference_some, hm]; rfl)

end Accepted

theorem State.isOpen_iff {s : State} {v : Fin 24} : (s.venue v).isOpen = true ↔ (s.venue v).state ≠ .free := by
  simp [Venue.isOpen]

theorem State.and_openMask_bit (s : State) (m : BitVec 24) (v : Fin 24) :
    (m &&& s.openMask).getLsbD v.val = (m.getLsbD v.val && (s.venue v).isOpen) := by
  rw [BitVec.getLsbD_and, State.openMask_bit]

/-- R144: a mask that names open venues only loses nothing. -/
theorem State.and_openMask_of_open {s : State} {m : BitVec 24}
    (h : ∀ v : Fin 24, m.getLsbD v.val = true → (s.venue v).state ≠ .free) : m &&& s.openMask = m := by
  refine BitVec.eq_of_getLsbD_eq fun i lt => ?_
  have bit := s.and_openMask_bit m ⟨i, lt⟩
  simp only at bit
  rw [bit, Bool.and_eq_left_iff_imp]
  exact fun set => State.isOpen_iff.2 (h ⟨i, lt⟩ set)

theorem State.and_openMask_of_free {s : State} {m : BitVec 24} {v : Fin 24} (set : m.getLsbD v.val = true)
    (free : (s.venue v).state = .free) : ((m &&& s.openMask) != m) = true := by
  rw [bne_iff_ne]
  intro same
  have bit := s.and_openMask_bit m v
  rw [same, set, Bool.true_and] at bit
  exact State.isOpen_iff.1 bit.symm free

/-- R136, R137: the lane of each venue after a source changed. -/
theorem Lane.follow_eq (l : Lane) (mode : ArbiterMode) (n : Fin 16) (was : Bool) (asks : Fin 16 → Bool) :
    l.follow mode n was asks =
      if was = true ∧ asks n = false ∧ l.state = .held n then { l with state := .gap 2 }
      else if was = false ∧ asks n = true ∧ l.enable = true ∧ l.state = .idle then l.arbitrate mode asks
      else l := by
  unfold Lane.follow Lane.release Config.gapBlocks
  cases was <;> cases asks n <;> simp

/-- What a changed source leaves, and what each lane does. -/
theorem State.changeSource_spec {s : State} {n : Fin 16} {f : Source → Source} {y : Source} {t : State}
    (hy : f (s.source n) = y) (ht : t = s.changeSource n f) :
    t = { s.setSource n y with venues := t.venues } ∧
    (∀ v, t.venue v = (s.venue v).modLane fun l =>
      l.follow s.arbiter n ((s.source n).wants v) ((s.setSource n y).asks v)) ∧
    ∀ v, (s.setSource n y).asks v n = y.wants v := by
  subst hy ht
  obtain ⟨frame, venues⟩ := s.changeSource_eq n f
  exact ⟨frame, venues, fun v => by rw [State.setSource_asks, if_pos rfl]⟩

/-- The forms of a source command that is accepted, and the source each leaves. -/
theorem acceptedSource_of_form {x : Transfer} {s : State} {n : Fin 16} {c : Instr} {code : Byte} {f : Flags} {y : Source}
    (h : Taken x s)
    (form : (c = .sourceSet x n.val none ∧ code = 0x60 ∧ f = {} ∧ y = s.source n) ∨
      (∃ e ≤ 1, c = .sourceSet x n.val (some e) ∧ code = 0x60 ∧ f = {} ∧
         y = { s.source n with lineEnable := e == 1 }) ∨
      (∃ d, c = .sourceKey x n.val d ∧ code = 0x61 ∧ f = {} ∧
         y = { s.source n with softKey := true, remaining := d }) ∨
      (c = .sourceUnkey x n.val ∧ (s.source n).softKey = true ∧ code = 0x62 ∧ f = {} ∧
         y = { s.source n with softKey := false, remaining := 0 }) ∨
      (c = .sourceUnkey x n.val ∧ (s.source n).softKey = false ∧ code = 0x62 ∧ f = {} ∧ y = s.source n) ∨
      (∃ m : BitVec 24, (∀ v : Fin 24, m.getLsbD v.val = true → (s.venue v).state ≠ .free) ∧ code = 0x63 ∧
         f = {} ∧ c = .targetModify x n.val m 0 ∧ y = { s.source n with targets := m }) ∨
      (∃ m : BitVec 24, (∀ v : Fin 24, m.getLsbD v.val = true → (s.venue v).state ≠ .free) ∧ code = 0x63 ∧
         f = {} ∧ c = .targetModify x n.val m 1 ∧ y = { s.source n with targets := (s.source n).targets ||| m }) ∨
      (∃ m : BitVec 24, code = 0x63 ∧ f = {} ∧ c = .targetModify x n.val m 2 ∧
         y = { s.source n with targets := (s.source n).targets &&& ~~~m })) :
    f = {} ∧ ∃ g, AcceptedSource x s n c code false g ∧ g (s.source n) = y := by
  rcases form with ⟨rfl, rfl, rfl, rfl⟩ | ⟨e, le, rfl, rfl, rfl, rfl⟩ | ⟨d, rfl, rfl, rfl, rfl⟩ |
    ⟨rfl, keyed, rfl, rfl, rfl⟩ | ⟨rfl, unkeyed, rfl, rfl, rfl⟩ | ⟨m, open', rfl, rfl, rfl, rfl⟩ |
    ⟨m, open', rfl, rfl, rfl, rfl⟩ | ⟨m, rfl, rfl, rfl, rfl⟩
  · exact ⟨rfl, _, acceptedSource_set n h fun k hk => (Option.some_ne_none k hk.symm).elim, rfl⟩
  · have le' : ∀ k, some e = some k → k ≤ 1 := fun k hk => Option.some.inj hk ▸ le
    refine ⟨rfl, _, acceptedSource_set n h le', ?_⟩
    simp only [Source.setLine, codeOr_flagOf _ _ le']
  · exact ⟨rfl, _, acceptedSource_key n h d, rfl⟩
  · exact ⟨rfl, _, acceptedSource_unkey n h, by rw [Source.unkey, if_pos keyed]⟩
  · exact ⟨rfl, _, acceptedSource_unkey n h, by rw [Source.unkey, if_neg (by simp [unkeyed])]⟩
  · have accepted := acceptedSource_targets n h m (show maskModeOf 0 = some .replace from rfl)
    simp only [State.targetMask, State.and_openMask_of_open open', bne_self_eq_false] at accepted
    exact ⟨rfl, _, accepted, rfl⟩
  · have accepted := acceptedSource_targets n h m (show maskModeOf 1 = some .set from rfl)
    simp only [State.targetMask, State.and_openMask_of_open open', bne_self_eq_false] at accepted
    exact ⟨rfl, _, accepted, rfl⟩
  · have accepted := acceptedSource_targets n h m (show maskModeOf 2 = some .clear from rfl)
    simp only [State.targetMask, bne_self_eq_false] at accepted
    exact ⟨rfl, _, accepted, rfl⟩

/-- The two modes that drop FREE venues, by their codes, and the targets each leaves. -/
theorem maskMode_dropping {mode : Nat} (h : mode ≤ 1) : ∃ mm, maskModeOf mode = some mm ∧
    (∀ (s : State) m, s.targetMask m mm = m &&& s.openMask) ∧
    ∀ (m old : BitVec 24) i, (mm.targets m old).getLsbD i = (m.getLsbD i || (mode == 1 && old.getLsbD i)) := by
  match mode, h with
  | 0, _ => exact ⟨.replace, rfl, fun _ _ => rfl, fun m old i => by simp [MaskMode.targets]⟩
  | 1, _ => exact ⟨.set, rfl, fun _ _ => rfl, fun m old i => by simp [MaskMode.targets, Bool.or_comm]⟩

/-- Settles O24: the accepted forms, then what `Lane.follow` makes of each lane; the refusals; the dropped positions. -/
theorem sourceCommandsChangeTheirSource : Obligations.SourceCommandsChangeTheirSource := by
  refine ⟨fun x s n c code f y h form => ?_, fun x s n m h => ⟨fun mode le => ?_, fun k le => ?_, fun v mode set free le => ?_⟩⟩
  · obtain ⟨rfl, g, accepted, hy⟩ := acceptedSource_of_form h form
    obtain ⟨frame, venues, asks⟩ := State.changeSource_spec hy rfl
    have lane : ∀ v, ((s.changeSource n g).venue v).lane =
        (s.venue v).lane.follow s.arbiter n ((s.source n).wants v) ((s.setSource n y).asks v) := fun v => by
      rw [venues]; rfl
    refine ⟨s.changeSource n g, accepted, frame, fun v => by rw [venues]; rfl, fun v => ?_, fun v was now on idle alone => ?_⟩
    · rw [lane, Lane.follow_eq, asks]
      split
      · rfl
      · split <;> rfl
    · rw [lane, Lane.follow_eq, asks, if_neg (by simp [was]), if_pos ⟨was, now, on, idle⟩]
      refine Lane.arbitrate_only _ _ _ n (by rw [asks, now]) fun k hk => ?_
      rw [State.setSource_asks, if_neg hk]
      exact alone k hk
  · rw [exec_targetModify]
    exact request_refuse x 0x63 _ s h (by
      rw [targetModify, inTable_val, orBadReference_some, maskModeOf_of_le le])
  · have missing : inTable 16 k = none := inTable_of_le le
    refine ⟨fun e => ?_, fun d => ?_, ?_, fun mode => ?_⟩
    · rw [exec_sourceSet]
      exact request_refuse x 0x60 _ s h (by rw [missing, orBadReference_none])
    · rw [exec_sourceKey]
      exact request_refuse x 0x61 _ s h (by rw [missing, orBadReference_none])
    · rw [exec_sourceUnkey]
      exact request_refuse x 0x62 _ s h (by rw [missing, orBadReference_none])
    · rw [exec_targetModify]
      exact request_refuse x 0x63 _ s h (by rw [targetModify, missing, orBadReference_none])
  · obtain ⟨mm, code, dropping, targets⟩ := maskMode_dropping le
    have accepted := acceptedSource_targets n h m code
    rw [dropping, State.and_openMask_of_free set free] at accepted
    refine ⟨_, accepted, fun w => ?_⟩
    obtain ⟨frame, -, -⟩ := State.changeSource_spec (s := s) (n := n)
      (f := fun y : Source => { y with targets := mm.targets (m &&& s.openMask) y.targets }) rfl rfl
    rw [frame]
    show (((s.setSource n _).source n).targets).getLsbD w.val = _
    rw [State.setSource_source]
    show (mm.targets (m &&& s.openMask) (s.source n).targets).getLsbD w.val = _
    rw [targets, State.and_openMask_bit]

/-! ### LANE_SET and ARBITER_MODE (R145, R147) -/

theorem exec_laneSet (x : Transfer) (n : Nat) (a : LaneSetArgs) (s : State) :
    exec (.laneSet x n a) s = request x 0x64 (laneSet n a) s := rfl

theorem exec_arbiterMode (x : Transfer) (mode : Nat) (s : State) : exec (.arbiterMode x mode) s =
    request x 0x66 (fun s => match arbiterOf mode with
      | none => .refuse .badValue
      | some m => .ok {} (u8 (arbiterCode m)) { s with arbiter := m }) s := rfl

/-- The lane that LANE_SET leaves. -/
def Lane.set (l : Lane) (a : LaneSetArgs) (mode : ArbiterMode) (asks : Fin 16 → Bool) : Lane :=
  if !l.enable && (l.change a).enable then (l.change a).arbitrate mode asks else l.change a

theorem State.setLane_set (s : State) (v : Fin 24) (a : LaneSetArgs) : s.setLane v a =
    s.setVenue v { s.venue v with lane := (s.venue v).lane.set a s.arbiter (s.asks v) } := State.setLane_eq s v a

section Set

variable (l : Lane) (a : LaneSetArgs) (mode : ArbiterMode) (asks : Fin 16 → Bool)

theorem Lane.set_enable : (l.set a mode asks).enable = codeOr flagOf l.enable a.enable := by
  unfold Lane.set
  split
  · rw [Lane.arbitrate_enable]; rfl
  · rfl

theorem Lane.set_cleanSlot : (l.set a mode asks).cleanSlot = (l.change a).cleanSlot := by
  unfold Lane.set
  split
  · rw [Lane.arbitrate_cleanSlot]
  · rfl

theorem Lane.set_duck : (l.set a mode asks).duck = clampOr 0 15 l.duck a.duck := by
  unfold Lane.set
  split
  · rw [Lane.arbitrate_duck]; rfl
  · rfl

theorem Lane.set_sequence : (l.set a mode asks).sequence = l.sequence := by
  unfold Lane.set
  split
  · rw [Lane.arbitrate_sequence]; rfl
  · rfl

/-- A lane not turned keeps its state, buffer and last holder. -/
theorem Lane.set_of_same {l : Lane} {a : LaneSetArgs} (h : codeOr flagOf l.enable a.enable = l.enable) :
    (l.set a mode asks).state = l.state ∧ (l.set a mode asks).half = l.half ∧
      (l.set a mode asks).lastHolder = l.lastHolder := by
  have changed : l.set a mode asks = l.change a := by
    simp [Lane.set, Lane.change, h]
  rw [changed]
  simp [Lane.change, h]

/-- A lane turned off is IDLE with a clear buffer. -/
theorem Lane.set_of_off {l : Lane} {a : LaneSetArgs} (on : l.enable = true)
    (off : codeOr flagOf l.enable a.enable = false) : (l.set a mode asks).state = .idle ∧
      (l.set a mode asks).half = silentBlock ∧ (l.set a mode asks).lastHolder = l.lastHolder := by
  have changed : l.set a mode asks = l.change a := by simp [Lane.set, on]
  rw [on] at off
  rw [changed]
  simp [Lane.change, on, off]

/-- A lane turned on arbitrates with a clear buffer. -/
theorem Lane.set_of_on {l : Lane} {a : LaneSetArgs} (off : l.enable = false)
    (on : codeOr flagOf l.enable a.enable = true) :
    l.set a mode asks = (l.change a).arbitrate mode asks ∧ (l.change a).half = silentBlock ∧
      (l.change a).lastHolder = l.lastHolder := by
  refine ⟨?_, ?_, rfl⟩
  · rw [Lane.set, if_pos (by rw [off]; exact on)]
  · show (if codeOr flagOf l.enable a.enable = l.enable then _ else _) = _
    rw [on, off]
    rfl

end Set

/-- R145: the clean-feed slot stored. -/
theorem Lane.change_cleanSlot (l : Lane) (a : LaneSetArgs) :
    (∀ k, a.cleanSlot = some (some k) → 16 ≤ k ∧ k ≤ 31) →
    (l.change a).cleanSlot.map (fun k => k.val) = match a.cleanSlot with
      | none => l.cleanSlot.map (fun k => k.val)
      | some k => k := by
  intro h
  show Option.map _ (match a.cleanSlot with | none => _ | some c => _) = _
  match hc : a.cleanSlot with
  | none => rfl
  | some none => rfl
  | some (some k) =>
    have lt : k < 32 := Nat.lt_succ_of_le (h k hc).2
    have found : inTable 32 k = some ⟨k, lt⟩ := inTable_val ⟨k, lt⟩
    simp only [Option.bind_some, found, Option.map_some]

theorem cleanBad_of_in {c : Option (Option Nat)} (h : ∀ k, c = some (some k) → 16 ≤ k ∧ k ≤ 31) :
    cleanBad c = false := by
  match c with
  | none => rfl
  | some none => rfl
  | some (some k) => simp [cleanBad, h k rfl]

theorem any_lt_eq (g : Option Nat) (hi : Nat) :
    (g.any fun d => decide (hi < d)) = decide (∃ d, g = some d ∧ hi < d) := by
  cases g <;> simp

/-- R145: an accepted LANE_SET. -/
theorem exec_laneSet_of_checks {x : Transfer} {s : State} {a : LaneSetArgs} {v : Fin 24} (h : Taken x s)
    (ho : (s.venue v).state ≠ .free) (clean : ∀ k, a.cleanSlot = some (some k) → 16 ≤ k ∧ k ≤ 31)
    (code : ∀ k, a.enable = some k → k ≤ 1) :
    exec (.laneSet x v.val a) s = .next ((s.setLane v a).hold x 0x64 .ok
      { clamped := decide (∃ d, a.duck = some d ∧ 15 < d) } (laneReport (s.setLane v a) v)) := by
  rw [exec_laneSet]
  refine request_ok x 0x64 _ s h ?_
  rw [laneSet, State.openVenue_val (State.isOpen_iff.2 ho), orBadReference_some, cleanBad_of_in clean, refuseIf_false,
    codeOk_flagOf code, any_lt_eq]
  rfl

/-- Settles O25, LANE_SET by the three turns of the enable. -/
theorem laneSetAndArbiterMode : Obligations.LaneSetAndArbiterMode := by
  refine ⟨fun x s a h => ⟨fun n closed => ?_, fun v ho => ⟨?_, fun clean code => ?_⟩⟩, fun x s h => ⟨?_, ?_, fun m le => ?_⟩⟩
  · rw [exec_laneSet]
    exact request_refuse x 0x64 _ s h (by rw [laneSet, State.openVenue_eq_none closed, orBadReference_none])
  · rintro ⟨k, hk, out⟩
    have bad : cleanBad a.cleanSlot = true := by
      rw [hk, cleanBad, Bool.not_eq_true', Bool.and_eq_false_iff, decide_eq_false_iff_not, decide_eq_false_iff_not]
      omega
    rw [exec_laneSet]
    exact request_refuse x 0x64 _ s h (by
      rw [laneSet, State.openVenue_val (State.isOpen_iff.2 ho), orBadReference_some, bad, refuseIf_true])
  · have enable := (s.venue v).lane.set_enable a s.arbiter (s.asks v)
    refine ⟨s.setLane v a, (s.venue v).lane.set a s.arbiter (s.asks v), exec_laneSet_of_checks h ho clean code,
      State.setLane_set s v a, ?_, ?_, ?_, Lane.set_sequence .., fun same => ?_, fun off was => ?_, fun on was => ?_⟩
    · rw [enable]
      exact codeOr_flagOf _ _ code
    · rw [Lane.set_cleanSlot]
      exact Lane.change_cleanSlot _ a clean
    · rw [Lane.set_duck]
      exact clampOr_zero ..
    · exact Lane.set_of_same _ _ (enable ▸ same)
    · exact Lane.set_of_off _ _ was (enable ▸ off)
    · obtain ⟨set, half, last⟩ := Lane.set_of_on s.arbiter (s.asks v) was (enable ▸ on)
      refine ⟨by rw [set, Lane.arbitrate_half, half], fun n wants alone => ?_, fun nobody => ?_⟩
      · rw [set, Lane.arbitrate_only _ _ (s.asks v) n wants alone]
        exact ⟨rfl, rfl⟩
      · rw [set, Lane.arbitrate_none _ _ (s.asks v) nobody]
        exact ⟨rfl, last⟩
  · rw [exec_arbiterMode]
    exact request_ok x 0x66 _ s h rfl
  · rw [exec_arbiterMode]
    exact request_ok x 0x66 _ s h rfl
  · rw [exec_arbiterMode]
    refine request_refuse x 0x66 _ s h ?_
    have unknown : arbiterOf m = none := by
      match m, le with
      | n + 2, _ => rfl
    rw [unknown]

end Sys2Proof.Machine
end

section
/-! PROOFS. Transmit, and the request pass that submits to it (sections 3.4 and 6.4, R55 to R57, R104 to R107). -/

namespace Sys2Proof.Machine

/-! ### The bytes of a copy (R55, R168) -/

theorem u16_eq_be (n : Nat) : u16 n = be 2 (BitVec.ofNat 16 n).toNat := by
  have low : BitVec.ofNat 8 (n / 256) = BitVec.ofNat 8 (n % 65536 / 256) := by
    apply BitVec.eq_of_toNat_eq
    simp only [BitVec.toNat_ofNat]
    omega
  have high : BitVec.ofNat 8 n = BitVec.ofNat 8 (n % 65536) := by
    apply BitVec.eq_of_toNat_eq
    simp only [BitVec.toNat_ofNat]
    omega
  rw [← u16, u16_eq_pair, u16_eq_pair, BitVec.toNat_ofNat, ← low, ← high]

theorem VctOut.header_eq (o : VctOut) (key : BitVec 16) (domain : Byte) : o.header key domain =
    wireVct 1 (BitVec.ofNat 8 o.kind) (BitVec.ofNat 8 o.flags) domain key 255 (BitVec.ofNat 8 o.channels) o.frame
      (BitVec.ofNat 16 o.payload.length) (BitVec.ofNat 8 o.entries) := by
  simp only [VctOut.header, wireVct, u8_eq_singleton, u16_eq_be, frameBytes, List.append_assoc, List.cons_append,
    List.nil_append]
  rfl

/-- R55: the tags of a copy, each of one of the two types, carry the control values of the reply record. -/
theorem tagBytes_spell (use : Nat) (ts : List (BitVec 16)) : ∃ tags : List (Bool × BitVec 16),
    tags.map (fun x => x.2) = ts ∧
    tagBytes use ts = tags.flatMap fun t => be 2 (if t.1 then 0x88A8 else 0x8100) ++ be 2 t.2.toNat := by
  induction ts generalizing use with
  | nil => exact ⟨[], rfl, rfl⟩
  | cons t ts ih =>
    obtain ⟨tags, controls, bytes⟩ := ih (use + 1)
    refine ⟨(Config.sentTagIsService use, t) :: tags, by rw [List.map_cons, controls], ?_⟩
    rw [List.flatMap_cons, ← bytes]
    rfl

theorem addressed_eq (use : Nat) (pt : Port) (r : Reply) (key : BitVec 16) (o : VctOut) :
    ∃ (tags : List (Bool × BitVec 16)) (bytes : List Byte), tags.map (fun x => x.2) = r.tags ∧
      bytes = wireFrame r.address pt.address tags pt.etherType (o.header key r.domain ++ o.payload) ∧
      addressed use pt r key o = bytes ++ List.replicate (60 - bytes.length) 0 := by
  obtain ⟨tags, controls, spelt⟩ := tagBytes_spell use r.tags
  refine ⟨tags, _, controls, rfl, ?_⟩
  rw [addressed, spelt, wireFrame]
  simp only [padded, List.append_assoc]

/-! ### Submitted copies (R55 to R57) -/

/-- R55: a path that carries no copy through a port. -/
def State.Silent (s : State) (v : Fin 24) (q : PathId) (i : Fin 4) : Prop :=
  ((s.venue v).path q).port = some i → ((s.venue v).path q).state ≠ .up ∨ ((s.venue v).path q).reply = none ∨
    (s.port i).enable = false

/-- The second state differs from the first in the ports and the free values drawn only. -/
def State.SendsTo (s t : State) : Prop := t = { s with ports := t.ports, freeCount := t.freeCount }

theorem State.SendsTo.trans {s t u : State} (h : s.SendsTo t) (g : t.SendsTo u) : s.SendsTo u := by
  unfold State.SendsTo at *
  rw [g, h]

theorem State.SendsTo.after {s t u : State} {due : List Work} (h : t = { s with venues := t.venues, due := due })
    (g : t.SendsTo u) : u = { s with venues := u.venues, ports := u.ports, due := u.due, freeCount := u.freeCount } := by
  unfold State.SendsTo at g
  rw [g, h]

section Submit

variable (s : State) (v : Fin 24) (o : VctOut)

theorem State.submitCopy_sends (q : PathId) : s.SendsTo (s.submitCopy v o q) := by
  unfold State.submitCopy
  dsimp only
  split
  · split <;> rfl
  · rfl

theorem State.submit_sends : s.SendsTo (s.submit v o) :=
  (s.submitCopy_sends v o .a).trans (State.submitCopy_sends _ v o .b)

theorem State.submitCopy_venue (q : PathId) (w : Fin 24) : (s.submitCopy v o q).venue w = s.venue w := by
  rw [s.submitCopy_sends v o q]; rfl

theorem State.submit_venue (w : Fin 24) : (s.submit v o).venue w = s.venue w := by
  rw [s.submit_sends v o]; rfl

variable {s v}

theorem State.submitCopy_port_of_silent {q : PathId} {i : Fin 4} (h : s.Silent v q i) :
    (s.submitCopy v o q).port i = s.port i := by
  unfold State.submitCopy
  dsimp only
  split
  · next j r up port reply =>
    split
    · next enabled =>
      have ne : i ≠ j := by
        rintro rfl
        rcases h port with h | h | h
        · exact h up
        · rw [reply] at h; cases h
        · rw [enabled] at h; cases h
      exact s.setPort_port_of_ne j i _ ne
    · rfl
  · rfl

/-- R55 to R57: the copy of a path that can carry it joins the queue of its port. -/
theorem State.submitCopy_port {q : PathId} {i : Fin 4} {r : Reply} (port : ((s.venue v).path q).port = some i)
    (up : ((s.venue v).path q).state = .up) (reply : ((s.venue v).path q).reply = some r)
    (enabled : (s.port i).enable = true) : (s.submitCopy v o q).port i =
      (s.port i).submit (addressed s.freeCount (s.port i) r (s.venue v).key o) := by
  have sent : s.submitCopy v o q = { s.modPort i fun pt => pt.submit (addressed s.freeCount (s.port i) r (s.venue v).key o)
      with freeCount := s.freeCount + r.tags.length } := by
    simp only [State.submitCopy, port, up, reply, enabled, if_true]
  rw [sent]
  exact s.setPort_port i _

theorem State.submit_port_of_silent {i : Fin 4} (h : ∀ q, s.Silent v q i) : (s.submit v o).port i = s.port i := by
  have first := State.submitCopy_port_of_silent o (h .a)
  have second : (s.submitCopy v o .a).Silent v .b i := by
    unfold State.Silent
    rw [State.submitCopy_venue, first]
    exact h .b
  rw [State.submit, State.submitCopy_port_of_silent o second, first]

/-- A path that stands on another port carries nothing through this one. -/
theorem State.silent_of_ne {q : PathId} {i : Fin 4} (h : ((s.venue v).path q).port ≠ some i) : s.Silent v q i :=
  fun e => absurd e h

/-- R55 to R57: what a frame submitted for a venue puts at a port that carries it. -/
theorem State.submit_port {i : Fin 4} {q : PathId} {r : Reply} (two : (s.venue v).pathA.port ≠ (s.venue v).pathB.port)
    (port : ((s.venue v).path q).port = some i) (up : ((s.venue v).path q).state = .up)
    (reply : ((s.venue v).path q).reply = some r) (enabled : (s.port i).enable = true) :
    ∃ (tags : List (Bool × BitVec 16)) (bytes : List Byte), tags.map (fun x => x.2) = r.tags ∧
      bytes = wireFrame r.address (s.port i).address tags (s.port i).etherType
        (o.header (s.venue v).key r.domain ++ o.payload) ∧
      (s.submit v o).port i = if (s.port i).linkUp = true ∧ (s.port i).queue.length < 128
        then { s.port i with queue := (s.port i).queue ++ [bytes ++ List.replicate (60 - bytes.length) 0] }
        else { s.port i with dropped := min 65535 ((s.port i).dropped + 1) } := by
  have once : ∃ use, (s.submit v o).port i = (s.port i).submit (addressed use (s.port i) r (s.venue v).key o) := by
    cases q with
    | a =>
      have first := State.submitCopy_port o port up reply enabled
      have other : (s.submitCopy v o .a).Silent v .b i := by
        refine State.silent_of_ne ?_
        rw [State.submitCopy_venue]
        exact fun e => two (port.trans e.symm)
      exact ⟨s.freeCount, by rw [State.submit, State.submitCopy_port_of_silent o other, first]⟩
    | b =>
      have other : s.Silent v .a i := State.silent_of_ne fun e => two (e.trans port.symm)
      have first := State.submitCopy_port_of_silent o other
      have venue := s.submitCopy_venue v o .a v
      rw [← venue] at port up reply
      rw [← first] at enabled
      refine ⟨(s.submitCopy v o .a).freeCount, ?_⟩
      rw [State.submit, State.submitCopy_port o port up reply enabled, first, venue]
  obtain ⟨use, once⟩ := once
  obtain ⟨tags, bytes, controls, spelt, copy⟩ := addressed_eq use (s.port i) r (s.venue v).key o
  refine ⟨tags, bytes, controls, spelt, ?_⟩
  rw [once, ← copy, Port.submit]
  simp only [Bool.and_eq_true, decide_eq_true_eq]
  rfl

end Submit

/-! ### What the request pass judges (R105, R106) -/

theorem State.judgeQueue_eq (s : State) (v : Fin 24) (nr : FrameNo) :
    s.judgeQueue v nr = { s with venues := (s.judgeQueue v nr).venues } := by
  rw [State.judgeQueue, State.modVenue_eq]
  conv => lhs; rw [State.reports_eq]
  rfl

theorem RecoveryEntry.firstDue_iff (e : RecoveryEntry) (allowance : Nat) (b : BlockCount) :
    e.firstDue allowance b = true ↔ e.attempts = 0 ∧ allowance ≤ (b - e.createdAt).toNat := by
  simp [RecoveryEntry.firstDue]

theorem RecoveryEntry.secondDue_iff (e : RecoveryEntry) (st : Settings) (nr : FrameNo) : e.secondDue st nr = true ↔
    e.attempts = 1 ∧ st.attempts = 2 ∧ ∃ nq, e.nq = some nq ∧ ((st.budget + 1) / 2 : Nat) ≤ dist nr nq := by
  unfold RecoveryEntry.secondDue
  cases e.nq <;> simp [and_assoc]

section Judge

variable (s : State) (v : Fin 24) (nr : FrameNo) (e : RecoveryEntry)

theorem State.passVerdict_request_iff : s.passVerdict v nr e = .request ↔
    (e.firstDue (s.venue v).settings.allowance s.blockCount = true ∧ ((s.venue v).settings.budget : Int) ≤ dist e.frame nr) ∨
    (e.firstDue (s.venue v).settings.allowance s.blockCount = false ∧ e.secondDue (s.venue v).settings nr = true) := by
  unfold State.passVerdict RecoveryEntry.judge
  cases e.firstDue (s.venue v).settings.allowance s.blockCount <;> simp

theorem State.passVerdict_tooLate_iff : s.passVerdict v nr e = .tooLate ↔
    e.firstDue (s.venue v).settings.allowance s.blockCount = true ∧ dist e.frame nr < (s.venue v).settings.budget := by
  unfold State.passVerdict RecoveryEntry.judge
  cases e.firstDue (s.venue v).settings.allowance s.blockCount <;> simp
  split <;> simp

end Judge

/-- An entry has no request or one: it is not due for both. -/
theorem RecoveryEntry.firstDue_of_secondDue {e : RecoveryEntry} {st : Settings} {nr : FrameNo} {allowance : Nat}
    {b : BlockCount} (h : e.secondDue st nr = true) : e.firstDue allowance b = false := by
  rw [RecoveryEntry.secondDue_iff] at h
  simp [RecoveryEntry.firstDue, h.1]

theorem State.judgeQueue_tooLate (s : State) (v : Fin 24) (nr : FrameNo)
    (h : (s.venue v).health.counter .tooLate ≤ 65535) : ((s.judgeQueue v nr).venue v).health.counter .tooLate =
      min 65535 ((s.venue v).health.counter .tooLate +
        ((s.venue v).recovery.filter fun e => s.passVerdict v nr e == .tooLate).length) := by
  rw [State.judgeQueue, State.modVenue_eq, State.setVenue_venue]
  show ((s.reports v _).venue v).health.counter .tooLate = _
  rw [State.reports_counter _ _ _ _ _ h, List.length_map]
  intro r hr
  obtain ⟨e, _, rfl⟩ := List.mem_map.1 hr
  rfl

/-- R107: frames submitted one after another leave every table but the ports. -/
theorem State.foldl_submit_sends {α : Type} (v : Fin 24) (o : α → VctOut) (es : List α) (s : State) :
    s.SendsTo (es.foldl (fun t e => t.submit v (o e)) s) := by
  induction es generalizing s with
  | nil => rfl
  | cons e es ih => exact (s.submit_sends v (o e)).trans (ih _)

/-- R104: what a request pass leaves. -/
theorem State.requestPass_rest {s : State} {v : Fin 24} {ph : Phase} (hs : (s.venue v).state = .active)
    (hp : (s.venue v).timebase.phase = some ph) (ha : (s.venue v).settings.attempts ≠ 0) : s.requestPass v =
      { s.judgeQueue v ph.nr with ports := (s.requestPass v).ports, freeCount := (s.requestPass v).freeCount } := by
  rw [State.requestPass_of_active hs hp ha]
  exact State.foldl_submit_sends v _ _ _

/-- A work left over is taken at the event that falls in it. -/
theorem State.takeDue_of_due {s : State} {w : Work} {b : Bool} (h : w ∈ s.due) (hb : b = true) :
    s.takeDue w b = ({ s with due := s.due.erase w }).takeWork w := by
  rw [State.takeDue, if_pos (by simp [h, hb])]

theorem exec_reorderAllowanceExpiry (v : Fin 24) (c : Fin 128) (n : FrameNo) (s : State) :
    exec (.reorderAllowanceExpiry v c n) s = .next (s.takeDue (.requestPass v) (s.allowanceDue v c n)) := rfl

/-- Filtering out the late entries and requesting the due ones, as one pass over the queue. -/
theorem State.judged_filterMap (s : State) (v : Fin 24) (nr : FrameNo) {first second : RecoveryEntry → Prop}
    [DecidablePred first] [DecidablePred second]
    (hf : ∀ y, first y ↔ y.firstDue (s.venue v).settings.allowance s.blockCount = true)
    (hs : ∀ y, second y ↔ y.secondDue (s.venue v).settings nr = true) (q : List RecoveryEntry) :
    (q.filter fun e => s.passVerdict v nr e != .tooLate).map (s.passEntry v nr) = q.filterMap fun y =>
      if first y then
        (if ((s.venue v).settings.budget : Int) ≤ dist y.frame nr
          then some { y with attempts := y.attempts + 1, nq := some nr } else none)
      else if second y then some { y with attempts := y.attempts + 1, nq := some nr }
      else some y := by
  rw [← List.filterMap_eq_map, List.filterMap_filter]
  refine List.filterMap_congr fun y _ => ?_
  have late := s.passVerdict_tooLate_iff v nr y
  have asked := s.passVerdict_request_iff v nr y
  unfold State.passEntry RecoveryEntry.requested
  by_cases f : first y
  · have due := (hf y).1 f
    rw [if_pos f]
    by_cases budget : ((s.venue v).settings.budget : Int) ≤ dist y.frame nr
    · have verdict := asked.2 (.inl ⟨due, budget⟩)
      simp [verdict, budget]
    · have verdict := late.2 ⟨due, not_le.1 budget⟩
      simp [verdict, budget]
  · have due : y.firstDue (s.venue v).settings.allowance s.blockCount = false := by
      simpa using fun h => f ((hf y).2 h)
    rw [if_neg f]
    have verdict : s.passVerdict v nr y ≠ .tooLate := fun h => by
      have := (late.1 h).1
      rw [due] at this
      cases this
    by_cases g : second y
    · rw [if_pos g]
      have verdict := asked.2 (.inr ⟨due, (hs y).1 g⟩)
      simp [verdict]
    · rw [if_neg g]
      have verdict' : s.passVerdict v nr y ≠ .request := fun h => by
        rcases asked.1 h with h | h
        · exact f ((hf y).2 h.1)
        · exact g ((hs y).2 h.2)
      simp [verdict, verdict']

/-- Settles O46. -/
theorem requestPassJudgesEntries : Obligations.RequestPassJudgesEntries := by
  intro s v c n e ph first second _ _ due hs hp ha hf hsec mem hc hn he
  have hf' : ∀ y, first y ↔ y.firstDue (s.venue v).settings.allowance s.blockCount = true := fun y => by
    rw [hf, RecoveryEntry.firstDue_iff]
    rfl
  have hsec' : ∀ y, second y ↔ y.secondDue (s.venue v).settings ph.nr = true := fun y => by
    rw [hsec, RecoveryEntry.secondDue_iff]
  have falls : s.allowanceDue v c n = true := by
    simp only [State.allowanceDue, hs, hp, Bool.and_eq_true, decide_eq_true_eq, List.any_eq_true]
    exact ⟨⟨⟨rfl, rfl⟩, ha⟩, e, mem, by simp [hc, hn, (hf' e).1 he]⟩
  have whole := State.requestPass_rest (s := { s with due := s.due.erase (.requestPass v) }) hs hp (Nat.pos_iff_ne_zero.1 ha)
  have taken : exec (.reorderAllowanceExpiry v c n) s =
      .next (({ s with due := s.due.erase (.requestPass v) } : State).requestPass v) := by
    rw [exec_reorderAllowanceExpiry, State.takeDue_of_due due falls]
    rfl
  refine ⟨_, taken, State.takeWork_due _ (.requestPass v), ?_, fun le => ?_, fun d => ?_, fun w hw => ?_, ?_⟩
  · rw [whole]
    show ((State.judgeQueue _ v ph.nr).venue v).recovery = _
    rw [State.judgeQueue_venue_self]
    exact State.judged_filterMap { s with due := s.due.erase (.requestPass v) } v ph.nr hf' hsec' _
  · rw [whole]
    show ((State.judgeQueue _ v ph.nr).venue v).health.counter .tooLate = _
    rw [State.judgeQueue_tooLate { s with due := s.due.erase (.requestPass v) } v ph.nr le]
    have same : ∀ y ∈ (s.venue v).recovery, (({ s with due := s.due.erase (.requestPass v) } : State).passVerdict v ph.nr y ==
        .tooLate) = (decide (first y) && decide (dist y.frame ph.nr < (s.venue v).settings.budget)) := fun y _ => by
      rw [Bool.eq_iff_iff, beq_iff_eq, State.passVerdict_tooLate_iff, Bool.and_eq_true, decide_eq_true_eq,
        decide_eq_true_eq, hf']
      rfl
    rw [← List.filter_congr same]
    rfl
  · rw [whole]
    exact State.judgeQueue_circuit ..
  · rw [whole]
    exact State.judgeQueue_venue_of_ne _ _ hw
  · exact State.SendsTo.after (State.judgeQueue_eq { s with due := s.due.erase (.requestPass v) } v ph.nr) whole

/-! ### The RECOVERY frame (R107) -/

theorem packs_nil {α : Type} (n : Nat) : packs n ([] : List α) = [] := by
  cases n <;> rfl

/-- R107: up to eight requests go in one frame. -/
theorem packs_of_le {α : Type} {l : List α} (one : 1 ≤ l.length) (eight : l.length ≤ 8) : packs l.length l = [l] := by
  have cut : ∀ n, packs (n + 1) l = l.take 8 :: packs n (l.drop 8) := fun n => by
    cases l with
    | nil => exact absurd one (by simp)
    | cons x xs => rfl
  obtain ⟨n, hn⟩ := Nat.exists_eq_add_of_le' one
  rw [hn, cut, List.take_of_length_le eight, List.drop_of_length_le eight, packs_nil]

theorem recoveryFrame_payload_length (s : State) (nr : FrameNo) (es : List RecoveryEntry) :
    (recoveryFrame s nr es).payload.length = 6 * es.length := by
  have each : ∀ e, (requestBytes s e).length = 6 := fun e => by
    simp [requestBytes, u8, frameBytes, be_length]
  show (es.flatMap (requestBytes s)).length = _
  induction es with
  | nil => rfl
  | cons e es ih => rw [List.flatMap_cons, List.length_append, each, ih, List.length_cons]; omega

/-- Settles O47: the judged queue asks for `asked`, which go in one frame; each port by what it carries. -/
theorem requestPassSendsRecoveryFrame : Obligations.RequestPassSendsRecoveryFrame := by
  intro s ws v ph first second _ _ asked hq due hs hp ha two hf hsec hasked one eight
  have verdict : ∀ y, ({ s with due := ws } : State).passVerdict v ph.nr y = .request ↔ first y ∨ second y := fun y => by
    rw [State.passVerdict_request_iff, hf, hsec, ← RecoveryEntry.secondDue_iff]
    constructor
    · rintro (⟨fd, le⟩ | ⟨_, sd⟩)
      · obtain ⟨h0, allowed⟩ := (RecoveryEntry.firstDue_iff ..).1 fd
        exact .inl ⟨h0, allowed, le⟩
      · exact .inr sd
    · rintro (⟨h0, allowed, le⟩ | sd)
      · exact .inl ⟨(RecoveryEntry.firstDue_iff ..).2 ⟨h0, allowed⟩, le⟩
      · exact .inr ⟨RecoveryEntry.firstDue_of_secondDue sd, sd⟩
  have requests : ({ s with due := ws } : State).passAsked v ph.nr = asked.map fun e => e.requested ph.nr := by
    rw [State.passAsked, hasked]
    refine congrArg _ (List.filter_congr fun y _ => ?_)
    rw [Bool.eq_iff_iff, beq_iff_eq, verdict, Bool.or_eq_true, decide_eq_true_eq, decide_eq_true_eq]
  have pass : ({ s with due := ws } : State).requestPass v = (({ s with due := ws } : State).judgeQueue v ph.nr).submit v
      (recoveryFrame { s with due := ws } ph.nr (asked.map fun e => e.requested ph.nr)) := by
    rw [State.requestPass_of_active (s := { s with due := ws }) hs hp (Nat.pos_iff_ne_zero.1 ha), requests, packs_of_le]
    · rfl
    · rw [List.length_map]; exact one
    · rw [List.length_map]; exact eight
  have port : ∀ i, (({ s with due := ws } : State).judgeQueue v ph.nr).port i = s.port i := fun i => by
    rw [State.judgeQueue_eq]; rfl
  have judged := State.judgeQueue_venue_self { s with due := ws } v ph.nr
  have path : ∀ q, ((({ s with due := ws } : State).judgeQueue v ph.nr).venue v).path q = (s.venue v).path q := fun q => by
    rw [judged]; cases q <;> rfl
  have key : ((({ s with due := ws } : State).judgeQueue v ph.nr).venue v).key = (s.venue v).key := by rw [judged]; rfl
  refine ⟨_, step_of_due hq due, State.takeWork_due _ (.requestPass v), fun i silent => ?_, fun i q r on up reply enabled => ?_⟩
  · show (State.requestPass _ v).port i = _
    rw [pass, State.submit_port_of_silent, port]
    intro q
    unfold State.Silent
    rw [path, port]
    exact silent q
  · show ∃ tags bytes, _ ∧ _ ∧ (State.requestPass _ v).port i = _
    rw [pass]
    obtain ⟨tags, bytes, controls, spelt, sent⟩ := State.submit_port
      (recoveryFrame { s with due := ws } ph.nr (asked.map fun e => e.requested ph.nr))
      (s := ({ s with due := ws } : State).judgeQueue v ph.nr) (v := v) (i := i) (q := q) (r := r)
      (by rw [judged]; exact two) (by rw [path]; exact on) (by rw [path]; exact up) (by rw [path]; exact reply)
      (by rw [port]; exact enabled)
    rw [port] at spelt sent
    rw [key, VctOut.header_eq, recoveryFrame_payload_length] at spelt
    refine ⟨tags, bytes, controls, ?_, sent⟩
    rw [spelt]
    simp only [recoveryFrame, List.length_map, List.flatMap_map, requestBytes, u8_eq_singleton, frameBytes,
      RecoveryEntry.requested]
    rfl

end Sys2Proof.Machine
end

section
/-! PROOFS. The foldback step and the events that fall in it (sections 8.3 to 8.5, R133 to R140). -/

namespace Sys2Proof.Machine

/-! ### The sources after stage 1 (R134) -/

theorem Source.sample_eq (x : Source) (low : Bool) : x.sample low = { x with
    softKey := x.softKey && x.remaining != 1
    remaining := if x.softKey then x.remaining - 1 else x.remaining
    lineSample := low } := by
  unfold Source.sample Source.countKey
  match x with
  | ⟨targets, lineEnable, lineSample, false, remaining⟩ => simp
  | ⟨targets, lineEnable, lineSample, true, 0⟩ => simp
  | ⟨targets, lineEnable, lineSample, true, n + 1⟩ => cases n <;> simp

/-- A source keyed after stage 1: by its line, or by a software key that does not run out. -/
theorem State.sampleKeys_keyed (s : State) (n : Fin 16) : (s.sampleKeys.source n).keyed =
    (((s.source n).lineEnable && s.keyLow.getLsbD n.val) || ((s.source n).softKey && (s.source n).remaining != 1)) := by
  rw [State.sampleKeys_source, Source.sample_eq]
  rfl

theorem State.sampleKeys_asks_iff (s : State) (v : Fin 24) (n : Fin 16) : s.sampleKeys.asks v n = true ↔
    (s.source n).targets.getLsbD v.val = true ∧ ((s.source n).lineEnable = true ∧ s.keyLow.getLsbD n.val = true ∨
      (s.source n).softKey = true ∧ (s.source n).remaining ≠ 1) := by
  rw [State.sampleKeys_asks, State.sampleKeys_keyed]
  simp only [Bool.and_eq_true, Bool.or_eq_true, bne_iff_ne]
  exact and_comm

/-! ### The lanes after stages 2 to 4 (R136 to R138) -/

/-- A venue's lane as the turn of the foldback step leaves it. -/
def State.turnedLane (s : State) (v : Fin 24) : Lane :=
  (s.venue v).lane.turn s.arbiter (fun n => (s.sampleKeys.source n).keyed) (s.sampleKeys.asks v)

/-- The part after stages 1 to 4. -/
def State.turned (s : State) : State := s.sampleKeys.turnLanes

theorem State.turned_eq (s : State) : s.turned = { s with venues := s.turned.venues, sources := s.turned.sources } := by
  simp only [State.turned, State.turnLanes, State.sampleKeys]

theorem State.turned_lane (s : State) (v : Fin 24) : s.turned.venue v = { s.venue v with lane := s.turnedLane v } :=
  State.turned_venue s v

theorem State.turned_source (s : State) (n : Fin 16) :
    s.turned.source n = (s.source n).sample (s.keyLow.getLsbD n.val) := by
  rw [State.turned, State.turnLanes_source, State.sampleKeys_source]

theorem Lane.turn_half (l : Lane) (m : ArbiterMode) (k a : Fin 16 → Bool) : (l.turn m k a).half = l.half := by
  unfold Lane.turn
  split
  · split <;> rfl
  · split <;> simp
  · split <;> simp

theorem Lane.turn_sequence (l : Lane) (m : ArbiterMode) (k a : Fin 16 → Bool) : (l.turn m k a).sequence = l.sequence := by
  unfold Lane.turn
  split
  · split <;> rfl
  · split <;> simp
  · split <;> simp

/-- R137: a held lane whose holder is no longer keyed is released. -/
theorem Lane.turn_of_held {l : Lane} (m : ArbiterMode) (keyed asks : Fin 16 → Bool) {n : Fin 16} (on : l.enable = true)
    (held : l.state = .held n) : (l.turn m keyed asks).state = if keyed n then .held n else .gap 2 := by
  simp only [Lane.turn, held, on, Bool.true_and]
  cases keyed n
  · rfl
  · exact held

/-- R138: a lane whose gap ends arbitrates. -/
theorem Lane.turn_of_gap {l : Lane} (m : ArbiterMode) (keyed asks : Fin 16 → Bool) (gap : l.state = .gap 1) :
    l.turn m keyed asks = l.arbitrate m asks := by
  simp only [Lane.turn, gap, le_refl, if_true]

/-! ### Stages 5 and 6 (R139, R140) -/

/-- R140: the venue has a frame to send. -/
def Venue.feeds (ve : Venue) : Bool := ve.isOpen && ve.lane.enable

theorem State.sendFoldback_of_idle {s : State} {v : Fin 24} (h : (s.venue v).feeds = false) : s.sendFoldback v = s := by
  have off : ((s.venue v).isOpen && (s.venue v).lane.enable) = false := h
  rw [State.sendFoldback, off]
  rfl

/-- The venue's lane with its sequence counted. -/
def Venue.counted (ve : Venue) : Venue := ve.modLane fun l => { l with sequence := l.sequence + 1 }

theorem State.sendFoldback_of_feeds {s : State} {v : Fin 24} (h : (s.venue v).feeds = true) :
    s.sendFoldback v = (s.setVenue v (s.venue v).counted).submit v (foldbackFrame s v) := by
  have on : ((s.venue v).isOpen && (s.venue v).lane.enable) = true := h
  rw [State.sendFoldback, on]
  rfl

theorem State.sendFoldback_venue (s : State) (v w : Fin 24) : (s.sendFoldback v).venue w =
    if w = v ∧ (s.venue w).feeds = true then (s.venue w).counted else s.venue w := by
  cases h : (s.venue v).feeds with
  | false =>
    rw [State.sendFoldback_of_idle h, if_neg]
    rintro ⟨rfl, on⟩
    rw [h] at on
    cases on
  | true =>
    rw [State.sendFoldback_of_feeds h, State.submit_venue, State.setVenue_venue_eq_ite]
    by_cases hw : w = v
    · rw [if_pos hw, if_pos ⟨hw, hw ▸ h⟩, hw]
    · rw [if_neg hw, if_neg fun g => hw g.1]

theorem Venue.counted_feeds (ve : Venue) : ve.counted.feeds = ve.feeds := rfl

/-- R140: each venue that feeds counts its sequence once. -/
theorem State.foldl_sendFoldback_venue (vs : List (Fin 24)) (hn : vs.Nodup) (s : State) (w : Fin 24) :
    (vs.foldl State.sendFoldback s).venue w =
      if w ∈ vs ∧ (s.venue w).feeds = true then (s.venue w).counted else s.venue w := by
  induction vs generalizing s with
  | nil => simp
  | cons v vs ih =>
    obtain ⟨notMem, hn⟩ := List.nodup_cons.1 hn
    rw [List.foldl_cons, ih hn, State.sendFoldback_venue]
    by_cases hw : w = v
    · subst hw
      simp [notMem]
    · simp [hw]

theorem State.sendFoldback_source (s : State) (v : Fin 24) (n : Fin 16) : (s.sendFoldback v).source n = s.source n := by
  unfold State.sendFoldback
  split
  · rw [State.submit_sends]
    rfl
  · rfl

theorem State.foldl_sendFoldback_source (vs : List (Fin 24)) (s : State) (n : Fin 16) :
    (vs.foldl State.sendFoldback s).source n = s.source n := by
  induction vs generalizing s with
  | nil => rfl
  | cons v vs ih => rw [List.foldl_cons, ih, State.sendFoldback_source]

/-- R140: where one venue alone feeds, its frame is the only one. -/
theorem State.foldl_sendFoldback_only {vs : List (Fin 24)} (hn : vs.Nodup) {s : State} {v : Fin 24} (hv : v ∈ vs)
    (alone : ∀ w, w ≠ v → (s.venue w).feeds = false) : vs.foldl State.sendFoldback s = s.sendFoldback v := by
  have idle : ∀ (ws : List (Fin 24)) (t : State), (∀ w ∈ ws, (t.venue w).feeds = false) →
      ws.foldl State.sendFoldback t = t := by
    intro ws
    induction ws with
    | nil => exact fun t _ => rfl
    | cons w ws ih =>
      intro t h
      rw [List.foldl_cons, State.sendFoldback_of_idle (h w List.mem_cons_self)]
      exact ih t fun x hx => h x (List.mem_cons_of_mem _ hx)
  obtain ⟨before, after, rfl⟩ := List.append_of_mem hv
  have parts := List.nodup_append.1 hn
  rw [List.foldl_append, List.foldl_cons, idle before s fun w hw => alone w fun e => ?_, idle after]
  · intro w hw
    have ne : w ≠ v := fun e => (List.nodup_cons.1 parts.2.1).1 (e ▸ hw)
    rw [State.sendFoldback_venue, if_neg fun g => ne g.1]
    exact alone w ne
  · exact parts.2.2 w hw v List.mem_cons_self e

theorem State.turned_blockCount (s : State) : s.turned.blockCount = s.blockCount := by
  simp only [State.blockCount, State.turned, State.turnLanes, State.sampleKeys]

theorem State.foldbackStep_of_odd {s : State} (h : s.blockCount.toNat % 2 = 1) : s.foldbackStep = s.turned.bufferLanes := by
  rw [← State.turned_blockCount] at h
  unfold State.foldbackStep
  exact if_pos h

theorem State.foldbackStep_of_even {s : State} (h : s.blockCount.toNat % 2 ≠ 1) :
    s.foldbackStep = allVenues.foldl State.sendFoldback s.turned := by
  rw [← State.turned_blockCount] at h
  unfold State.foldbackStep
  exact if_neg h

theorem State.bufferLanes_eq (s : State) : s.bufferLanes = { s with venues := s.bufferLanes.venues } := by
  simp only [State.bufferLanes]

theorem State.foldbackStep_source (s : State) (n : Fin 16) :
    s.foldbackStep.source n = (s.source n).sample (s.keyLow.getLsbD n.val) := by
  by_cases h : s.blockCount.toNat % 2 = 1
  · rw [State.foldbackStep_of_odd h, ← State.turned_source]
    simp only [State.source, State.bufferLanes]
  · rw [State.foldbackStep_of_even h, State.foldl_sendFoldback_source, State.turned_source]

/-- Stages 5 and 6 leave each lane's state and last holder as the turn left them. -/
theorem State.foldbackStep_lane (s : State) (v : Fin 24) : (s.foldbackStep.venue v).lane.state = (s.turnedLane v).state ∧
    (s.foldbackStep.venue v).lane.lastHolder = (s.turnedLane v).lastHolder := by
  by_cases h : s.blockCount.toNat % 2 = 1
  · rw [State.foldbackStep_of_odd h, State.bufferLanes_venue, State.turned_lane, Venue.modLane_lane]
    dsimp only
    split <;> exact ⟨rfl, rfl⟩
  · rw [State.foldbackStep_of_even h, State.foldl_sendFoldback_venue allVenues (List.nodup_finRange 24), State.turned_lane]
    split <;> exact ⟨rfl, rfl⟩

/-! ### The events -/

theorem exec_softwareKeyExpiry (n : Fin 16) (s : State) :
    exec (.softwareKeyExpiry n) s = .next (s.takeDue .foldbackStep (s.keyRunsOut n)) := rfl

theorem exec_gapEnd (v : Fin 24) (s : State) : exec (.gapEnd v) s = .next (s.takeDue .foldbackStep (s.gapEnds v)) := rfl

theorem exec_degradeWindowRestart (s : State) : exec .degradeWindowRestart s = .next (s.takeDue .windowRestart true) := rfl

/-- R136, R138: the gap end as the foldback step left over. -/
theorem exec_gapEnd_of_due {s : State} {v : Fin 24} (due : .foldbackStep ∈ s.due) (gap : (s.venue v).lane.state = .gap 1) :
    ∃ t : State, exec (.gapEnd v) s = .next t ∧ t.due = s.due.erase .foldbackStep ∧
      (t.venue v).lane.state = ((s.venue v).lane.arbitrate s.arbiter (s.sampleKeys.asks v)).state ∧
      (t.venue v).lane.lastHolder = ((s.venue v).lane.arbitrate s.arbiter (s.sampleKeys.asks v)).lastHolder := by
  have ends : s.gapEnds v = true := by simp [State.gapEnds, gap]
  obtain ⟨state, last⟩ := State.foldbackStep_lane { s with due := s.due.erase .foldbackStep } v
  have turn : ({ s with due := s.due.erase .foldbackStep } : State).turnedLane v =
      (s.venue v).lane.arbitrate s.arbiter (s.sampleKeys.asks v) := Lane.turn_of_gap _ _ _ gap
  rw [turn] at state last
  refine ⟨_, ?_, State.takeWork_due { s with due := s.due.erase .foldbackStep } .foldbackStep, state, last⟩
  rw [exec_gapEnd, State.takeDue_of_due due ends]

/-- Settles O48. -/
theorem foldbackEventsAndWindowRestart : Obligations.FoldbackEventsAndWindowRestart := by
  refine ⟨fun s n due key one => ?_, fun s v asks due fixed gap hasks => ?_, fun s due => ?_, fun s v c q n fr nil i hi => ?_⟩
  · have runs : s.keyRunsOut n = true := by simp [State.keyRunsOut, key, one]
    have taken : exec (.softwareKeyExpiry n) s =
        .next (({ s with due := s.due.erase .foldbackStep } : State).foldbackStep) := by
      rw [exec_softwareKeyExpiry, State.takeDue_of_due due runs]
      rfl
    have source := State.foldbackStep_source { s with due := s.due.erase .foldbackStep }
    refine ⟨_, taken, State.takeWork_due _ .foldbackStep, ?_, fun m => ?_, fun v on held => ?_⟩
    · rw [source, Source.sample_eq]
      show ({ s.source n with
        softKey := (s.source n).softKey && (s.source n).remaining != 1
        remaining := if (s.source n).softKey then (s.source n).remaining - 1 else (s.source n).remaining
        lineSample := s.keyLow.getLsbD n.val } : Source) = _
      rw [key, one]
      rfl
    · rw [source, Source.sample_eq]
      rfl
    · rw [(State.foldbackStep_lane _ v).1]
      have keyed := s.sampleKeys_keyed n
      rw [one, bne_self_eq_false, Bool.and_false, Bool.or_false] at keyed
      rw [← keyed]
      exact Lane.turn_of_held _ _ _ on held
  · obtain ⟨t, taken, left, state, last⟩ := exec_gapEnd_of_due due gap
    have asks_iff : ∀ m, s.sampleKeys.asks v m = true ↔ asks m := fun m => by
      rw [State.sampleKeys_asks_iff, hasks]
    refine ⟨t, taken, left, fun nobody => ?_, fun m asking first => ?_⟩
    · rw [state, last, Lane.arbitrate_none _ _ _ fun n => Bool.eq_false_iff.2 fun h => nobody n ((asks_iff n).1 h)]
      exact ⟨rfl, rfl⟩
    · rw [state, last, Lane.arbitrate_first ((asks_iff m).2 asking) fun k hk => ?_]
      · exact ⟨rfl, rfl⟩
      · rw [fixed]
        show m.val ≤ k.val
        exact not_lt.1 fun lt => first k lt ((asks_iff k).1 hk)
  · have taken : exec .degradeWindowRestart s =
        .next (({ s with due := s.due.erase .windowRestart } : State).windowRestart) := by
      rw [exec_degradeWindowRestart, State.takeDue_of_due due rfl]
      rfl
    refine ⟨_, taken, rfl, rfl, fun v => ?_⟩
    rw [State.windowRestart_venue]
    show (if (s.venue v).isOpen then _ else _) = _
    by_cases free : (s.venue v).state = .free
    · rw [if_pos free, if_neg fun h => State.isOpen_iff.1 h free]
      rfl
    · rw [if_neg free, if_pos (State.isOpen_iff.2 free)]
      rfl
  · have none_due : ∀ w b, s.takeDue w b = s := fun w b => by
      rw [State.takeDue, nil]
      rfl
    simp only [List.mem_cons, List.not_mem_nil, or_false] at hi
    rcases hi with rfl | rfl | rfl | rfl | rfl | rfl | rfl | rfl | rfl | rfl | rfl
    case inr.inr.inl =>
      show Host.Outcome.next (match (s.circuit c).venue with | none => s | some v => _) = _
      cases (s.circuit c).venue with
      | none => rfl
      | some v => exact congrArg _ (none_due _ _)
    all_goals exact congrArg _ (none_due _ _)

/-! ### Arbitration by priority (R136) -/

/-- Settles O26: the three events at which a lane arbitrates. -/
theorem laneGoesToFirstInPriority : Obligations.LaneGoesToFirstInPriority := by
  intro s v rank hrank
  have rank_eq : ∀ k, rank k = (s.venue v).lane.rank s.arbiter k := hrank
  refine ⟨fun asks m due gap hasks asking first => ?_, fun x m h ho off asking first => ?_,
    fun x n m d h on idle was target asking first => ?_⟩
  · obtain ⟨t, taken, _, state, last⟩ := exec_gapEnd_of_due due gap
    have asks_iff : ∀ m, s.sampleKeys.asks v m = true ↔ asks m := fun m => by
      rw [State.sampleKeys_asks_iff, hasks]
    have granted := Lane.arbitrate_first (l := (s.venue v).lane) (mode := s.arbiter) ((asks_iff m).2 asking) fun k hk => by
      rw [← rank_eq, ← rank_eq]
      exact first k ((asks_iff k).1 hk)
    rw [granted] at state last
    exact ⟨t, taken, state, last⟩
  · have code : ∀ k, (some 1 : Option Nat) = some k → k ≤ 1 := fun k e => Option.some.inj e ▸ le_refl 1
    have exec' := exec_laneSet_of_checks (a := ⟨some 1, none, none⟩) h ho (fun k e => nomatch e) code
    obtain ⟨set, _, last⟩ := Lane.set_of_on (a := ⟨some 1, none, none⟩) s.arbiter (s.asks v) off rfl
    have granted : ((s.venue v).lane.change ⟨some 1, none, none⟩).arbitrate s.arbiter (s.asks v) = _ :=
      Lane.arbitrate_first asking fun k hk => by
        have := first k hk
        rw [rank_eq, rank_eq] at this
        exact this
    refine ⟨_, exec', ?_, ?_⟩
    · show ((s.setLane v _).venue v).lane.state = _
      rw [State.setLane_set, State.setVenue_venue, set, granted]
    · show ((s.setLane v _).venue v).lane.lastHolder = _
      rw [State.setLane_set, State.setVenue_venue, set, granted]
  · obtain ⟨_, venues, asksNow⟩ := State.changeSource_spec (s := s) (n := n) (f := fun y => y.key d) rfl rfl
    have now : ((s.source n).key d).wants v = true := by
      simp [Source.wants, Source.key, Source.keyed, target]
    have asks : ∀ k, (s.setSource n ((s.source n).key d)).asks v k = true ↔ k = n ∨ (s.source k).wants v = true := fun k => by
      by_cases hk : k = n
      · rw [hk, asksNow, now]
        simp
      · rw [State.setSource_asks, if_neg hk, or_iff_right hk]
        rfl
    have granted := Lane.arbitrate_first (l := (s.venue v).lane) (mode := s.arbiter) ((asks m).2 asking) fun k hk => by
      rw [← rank_eq, ← rank_eq]
      exact first k ((asks k).1 hk)
    have lane : ((s.changeSource n fun y => y.key d).venue v).lane =
        { (s.venue v).lane with state := .held m, lastHolder := some m } := by
      rw [venues, Venue.modLane_lane, Lane.follow_eq, asksNow, if_neg (by simp [was]), if_pos ⟨was, now, on, idle⟩, granted]
    refine ⟨_, acceptedSource_key n h d, ?_, ?_⟩
    · exact congrArg Lane.state lane
    · exact congrArg Lane.lastHolder lane

/-! ### The frame of a foldback step (R139, R140) -/

theorem blockSampleBytes_ofFn (f : Fin 48 → Sample) :
    blockSampleBytes (Vector.ofFn f) = (List.finRange 48).flatMap fun j => be 3 (f j).toNat := by
  rw [blockSampleBytes, Vector.toList_ofFn, List.ofFn_eq_map, List.flatMap_map]

theorem flatMap_length_of {α : Type} {f : α → List Byte} {k : Nat} (h : ∀ x, (f x).length = k) (xs : List α) :
    (xs.flatMap f).length = k * xs.length := by
  induction xs with
  | nil => rfl
  | cons x xs ih => rw [List.flatMap_cons, List.length_append, h, ih, List.length_cons, Nat.mul_succ, Nat.add_comm]

theorem blockSampleBytes_length (b : BlockSamples) : (blockSampleBytes b).length = 144 := by
  rw [blockSampleBytes, flatMap_length_of fun x : Sample => be_length 3 x.toNat, Vector.length_toList]

theorem foldbackFrame_payload_length (s : State) (v : Fin 24) :
    (foldbackFrame s v).payload.length = 2 * (s.tallied v).length + 288 := by
  have tally : ∀ c, (tallyBytes s c).length = 2 := fun c => by
    rw [tallyBytes, List.length_append, u8_eq_singleton, flagByte_eq_singleton]
    rfl
  show ((s.tallied v).flatMap (tallyBytes s) ++ _ ++ _).length = _
  rw [List.length_append, List.length_append, blockSampleBytes_length, blockSampleBytes_length, flatMap_length_of tally]

theorem Lane.isHeld_iff (l : Lane) : l.isHeld = true ↔ ∃ m, l.state = .held m := by
  unfold Lane.isHeld
  cases l.state <;> simp

theorem State.onAir_iff {s : State} {c : Fin 128} (kind : (s.circuit c).kind = .commentary) : s.onAir c = true ↔
    ((s.circuit c).state = .running ∨ (s.circuit c).state = .concealing ∨ (s.circuit c).state = .closing) ∧
      ∃ i y, (s.slot i).muted = false ∧ (s.slot i).source = some y ∧ y.circuit = c := by
  have names : ∀ sl : Slot, sl.names c = true ↔ ∃ y, sl.source = some y ∧ y.circuit = c := fun sl => by
    unfold Slot.names
    cases sl.source <;> simp
  have any : (s.slots.toList.any fun sl => !sl.muted && sl.names c) = true ↔
      ∃ i, (s.slot i).muted = false ∧ (s.slot i).names c = true := by
    simp only [List.any_eq_true, Vector.mem_toList_iff, Bool.and_eq_true, Bool.not_eq_true']
    constructor
    · rintro ⟨sl, hsl, h⟩
      obtain ⟨i, lt, rfl⟩ := Vector.mem_iff_getElem.1 hsl
      exact ⟨⟨i, lt⟩, h⟩
    · rintro ⟨i, h⟩
      exact ⟨s.slot i, Vector.getElem_mem _, h⟩
  simp only [State.onAir, kind, beq_self_eq_true, Bool.true_and, Bool.and_eq_true, any, names, Bool.or_eq_true,
    beq_iff_eq, or_assoc]
  constructor
  · rintro ⟨plays, i, muted, y, named⟩
    exact ⟨plays, i, y, muted, named⟩
  · rintro ⟨plays, i, y, muted, named⟩
    exact ⟨plays, i, muted, y, named⟩

/-- R140: the header of a foldback frame. -/
theorem foldbackFrame_header (s : State) (v : Fin 24) (key : BitVec 16) (domain : Byte) :
    (foldbackFrame s v).header key domain = wireVct 1 4 (if (s.venue v).lane.isHeld then 4 else 0) domain key 255 1
      ((s.venue v).lane.sequence.setWidth 32) (BitVec.ofNat 16 (2 * (s.tallied v).length + 288))
      (BitVec.ofNat 8 (s.tallied v).length) := by
  rw [VctOut.header_eq, foldbackFrame_payload_length]
  have flags : BitVec.ofNat 8 (foldbackFrame s v).flags = if (s.venue v).lane.isHeld then 4 else 0 := by
    show BitVec.ofNat 8 (if (s.venue v).lane.isHeld then 4 else 0) = _
    split <;> rfl
  rw [flags]
  rfl

/-- The ports after a venue that feeds sent its frame: those that carry nothing, then those that do. -/
theorem State.sendFoldback_port {s : State} {v : Fin 24} (feeds : (s.venue v).feeds = true) :
    (∀ i, (∀ q, s.Silent v q i) → (s.sendFoldback v).port i = s.port i) ∧
    ∀ i q r, (s.venue v).pathA.port ≠ (s.venue v).pathB.port → ((s.venue v).path q).port = some i →
      ((s.venue v).path q).state = .up → ((s.venue v).path q).reply = some r → (s.port i).enable = true →
      ∃ (tags : List (Bool × BitVec 16)) (bytes : List Byte), tags.map (fun x => x.2) = r.tags ∧
        bytes = wireFrame r.address (s.port i).address tags (s.port i).etherType
          ((foldbackFrame s v).header (s.venue v).key r.domain ++ (foldbackFrame s v).payload) ∧
        (s.sendFoldback v).port i = if (s.port i).linkUp = true ∧ (s.port i).queue.length < 128
          then { s.port i with queue := (s.port i).queue ++ [bytes ++ List.replicate (60 - bytes.length) 0] }
          else { s.port i with dropped := min 65535 ((s.port i).dropped + 1) } := by
  have venue := s.setVenue_venue v (s.venue v).counted
  have path : ∀ q, ((s.setVenue v (s.venue v).counted).venue v).path q = (s.venue v).path q := fun q => by
    rw [venue]; cases q <;> rfl
  rw [State.sendFoldback_of_feeds feeds]
  refine ⟨fun i silent => ?_, fun i q r two on up reply enabled => ?_⟩
  · refine State.submit_port_of_silent _ fun q => ?_
    unfold State.Silent
    rw [path]
    exact silent q
  · obtain ⟨tags, bytes, controls, spelt, sent⟩ := State.submit_port (foldbackFrame s v) (v := v) (i := i) (q := q) (r := r)
      (s := s.setVenue v (s.venue v).counted) (by rw [venue]; exact two) (by rw [path]; exact on) (by rw [path]; exact up)
      (by rw [path]; exact reply) enabled
    rw [venue] at spelt
    exact ⟨tags, bytes, controls, spelt, sent⟩

/-- Settles O49, by the parity of the block count. -/
theorem foldbackStepKeepsOrSends : Obligations.FoldbackStepKeepsOrSends := by
  refine ⟨fun s ws hq due odd => ?_, fun s ws v onAir hq due even open' on alone few two hair => ?_⟩
  · have step' : ({ s with due := ws } : State).takeWork .foldbackStep =
        ({ s with due := ws } : State).turned.bufferLanes := State.foldbackStep_of_odd (s := { s with due := ws }) odd
    have turned := State.turned_eq { s with due := ws }
    refine ⟨_, step_of_due hq due, ?_⟩
    rw [step']
    refine ⟨by rw [State.bufferLanes_eq, turned], by rw [State.bufferLanes_eq, turned],
      by rw [State.bufferLanes_eq, turned], fun v => ?_⟩
    have ret : ({ s with due := ws } : State).turned.returnBlock = s.returnBlock := by rw [turned]
    rw [State.bufferLanes_venue, State.turned_lane, Venue.modLane_lane, ret]
    have enable : (({ s with due := ws } : State).turnedLane v).enable = (s.venue v).lane.enable := Lane.turn_enable ..
    have half : (({ s with due := ws } : State).turnedLane v).half = (s.venue v).lane.half := Lane.turn_half ..
    have sequence : (({ s with due := ws } : State).turnedLane v).sequence = (s.venue v).lane.sequence :=
      Lane.turn_sequence ..
    dsimp only
    rw [enable]
    cases (s.venue v).lane.enable with
    | false => exact ⟨half, sequence⟩
    | true => exact ⟨rfl, sequence⟩
  · have turned := State.turned_eq { s with due := ws }
    have venue := State.turned_lane { s with due := ws }
    generalize hu : ({ s with due := ws } : State).turned = u at turned venue
    have lane : ∀ w, (u.venue w).lane = ({ s with due := ws } : State).turnedLane w := fun w => by rw [venue]
    have feeds : ∀ w, (u.venue w).feeds = (s.venue w).feeds := fun w => by
      rw [venue]
      exact congrArg ((s.venue w).isOpen && ·) (Lane.turn_enable ..)
    have feedsV : (u.venue v).feeds = true := by
      rw [feeds, Venue.feeds, State.isOpen_iff.2 open', on]
      rfl
    have rest : ∀ w, w ≠ v → (u.venue w).feeds = false := fun w hw => by
      rw [feeds]
      by_cases free : (s.venue w).state = .free
      · rw [Venue.feeds, Bool.eq_false_iff.2 fun h => State.isOpen_iff.1 h free]
        rfl
      · rw [Venue.feeds, alone w hw free, Bool.and_false]
    have port : ∀ i, u.port i = s.port i := fun i => by rw [turned]; rfl
    have circuit : ∀ c, u.circuit c = s.circuit c := fun c => by rw [turned]; rfl
    have slot : ∀ i, u.slot i = s.slot i := fun i => by rw [turned]; rfl
    have ret : u.returnBlock = s.returnBlock := by rw [turned]
    have path : ∀ q, (u.venue v).path q = (s.venue v).path q := fun q => by rw [venue]; cases q <;> rfl
    have key : (u.venue v).key = (s.venue v).key := by rw [venue]; rfl
    have half : (u.venue v).lane.half = (s.venue v).lane.half := by rw [lane]; exact Lane.turn_half ..
    have sequence : (u.venue v).lane.sequence = (s.venue v).lane.sequence := by rw [lane]; exact Lane.turn_sequence ..
    have sends : ({ s with due := ws } : State).takeWork .foldbackStep = u.sendFoldback v := by
      have odd : ¬ ({ s with due := ws } : State).blockCount.toNat % 2 = 1 := by
        show ¬ s.reference.blockCount.toNat % 2 = 1
        omega
      have whole := State.foldbackStep_of_even odd
      rw [hu, State.foldl_sendFoldback_only (vs := allVenues) (List.nodup_finRange 24) (List.mem_finRange v) rest] at whole
      exact whole
    have sent := State.sendFoldback_venue u v v
    rw [if_pos ⟨rfl, feedsV⟩] at sent
    have tallied : u.tallied v = (s.venue v).circuits.filter fun c => (s.circuit c).kind == .commentary := by
      have listed : (u.venue v).circuits = (s.venue v).circuits := by rw [venue]; rfl
      rw [State.tallied, listed]
      simp only [circuit]
    have tally : ∀ c ∈ u.tallied v, tallyBytes u c = [BitVec.ofNat 8 ((s.circuit c).tag.getD 0), if onAir c then 1 else 0] := by
      intro c hc
      rw [tallied, List.mem_filter, beq_iff_eq] at hc
      have air : u.onAir c = onAir c := by
        rw [Bool.eq_iff_iff, State.onAir_iff (by rw [circuit]; exact hc.2), hair, circuit]
        simp only [slot]
      rw [tallyBytes, air, circuit, u8_eq_singleton, flagByte_eq_singleton]
      rfl
    obtain ⟨quiet, carried⟩ := State.sendFoldback_port feedsV
    refine ⟨_, _, _, step_of_due hq due, State.takeWork_due _ .foldbackStep, rfl, rfl, ?_⟩
    rw [sends, sent]
    refine ⟨by rw [← sequence]; rfl, half, fun i silent => ?_, fun i q r place up reply enabled => ?_⟩
    · rw [quiet i fun q => ?_, port]
      unfold State.Silent
      rw [path, port]
      exact silent q
    · obtain ⟨tags, bytes, controls, spelt, queued⟩ := carried i q r (by rw [venue]; exact two) (by rw [path]; exact place)
        (by rw [path]; exact up) (by rw [path]; exact reply) (by rw [port]; exact enabled)
      rw [port] at spelt queued
      refine ⟨tags, bytes, controls, ?_, queued⟩
      have payload : (foldbackFrame u v).payload = (u.tallied v).flatMap (tallyBytes u) ++
          blockSampleBytes (u.venue v).lane.half ++ blockSampleBytes ((u.venue v).lane.block u.returnBlock) := rfl
      have held : (if ∃ m, (u.venue v).counted.lane.state = .held m then (4 : Byte) else 0) =
          if (u.venue v).lane.isHeld then 4 else 0 := if_congr (Lane.isHeld_iff (u.venue v).lane).symm rfl rfl
      rw [spelt, foldbackFrame_header, payload, List.flatMap_congr tally, tallied, key, half, sequence, ret, Lane.block,
        blockSampleBytes_ofFn, held]
      simp only [List.append_assoc]
      rfl

end Sys2Proof.Machine
end

section
/-! PROOFS. Received frames: the port tests, and a frame that reaches its venue (sections 3.2 and 11.1.1, R43 to R51). -/

namespace Sys2Proof.Machine

/-! ### The bytes of a frame (R43, R44) -/

theorem take_be_append {k n m : Nat} (h : m = k) (bs : List Byte) : (be k n ++ bs).take m = be k n := by
  subst h
  exact List.take_left' (be_length m n)

theorem drop_be_append {k n m : Nat} (h : m = k) (bs : List Byte) : (be k n ++ bs).drop m = bs := by
  subst h
  exact List.drop_left' (be_length m n)

theorem addressOf_be (a : BitVec 48) (bs : List Byte) : addressOf (be 6 a.toNat ++ bs) = a := by
  rw [addressOf, take_be_append rfl, ofBe_be (by have := a.isLt; omega), BitVec.ofNat_toNat, BitVec.setWidth_eq]

theorem isTagType_be {n : Nat} (h : n < 65536) (ne : n ≠ 0x8100) (ne' : n ≠ 0x88A8) :
    isTagType (ofBe [BitVec.ofNat 8 (n / 256), BitVec.ofNat 8 n]) = false := by
  have spelt : ofBe [BitVec.ofNat 8 (n / 256), BitVec.ofNat 8 n] = n := by
    rw [← u16_eq_pair, u16, ofBe_be (by omega)]
  rw [spelt]
  simp [isTagType, ne, ne']

/-- R44: counting stops at the first type field that opens no tag. -/
theorem scanTags_of_type {ty : BitVec 16} (ne : ty ≠ 0x8100) (ne' : ty ≠ 0x88A8) (rest : List Byte) :
    scanTags (be 2 ty.toNat ++ rest) = ([], be 2 ty.toNat ++ rest) := by
  have stop := isTagType_be ty.isLt (fun e => ne (BitVec.eq_of_toNat_eq e)) fun e => ne' (BitVec.eq_of_toNat_eq e)
  rw [← u16, u16_eq_pair]
  match rest with
  | [] => rfl
  | [_] => rfl
  | c :: d :: rest =>
    show scanTags (BitVec.ofNat 8 (ty.toNat / 256) :: BitVec.ofNat 8 ty.toNat :: c :: d :: rest) = _
    rw [scanTags, stop]
    rfl

/-- R44: each tag is counted with its control value, whichever of the two types opens it. -/
theorem scanTags_tag (service : Bool) (control : BitVec 16) (bs : List Byte) :
    scanTags (be 2 (if service then 0x88A8 else 0x8100) ++ be 2 control.toNat ++ bs) =
      (control :: (scanTags bs).1, (scanTags bs).2) := by
  have spelt : ofBe [BitVec.ofNat 8 (control.toNat / 256), BitVec.ofNat 8 control.toNat] = control.toNat := by
    rw [← u16_eq_pair, u16, ofBe_be (by have := control.isLt; omega)]
  rw [← u16, ← u16, u16_eq_pair, u16_eq_pair]
  show scanTags (_ :: _ :: _ :: _ :: bs) = _
  rw [scanTags, spelt, BitVec.ofNat_toNat, BitVec.setWidth_eq]
  cases service <;> rfl

theorem scanTags_wire {ty : BitVec 16} (ne : ty ≠ 0x8100) (ne' : ty ≠ 0x88A8) (tags : List (Bool × BitVec 16))
    (rest : List Byte) :
    scanTags ((tags.flatMap fun t => be 2 (if t.1 then 0x88A8 else 0x8100) ++ be 2 t.2.toNat) ++
      (be 2 ty.toNat ++ rest)) = (tags.map fun t => t.2, be 2 ty.toNat ++ rest) := by
  induction tags with
  | nil => exact scanTags_of_type ne ne' rest
  | cons t tags ih => rw [List.flatMap_cons, List.append_assoc, scanTags_tag, ih]; rfl

/-- R43 to R45: the port tests of a frame in the order of section 3.2, on what its bytes spell. -/
theorem readFrame_wire (pt : Port) (dst src : BitVec 48) (tags : List (Bool × BitVec 16)) {ty : BitVec 16}
    (rest : List Byte) (fcsOk : Bool) {rx : RxFrame} (hrx : rx = ⟨wireFrame dst src tags ty rest, fcsOk, true⟩)
    (ne : ty ≠ 0x8100) (ne' : ty ≠ 0x88A8) : readFrame pt rx =
      if fcsOk = false ∨ rx.bytes.length + 4 < 64 ∨ 1518 + 4 * pt.tagMode.limit < rx.bytes.length + 4 then .malformed
      else if dst ≠ pt.address ∧ dst.getLsbD 40 = false then .ignored
      else if src.getLsbD 40 = true then .malformed
      else if pt.tagMode.limit < tags.length then .tagDiscard
      else if ty ≠ pt.etherType then .notVct
      else readVct pt rest (rx.bytes.length + 4) src (tags.map fun t => t.2) := by
  have bytes : rx.bytes = be 6 dst.toNat ++ (be 6 src.toNat ++
      ((tags.flatMap fun t => be 2 (if t.1 then 0x88A8 else 0x8100) ++ be 2 t.2.toNat) ++ (be 2 ty.toNat ++ rest))) := by
    rw [hrx]
    simp only [wireFrame, List.append_assoc]
  have hdst : addressOf rx.bytes = dst := by rw [bytes, addressOf_be]
  have hsrc : addressOf (rx.bytes.drop 6) = src := by rw [bytes, drop_be_append rfl, addressOf_be]
  have scanned : scanTags (rx.bytes.drop 12) = (tags.map fun t => t.2, be 2 ty.toNat ++ rest) := by
    rw [bytes, show 12 = 6 + 6 from rfl, ← List.drop_drop, drop_be_append rfl, drop_be_append rfl, scanTags_wire ne ne']
  have type' : ofBe ((be 2 ty.toNat ++ rest).take 2) = ty.toNat := by
    rw [take_be_append rfl, ofBe_be (by have := ty.isLt; omega)]
  have sum : rx.fcsOk = fcsOk := by rw [hrx]
  unfold readFrame
  simp only [hdst, hsrc, scanned, type', sum, drop_be_append, List.length_map, isGroup, Bool.or_eq_true, Bool.not_eq_true',
    decide_eq_true_eq, Bool.and_eq_true, bne_iff_ne, or_assoc, ne_eq, BitVec.toNat_inj]

/-! ### The VCT header (R46, R47) -/

/-- R46: the fields of a VCT header agree with one another and with the bytes carried. -/
def VctAgrees (version kind channels : Byte) (len : BitVec 16) (entries : Byte) (carried size : Nat) : Prop :=
  version = 1 ∧ (len.toNat = carried ∨ (size = 64 ∧ len.toNat ≤ carried)) ∧
    ((kind = 1 ∧ (channels = 1 ∨ channels = 2) ∧ len.toNat = 288 * channels.toNat) ∨
      (kind = 2 ∧ len.toNat = 3 * entries.toNat))

theorem byte_toNat_beq (b : Byte) (n : Byte) : (b.toNat == n.toNat) = (b == n) := by
  rw [Bool.eq_iff_iff, beq_iff_eq, beq_iff_eq, BitVec.toNat_inj]

theorem vctWellFormed_iff (version kind channels : Byte) (len : BitVec 16) (entries : Byte) (carried size : Nat) :
    vctWellFormed version.toNat kind.toNat channels.toNat len.toNat entries.toNat carried size = true ↔
      VctAgrees version kind channels len entries carried size := by
  have one : ∀ b : Byte, (b.toNat == 1) = (b == 1) := fun b => byte_toNat_beq b 1
  have two : ∀ b : Byte, (b.toNat == 2) = (b == 2) := fun b => byte_toNat_beq b 2
  simp only [vctWellFormed, payloadAgrees, one, two, Bool.and_eq_true, Bool.or_eq_true, beq_iff_eq, decide_eq_true_eq,
    VctAgrees, and_assoc]

/-- A frame of these fields, as the port reads it (section 11.1.1). -/
def vctOf (kind flags domain : Byte) (key : BitVec 16) (tag channels : Byte) (frame : FrameNo) (len : BitVec 16)
    (entries : Byte) (payload : List Byte) (address : BitVec 48) (tags : List (BitVec 16)) : VctIn where
  audio := kind == 1
  repair := flags.getLsbD 0
  restart := flags.getLsbD 1
  domain := domain
  key := key
  tag := tag.toNat
  channels := channels.toNat
  frame := frame
  entries := entries.toNat
  payload := payload.take len.toNat
  address := address
  tags := tags

theorem readVct_wire (pt : Port) (version kind flags domain : Byte) (key : BitVec 16) (tag channels : Byte)
    (frame : FrameNo) (len : BitVec 16) (entries : Byte) (payload : List Byte) (size : Nat) (address : BitVec 48)
    (tags : List (BitVec 16)) :
    readVct pt (wireVct version kind flags domain key tag channels frame len entries ++ payload) size address tags =
      if ¬ vctWellFormed version.toNat kind.toNat channels.toNat len.toNat entries.toNat payload.length size = true
        then .malformed
      else if (pt.domain.any fun d => d != domain) = true then .wrongDomain
      else .vct (vctOf kind flags domain key tag channels frame len entries payload address tags) := by
  generalize hbs : wireVct version kind flags domain key tag channels frame len entries ++ payload = bs
  have split : bs = [version, kind, flags, domain] ++ (be 2 key.toNat ++ ([tag, channels] ++ (be 4 frame.toNat ++
      (be 2 len.toNat ++ ([entries, 0] ++ payload))))) := by
    rw [← hbs]
    simp only [wireVct, List.append_assoc]
  have length : bs.length = payload.length + 16 := by
    rw [split]
    simp only [List.length_append, be_length, List.length_cons, List.length_nil]
    omega
  have keyAt : (bs.drop 4).take 2 = be 2 key.toNat := by rw [split]; rfl
  have frameAt : (bs.drop 8).take 4 = be 4 frame.toNat := by rw [split]; rfl
  have lenAt : (bs.drop 12).take 2 = be 2 len.toNat := by rw [split]; rfl
  have payloadAt : bs.drop 16 = payload := by rw [split]; rfl
  have lenIs : ofBe (be 2 len.toNat) = len.toNat := ofBe_be (by have := len.isLt; omega)
  have keyIs : BitVec.ofNat 16 (ofBe (be 2 key.toNat)) = key := by
    rw [ofBe_be (by have := key.isLt; omega), BitVec.ofNat_toNat, BitVec.setWidth_eq]
  have frameIs : BitVec.ofNat 32 (ofBe (be 4 frame.toNat)) = frame := by
    rw [ofBe_be (by have := frame.isLt; omega), BitVec.ofNat_toNat, BitVec.setWidth_eq]
  have bytes : headerByte bs 0 = version ∧ headerByte bs 1 = kind ∧ headerByte bs 2 = flags ∧ headerByte bs 3 = domain ∧
      headerByte bs 6 = tag ∧ headerByte bs 7 = channels ∧ headerByte bs 14 = entries := by
    rw [split]
    exact ⟨rfl, rfl, rfl, rfl, rfl, rfl, rfl⟩
  obtain ⟨b0, b1, b2, b3, b6, b7, b14⟩ := bytes
  have long : ¬ bs.length < 16 := by omega
  unfold readVct
  simp only [b0, b1, b2, b3, b6, b7, b14, lenAt, lenIs, keyAt, keyIs, frameAt, frameIs, payloadAt, if_neg long,
    show bs.length - 16 = payload.length by omega, Bool.not_eq_true']
  have kindIs : (kind.toNat == 1) = (kind == 1) := byte_toNat_beq kind 1
  rw [kindIs]
  rcases vctWellFormed version.toNat kind.toNat channels.toNat len.toNat entries.toNat payload.length size with _ | _ <;> rfl

/-! ### A port that takes frames -/

theorem exec_frameReceived (p : Fin 4) (rx : RxFrame) (s : State) :
    exec (.frameReceived p rx) s = .next (s.receive p rx) := rfl

theorem State.receive_of_stale (s : State) (p : Fin 4) {rx : RxFrame} (h : rx.fresh = false) : s.receive p rx = s := by
  rw [State.receive, h, Bool.not_false, Bool.or_true]
  rfl

/-- A port that takes frames judges a fresh one. -/
theorem State.receive_passes {s : State} {p : Fin 4} {rx : RxFrame} (h : Listening s p) (fresh : rx.fresh = true) :
    (s.resetLow || !(s.port p).enable || !(s.port p).linkUp || !rx.fresh) = false := by
  obtain ⟨high, enabled, up⟩ := h
  rw [high, enabled, up, fresh]
  rfl

section Verdicts

variable {s : State} {p : Fin 4} {rx : RxFrame} (h : Listening s p) (fresh : rx.fresh = true)

include h fresh

theorem exec_frameReceived_of_ignored (v : readFrame (s.port p) rx = .ignored) :
    exec (.frameReceived p rx) s = .next s := by
  rw [exec_frameReceived, State.receive, State.receive_passes h fresh, v]
  rfl

theorem exec_frameReceived_of_malformed (v : readFrame (s.port p) rx = .malformed) : exec (.frameReceived p rx) s =
    .next (s.setPort p { s.port p with malformed := min 65535 ((s.port p).malformed + 1) }) := by
  rw [exec_frameReceived, State.receive, State.receive_passes h fresh, v]
  rfl

theorem exec_frameReceived_of_tagDiscard (v : readFrame (s.port p) rx = .tagDiscard) : exec (.frameReceived p rx) s =
    .next (s.setPort p { s.port p with tagDiscards := min 65535 ((s.port p).tagDiscards + 1) }) := by
  rw [exec_frameReceived, State.receive, State.receive_passes h fresh, v]
  rfl

theorem exec_frameReceived_of_notVct (v : readFrame (s.port p) rx = .notVct) : exec (.frameReceived p rx) s =
    .next (s.setPort p { s.port p with notVct := min 65535 ((s.port p).notVct + 1) }) := by
  rw [exec_frameReceived, State.receive, State.receive_passes h fresh, v]
  rfl

theorem exec_frameReceived_of_wrongDomain (v : readFrame (s.port p) rx = .wrongDomain) : exec (.frameReceived p rx) s =
    .next (s.setPort p { s.port p with wrongDomain := min 65535 ((s.port p).wrongDomain + 1) }) := by
  rw [exec_frameReceived, State.receive, State.receive_passes h fresh, v]
  rfl

theorem exec_frameReceived_of_vct {f : VctIn} (v : readFrame (s.port p) rx = .vct f) :
    exec (.frameReceived p rx) s = .next (s.takeVct p f) := by
  rw [exec_frameReceived, State.receive, State.receive_passes h fresh, v]
  rfl

end Verdicts

theorem State.venueOfKey_eq_none {s : State} {k : BitVec 16}
    (h : ∀ v, (s.venue v).state ≠ .free → (s.venue v).key ≠ k) : s.venueOfKey k = none := by
  rw [State.venueOfKey, List.find?_eq_none]
  intro v _ held
  rw [Bool.and_eq_true, State.isOpen_iff, beq_iff_eq] at held
  exact h v held.1 held.2

/-- R2, R48: the venue that holds a key is found by it. -/
theorem State.venueOfKey_eq_some {s : State} {k : BitVec 16} {v : Fin 24} (h : KeyLaw s)
    (ho : (s.venue v).state ≠ .free) (hk : (s.venue v).key = k) : s.venueOfKey k = some v := by
  cases found : s.venueOfKey k with
  | none =>
    have := List.find?_eq_none.1 found v (List.mem_finRange v)
    rw [Bool.and_eq_true, State.isOpen_iff, beq_iff_eq] at this
    exact absurd ⟨ho, hk⟩ this
  | some w =>
    obtain ⟨wo, wk⟩ := State.venueOfKey_open found
    rw [h.1 w v wo (State.isOpen_iff.2 ho) (wk.trans hk.symm)]

theorem State.takeVct_of_unknown {s : State} {p : Fin 4} {f : VctIn} (h : s.venueOfKey f.key = none) :
    s.takeVct p f = s.setPort p { s.port p with unknownKey := min 65535 ((s.port p).unknownKey + 1) } := by
  rw [State.takeVct, h]
  rfl

/-- Settles O28: the tests of the frame's bytes, then those of the VCT header. -/
theorem portTestsCount : Obligations.PortTestsCount := by
  intro s p dst src tags ty rest fcsOk size limit pt rx hpt hlimit hrx hsize ne ne' h
  have fresh : rx.fresh = true := by rw [hrx]
  have limit_eq : pt.tagMode.limit = limit := by
    rw [hlimit]
    cases pt.tagMode <;> rfl
  have read := readFrame_wire pt dst src tags rest fcsOk hrx ne ne'
  rw [limit_eq, ← hsize] at read
  subst hpt
  refine ⟨fun y stale => ?_, fun bad => ?_, fun fcs small large => ?_⟩
  · rw [exec_frameReceived, State.receive_of_stale s p stale]
  · rw [if_pos bad] at read
    exact exec_frameReceived_of_malformed h fresh read
  · have passes : ¬ (fcsOk = false ∨ size < 64 ∨ 1518 + 4 * limit < size) := by
      rintro (bad | bad | bad)
      · rw [fcs] at bad
        cases bad
      · omega
      · omega
    rw [if_neg passes] at read
    refine ⟨fun other single => ?_, fun mine => ?_⟩
    · rw [if_pos ⟨other, single⟩] at read
      exact exec_frameReceived_of_ignored h fresh read
    · rw [if_neg fun g => mine.elim g.1 fun group => by rw [g.2] at group; cases group] at read
      refine ⟨fun group => ?_, fun single => ⟨fun many => ?_, fun few other => ?_, fun few type' => ?_⟩⟩
      · rw [if_pos group] at read
        exact exec_frameReceived_of_malformed h fresh read
      · rw [if_neg (by rw [single]; decide), if_pos many] at read
        exact exec_frameReceived_of_tagDiscard h fresh read
      · rw [if_neg (by rw [single]; decide), if_neg (by omega), if_pos other] at read
        exact exec_frameReceived_of_notVct h fresh read
      · rw [if_neg (by rw [single]; decide), if_neg (by omega), if_neg (not_not.2 type')] at read
        intro version kind flags domain key tag channels frame len entries payload hrest
        rw [hrest, readVct_wire] at read
        have agrees := vctWellFormed_iff version kind channels len entries payload.length size
        refine ⟨fun bad => ?_, fun one carried fields => ?_⟩
        · rw [if_pos] at read
          · exact exec_frameReceived_of_malformed h fresh read
          · rw [agrees]
            rintro ⟨one, carried, fields⟩
            rcases fields with ⟨k, c, l⟩ | ⟨k, l⟩
            · subst k
              rcases bad with g | g | g | g | g | g | g
              · exact g one
              · exact g.1 rfl
              · exact c.elim g.2.1 g.2.2
              · exact g.2 l
              · exact absurd g.1 (by decide)
              · omega
              · omega
            · subst k
              rcases bad with g | g | g | g | g | g | g
              · exact g one
              · exact g.2 rfl
              · exact absurd g.1 (by decide)
              · exact absurd g.1 (by decide)
              · exact g.2 l
              · omega
              · omega
        · rw [if_neg (not_not.2 (agrees.2 ⟨one, carried, fields⟩))] at read
          have same : (∀ d, (s.port p).domain = some d → d = domain) →
              ¬ ((s.port p).domain.any fun d => d != domain) = true := fun same => by
            rw [Option.any_eq_true]
            rintro ⟨d, hd, ne⟩
            exact bne_iff_ne.1 ne (same d hd)
          refine ⟨fun ⟨d, hd, ne⟩ => ?_, fun own unknown => ?_, fun own => ?_⟩
          · rw [if_pos (by rw [hd]; exact bne_iff_ne.2 ne)] at read
            exact exec_frameReceived_of_wrongDomain h fresh read
          · rw [if_neg (same own)] at read
            rw [exec_frameReceived_of_vct h fresh read, State.takeVct_of_unknown (State.venueOfKey_eq_none unknown)]
          · rw [if_neg (same own)] at read
            exact read

end Sys2Proof.Machine
end

section
/-! PROOFS. A frame that reaches its venue, and what is discarded of it (sections 1.4, 3.2, 4.2 and 9.3). -/

namespace Sys2Proof.Machine

/-! ### A frame handed on (R48 to R51) -/

/-- The part once a valid frame has come to venue `v` over its path `q`: counted taken, the path UP. -/
def State.heard (s : State) (p : Fin 4) (f : VctIn) (v : Fin 24) (q : PathId) : State :=
  (s.setPort p { s.port p with taken := min 65535 ((s.port p).taken + 1) }).setVenue v
    (heardVenue (s.venue v) q (heardPath s ((s.venue v).path q) f))

theorem Venue.setPath_leaveHoldover (ve : Venue) (q : PathId) (x : Path) :
    (ve.setPath q x).leaveHoldover = heardVenue ve q x := by
  cases q <;> rfl

/-- The heard venue keeps all but the path and what leaving HOLDOVER undoes. -/
theorem heardVenue_of_ne {ve : Venue} (h : ve.state ≠ .holdover) (q : PathId) (x : Path) :
    heardVenue ve q x = ve.setPath q x := if_neg h

theorem heardVenue_of_holdover {ve : Venue} (h : ve.state = .holdover) (q : PathId) (x : Path) :
    heardVenue ve q x = { ve.setPath q x with
      state := .active, holdoverElapsed := 0, holdoverSince := none
      timebase := { ve.timebase with loop := .acquiring, lockRun := 0, unlockRun := 0, sum := 0, count := 0 } } := if_pos h

section HeardVenue

variable (ve : Venue) (q : PathId) (x : Path)

/-- What a heard venue keeps, whatever its state was. -/
theorem heardVenue_keeps : (heardVenue ve q x).health = ve.health ∧ (heardVenue ve q x).circuits = ve.circuits ∧
    (heardVenue ve q x).settings = ve.settings ∧ (heardVenue ve q x).recovery = ve.recovery ∧
    (heardVenue ve q x).newest = ve.newest ∧ (heardVenue ve q x).timebase.phase = ve.timebase.phase := by
  unfold heardVenue
  split <;> cases q <;> exact ⟨rfl, rfl, rfl, rfl, rfl, rfl⟩

theorem heardVenue_health : (heardVenue ve q x).health = ve.health := (heardVenue_keeps ve q x).1
theorem heardVenue_circuits : (heardVenue ve q x).circuits = ve.circuits := (heardVenue_keeps ve q x).2.1
theorem heardVenue_phase : (heardVenue ve q x).timebase.phase = ve.timebase.phase := (heardVenue_keeps ve q x).2.2.2.2.2

theorem heardVenue_state : (heardVenue ve q x).state = if ve.state = .holdover then .active else ve.state := by
  unfold heardVenue
  split <;> cases q <;> rfl

theorem heardVenue_path : (heardVenue ve q x).path q = x := by
  unfold heardVenue
  split <;> cases q <;> rfl

end HeardVenue

section Heard

variable (s : State) (p : Fin 4) (f : VctIn) (v : Fin 24) (q : PathId)

theorem State.heard_venue : (s.heard p f v q).venue v = heardVenue (s.venue v) q (heardPath s ((s.venue v).path q) f) :=
  State.setVenue_venue _ v _

theorem State.heard_venue_of_ne {w : Fin 24} (h : w ≠ v) : (s.heard p f v q).venue w = s.venue w :=
  State.setVenue_venue_of_ne _ v w _ h

theorem State.heard_circuit (c : Fin 128) : (s.heard p f v q).circuit c = s.circuit c := rfl

theorem State.heard_tagged (tag : Nat) : (s.heard p f v q).tagged v tag = s.tagged v tag := by
  rw [State.tagged, State.heard_venue, heardVenue_circuits]
  rfl

end Heard

theorem Venue.pathOn_of_bound {ve : Venue} {p : Fin 4} {q : PathId} (two : ve.pathA.port ≠ ve.pathB.port)
    (port : (ve.path q).port = some p) (bound : (ve.path q).state ≠ .absent) : ve.pathOn p = some q := by
  cases q with
  | a => exact if_pos port
  | b =>
    have off : ve.pathA.port ≠ some p := fun e => two (e.trans port.symm)
    unfold Venue.pathOn
    rw [if_neg off, if_pos]
    have port' : ve.pathB.port = some p := port
    have bound' : ve.pathB.state ≠ .absent := bound
    simp [port', bound']

theorem State.takeVct_of_path {s : State} {p : Fin 4} {f : VctIn} {v : Fin 24} {q : PathId}
    (key : s.venueOfKey f.key = some v) (on : (s.venue v).pathOn p = some q) :
    s.takeVct p f = (s.heard p f v q).handOn v p f := by
  simp only [State.takeVct, key, State.modPort_eq, State.setPort_venue, on, State.modVenue_eq,
    Venue.setPath_leaveHoldover]
  rfl

/-- R48 to R51: a frame handed to its venue. -/
theorem Handed.exec_eq {s : State} {p : Fin 4} {rx : RxFrame} {f : VctIn} {v : Fin 24} {q : PathId}
    (h : Handed s p rx f v q) : exec (.frameReceived p rx) s = .next ((s.heard p f v q).handOn v p f) := by
  obtain ⟨listening, fresh, read, keys, isOpen, key, two, port, bound⟩ := h
  rw [exec_frameReceived_of_vct listening fresh read,
    State.takeVct_of_path (State.venueOfKey_eq_some keys isOpen key) (Venue.pathOn_of_bound two port bound)]

/-! ### ANNOUNCE frames (R13) -/

theorem announceEntries_bytes (es : List (Byte × Byte × Byte)) :
    announceEntries (es.flatMap fun e => [e.1, e.2.1, e.2.2]) = es.map fun e => (e.1.toNat, e.2.1.toNat, e.2.2.toNat) := by
  induction es with
  | nil => rfl
  | cons e es ih =>
    show announceEntries (e.1 :: e.2.1 :: e.2.2 :: es.flatMap fun e => [e.1, e.2.1, e.2.2]) = _
    rw [announceEntries, ih]
    rfl

theorem byte_toNat_eq (b n : Byte) : b.toNat = n.toNat ↔ b = n := BitVec.toNat_inj

/-- The codes of a circuit kind in an ANNOUNCE entry. -/
theorem kindOf_byte (b : Byte) : (b ∉ ([1, 2, 3] : List Byte) → kindOf b.toNat = none) ∧
    (b ∈ ([1, 2, 3] : List Byte) → kindOf b.toNat =
      some (if b = 1 then .commentary else if b = 2 then .crowd else .coord)) := by
  constructor
  · intro h
    simp only [List.mem_cons, List.not_mem_nil, or_false, not_or] at h
    have h1 : b.toNat ≠ 1 := mt (byte_toNat_eq b 1).1 h.1
    have h2 : b.toNat ≠ 2 := mt (byte_toNat_eq b 2).1 h.2.1
    have h3 : b.toNat ≠ 3 := mt (byte_toNat_eq b 3).1 h.2.2
    match b.toNat, h1, h2, h3 with
    | 0, _, _, _ => rfl
    | n + 4, _, _, _ => rfl
  · intro h
    simp only [List.mem_cons, List.not_mem_nil, or_false] at h
    rcases h with rfl | rfl | rfl <;> rfl

theorem judgeEntry_of_noKind (l : List Announced) {e : Nat × Nat × Nat} (h : kindOf e.2.1 = none) :
    judgeEntry l e = (l, true) := by
  rw [judgeEntry, h]

/-- R13: an entry of a kind is dropped as MALFORMED, kept, or dropped beyond the eighth. -/
theorem judgeEntry_of_kind (l : List Announced) {e : Nat × Nat × Nat} {k : CircuitKind} (h : kindOf e.2.1 = some k) :
    judgeEntry l e = if (e.1 = 255 ∨ ¬ (e.2.2 = 1 ∨ e.2.2 = 2)) ∨ (∃ x ∈ l, x.tag = e.1) then (l, true)
      else if l.length < 8 then (l ++ [⟨e.1, k, e.2.2⟩], false) else (l, false) := by
  have bad : (decide (e.1 = 255) || !(e.2.2 == 1 || e.2.2 == 2)) = true ↔ e.1 = 255 ∨ ¬ (e.2.2 = 1 ∨ e.2.2 = 2) := by simp
  have repeats : (l.any fun x => x.tag == e.1) = true ↔ ∃ x ∈ l, x.tag = e.1 := by simp
  rw [judgeEntry, h, ite_or]
  exact if_congr bad rfl (if_congr repeats rfl rfl)

theorem judgeEntry_byte (l : List Announced) (e : Byte × Byte × Byte) :
    judgeEntry l (e.1.toNat, e.2.1.toNat, e.2.2.toNat) =
      if e.1 = 255 ∨ e.2.1 ∉ [1, 2, 3] ∨ e.2.2 ∉ [1, 2] ∨ (∃ x ∈ l, x.tag = e.1.toNat) then (l, true)
      else if l.length < 8 then (l ++ [⟨e.1.toNat,
        if e.2.1 = 1 then .commentary else if e.2.1 = 2 then .crowd else .coord, e.2.2.toNat⟩], false)
      else (l, false) := by
  obtain ⟨other, coded⟩ := kindOf_byte e.2.1
  by_cases kind : e.2.1 ∈ ([1, 2, 3] : List Byte)
  · rw [judgeEntry_of_kind l (e := (e.1.toNat, e.2.1.toNat, e.2.2.toNat)) (coded kind)]
    refine if_congr ?_ rfl rfl
    have none' : e.1.toNat = 255 ↔ e.1 = 255 := byte_toNat_eq e.1 255
    have one : e.2.2.toNat = 1 ↔ e.2.2 = 1 := byte_toNat_eq e.2.2 1
    have two : e.2.2.toNat = 2 ↔ e.2.2 = 2 := byte_toNat_eq e.2.2 2
    have count : e.2.2 ∉ ([1, 2] : List Byte) ↔ ¬ (e.2.2 = 1 ∨ e.2.2 = 2) := by simp
    rw [none', one, two, count, or_assoc]
    simp only [kind, not_true_eq_false, false_or]
  · rw [judgeEntry_of_noKind l (e := (e.1.toNat, e.2.1.toNat, e.2.2.toNat)) (other kind), if_pos (.inr (.inl kind))]

/-- R13: a list built entry by entry as `judgeEntry` judges is the list built. -/
theorem buildAnnounced_eq {built : List (Byte × Byte × Byte) → List Announced × Nat} (nil : built [] = ([], 0))
    (snoc : ∀ l e, built (l ++ [e]) =
      ((judgeEntry (built l).1 (e.1.toNat, e.2.1.toNat, e.2.2.toNat)).1,
        if (judgeEntry (built l).1 (e.1.toNat, e.2.1.toNat, e.2.2.toNat)).2 then (built l).2 + 1 else (built l).2))
    (es : List (Byte × Byte × Byte)) :
    buildAnnounced (es.map fun e => (e.1.toNat, e.2.1.toNat, e.2.2.toNat)) = built es := by
  induction es using List.reverseRecOn with
  | nil => exact nil.symm
  | append_singleton l e ih =>
    rw [snoc, ← ih, List.map_append, buildAnnounced, List.foldl_append]
    rfl

/-- Reports of a venue are a change of its record. -/
theorem State.reports_setVenue (s : State) (v : Fin 24) (rs : List Report) :
    s.reports v rs = s.setVenue v ((s.reports v rs).venue v) := by
  induction rs generalizing s with
  | nil => rw [State.reports_nil, State.setVenue_self]
  | cons r rs ih =>
    calc (s.report v r).reports v rs = (s.report v r).setVenue v (((s.report v r).reports v rs).venue v) := ih _
      _ = s.setVenue v (((s.report v r).reports v rs).venue v) := State.setVenue_setVenue s v _ _

theorem State.handOn_of_announce {s : State} {f : VctIn} (h : f.audio = false) (v : Fin 24) (p : Fin 4) :
    s.handOn v p f = s.announce v p f := by
  rw [State.handOn, h]
  rfl

/-- Settles O29. -/
theorem announceAndWrongPath : Obligations.AnnounceAndWrongPath := by
  refine fun s p rx f v => ⟨fun h fresh read keys ho hk offA offB => ?_, fun q es built h announce payload nil snoc => ?_⟩
  · have off : (s.venue v).pathOn p = none := by
      rw [Venue.pathOn, if_neg offA, if_neg]
      simp [offB]
    have taken : exec (.frameReceived p rx) s = .next
        ((s.setPort p { s.port p with taken := min 65535 ((s.port p).taken + 1) }).wrongPath v p f) := by
      rw [exec_frameReceived_of_vct h fresh read]
      simp only [State.takeVct, State.venueOfKey_eq_some keys ho hk, State.modPort_eq, State.setPort_venue, off]
      rfl
    refine ⟨_, (s.venue v).health.take ⟨.wrongPath, if f.audio then s.tagged v f.tag else none,
      if f.audio then some f.frame else none, some p⟩ s.blockCount, taken, rfl, fun k => ?_⟩
    rw [Health.take_counter]
    rfl
  · have list : buildAnnounced (announceEntries f.payload) = built es := by
      rw [payload, announceEntries_bytes]
      refine buildAnnounced_eq nil (fun l e => ?_) es
      rw [snoc, judgeEntry_byte]
      split
      · rfl
      · split <;> rfl
    have taken := h.exec_eq
    rw [State.handOn_of_announce announce, State.announce, list] at taken
    have heard := s.heard_venue p f v q
    have health := heardVenue_health (s.venue v) q (heardPath s ((s.venue v).path q) f)
    generalize hu : (s.heard p f v q).modVenue v
      (fun ve => { ve with announced := (built es).1, announceAge := some 0 }) = u at taken
    have venue : u.venue v = { heardVenue (s.venue v) q (heardPath s ((s.venue v).path q) f) with
        announced := (built es).1, announceAge := some 0 } := by
      rw [← hu, State.modVenue_eq, State.setVenue_venue, heard]
    have health' : (u.venue v).health = (s.venue v).health := by rw [venue, ← health]
    have whole : ∀ y, u.setVenue v y = (s.setPort p { s.port p with
        taken := min 65535 ((s.port p).taken + 1) }).setVenue v y := fun y => by
      rw [← hu, State.modVenue_eq, State.setVenue_setVenue, State.heard, State.setVenue_setVenue]
    rw [State.reports_setVenue, whole] at taken
    refine ⟨_, taken, ?_, fun zero => ?_, fun le => ?_, fun k hk => ?_, fun some' enabled empty => ?_⟩
    · rw [State.reports_venue, venue]
    · rw [zero]
      exact health'
    · rw [State.reports_counter, List.length_replicate, health']
      · exact fun r hr => (List.eq_of_mem_replicate hr) ▸ rfl
      · rw [health']
        exact le
    · rw [State.reports_counter_of_ne, health']
      exact fun r hr => (List.eq_of_mem_replicate hr) ▸ hk.symm
    · obtain ⟨n, hn⟩ := Nat.exists_eq_add_of_le' (show 1 ≤ (built es).2 from some')
      have count : u.blockCount = s.reference.blockCount := by rw [← hu]; rfl
      rw [hn, List.replicate_succ, State.reports_capture_first, count]
      · rw [health']
        exact empty
      · rw [health']
        exact enabled

/-! ### AUDIO frames, as a venue finds their circuit (R62) -/

/-- An AUDIO frame as the link ports hand it on. -/
def arrivalOf (p : Fin 4) (f : VctIn) : Arrival :=
  ⟨p, f.tag, f.channels, f.frame, f.repair, f.restart, samplesOf f.channels f.payload⟩

section Arrive

variable {s : State} {v : Fin 24} {p : Fin 4} {f : VctIn} {a : Arrival} {c : Fin 128} {ph : Phase}

theorem State.handOn_of_seated (audio : f.audio = true) (h : (s.venue v).seated = true) :
    s.handOn v p f = s.arrive v (arrivalOf p f) := by
  rw [State.handOn, audio, if_pos rfl, h]
  rfl

theorem State.handOn_of_waiting (audio : f.audio = true) (h : (s.venue v).seated = false) :
    s.handOn v p f = s.arriveWaiting v (arrivalOf p f) := by
  rw [State.handOn, audio, if_pos rfl, h]
  rfl

theorem State.arrive_of_unknown (h : s.tagged v a.tag = none) : s.arrive v a = s.report v (a.report .unknownCircuit none) := by
  simp only [State.arrive, h]

theorem State.arrive_of_lost (h : s.tagged v a.tag = some c) (hp : (s.venue v).timebase.phase = some ph)
    (lost : (s.circuit c).state = .lost) : s.arrive v a = s.maskFrame v c a := by
  simp only [State.arrive, h, hp, lost, if_true]

theorem State.arrive_of_channels (h : s.tagged v a.tag = some c) (hp : (s.venue v).timebase.phase = some ph)
    (alive : (s.circuit c).state ≠ .lost) (other : a.channels ≠ (s.circuit c).channels) :
    s.arrive v a = s.report v (a.report .malformed (some c)) := by
  simp only [State.arrive, h, hp, alive, other, if_false, if_true, ne_eq, not_false_eq_true]

/-- R63: a frame that suits its circuit is LATE, AHEAD or placeable by its distance from Nr. -/
theorem State.arrive_of_fit (h : s.tagged v a.tag = some c) (hp : (s.venue v).timebase.phase = some ph)
    (alive : (s.circuit c).state ≠ .lost) (same : a.channels = (s.circuit c).channels) : s.arrive v a =
      if dist a.frame ph.nr < 0 then s.misplaced v c a true
      else if ((s.circuit c).window : Int) ≤ dist a.frame ph.nr then s.misplaced v c a false
      else s.place v c a := by
  simp only [State.arrive, h, hp, alive, same, if_false, ne_eq, not_true_eq_false, classify]
  split
  · next e =>
    split at e
    · next late => rw [if_pos late]
    · split at e <;> cases e
  · next e =>
    split at e
    · cases e
    · next front =>
      split at e
      · next ahead => rw [if_neg front, if_pos ahead]
      · cases e
  · next e =>
    split at e
    · cases e
    · next front =>
      split at e
      · cases e
      · next near => rw [if_neg front, if_neg near]

theorem State.arriveWaiting_of_unknown (h : s.tagged v a.tag = none) :
    s.arriveWaiting v a = s.report v (a.report .unknownCircuit none) := by
  simp only [State.arriveWaiting, h]

theorem State.arriveWaiting_of_lost (h : s.tagged v a.tag = some c) (lost : (s.circuit c).state = .lost) :
    s.arriveWaiting v a = s.maskFrame v c a := by
  simp only [State.arriveWaiting, h, lost, if_true]

theorem State.arriveWaiting_of_channels (h : s.tagged v a.tag = some c) (alive : (s.circuit c).state ≠ .lost)
    (other : a.channels ≠ (s.circuit c).channels) : s.arriveWaiting v a = s.report v (a.report .malformed (some c)) := by
  simp only [State.arriveWaiting, h, alive, other, if_false, if_true, ne_eq, not_false_eq_true]

/-- R3: a frame that names a CLOSING circuit leaves its WAITING venue. -/
theorem State.arriveWaiting_of_closing (h : s.tagged v a.tag = some c) (same : a.channels = (s.circuit c).channels)
    (idle : (s.circuit c).state = .free ∨ (s.circuit c).state = .closing) : s.arriveWaiting v a = s := by
  rcases idle with hs | hs <;>
    simp only [State.arriveWaiting, h, hs, same, ne_eq, not_true_eq_false, if_false, reduceCtorEq]

/-- R3: a frame that names an ARMED, RUNNING or CONCEALING circuit seats its WAITING venue. -/
theorem State.arriveWaiting_of_suitable (h : s.tagged v a.tag = some c) (same : a.channels = (s.circuit c).channels)
    (suits : (s.circuit c).state = .armed ∨ (s.circuit c).state = .running ∨ (s.circuit c).state = .concealing) :
    s.arriveWaiting v a = s.firstSeat v c a := by
  rcases suits with hs | hs | hs <;>
    simp only [State.arriveWaiting, h, hs, same, ne_eq, not_true_eq_false, if_false, reduceCtorEq]

end Arrive

theorem Venue.seated_eq_false {ve : Venue} (h : ve.state = .waiting) : ve.seated = false := by
  simp [Venue.seated, h]

/-- R51, R62: a handed AUDIO frame that its venue discards, WAITING or seated alike: its circuit unknown, LOST, or of
another channel count. -/
theorem Handed.exec_of_discarded {s : State} {p : Fin 4} {rx : RxFrame} {f : VctIn} {v : Fin 24} {q : PathId}
    (h : Handed s p rx f v q) (audio : f.audio = true)
    (phase : (s.venue v).state ≠ .waiting → (s.venue v).timebase.phase ≠ none) :
    (s.tagged v f.tag = none → exec (.frameReceived p rx) s =
      .next ((s.heard p f v q).report v ⟨.unknownCircuit, none, some f.frame, some p⟩)) ∧
    ∀ c, s.tagged v f.tag = some c →
      ((s.circuit c).state = .lost → exec (.frameReceived p rx) s =
        .next ((s.heard p f v q).maskFrame v c (arrivalOf p f))) ∧
      ((s.circuit c).state ≠ .lost → f.channels ≠ (s.circuit c).channels → exec (.frameReceived p rx) s =
        .next ((s.heard p f v q).report v ⟨.malformed, some c, some f.frame, some p⟩)) := by
  have tagged := s.heard_tagged p f v q f.tag
  have venue := s.heard_venue p f v q
  have state := heardVenue_state (s.venue v) q (heardPath s ((s.venue v).path q) f)
  have phase' := heardVenue_phase (s.venue v) q (heardPath s ((s.venue v).path q) f)
  rw [← venue] at state phase'
  rw [h.exec_eq]
  by_cases waiting : (s.venue v).state = .waiting
  · have idle : ((s.heard p f v q).venue v).seated = false := by
      refine Venue.seated_eq_false ?_
      rw [state, waiting]
      rfl
    rw [State.handOn_of_waiting audio idle]
    refine ⟨fun none' => ?_, fun c found => ⟨fun lost => ?_, fun alive other => ?_⟩⟩
    · rw [State.arriveWaiting_of_unknown (tagged.trans none')]
      rfl
    · rw [State.arriveWaiting_of_lost (s := s.heard p f v q) (tagged.trans found) lost]
    · rw [State.arriveWaiting_of_channels (s := s.heard p f v q) (tagged.trans found) alive other]
      rfl
  · have seated : ((s.heard p f v q).venue v).seated = true := by
      rw [Venue.seated_iff, state]
      split
      · exact .inl rfl
      · next active =>
        cases hs : (s.venue v).state with
        | free => exact absurd hs h.isOpen
        | waiting => exact absurd hs waiting
        | active => exact .inl rfl
        | holdover => exact absurd hs active
    obtain ⟨ph, hp⟩ := Option.ne_none_iff_exists'.1 (phase waiting)
    rw [State.handOn_of_seated audio seated]
    refine ⟨fun none' => ?_, fun c found => ⟨fun lost => ?_, fun alive other => ?_⟩⟩
    · rw [State.arrive_of_unknown (tagged.trans none')]
      rfl
    · rw [State.arrive_of_lost (s := s.heard p f v q) (tagged.trans found) (phase'.trans hp) lost]
    · rw [State.arrive_of_channels (s := s.heard p f v q) (tagged.trans found) (phase'.trans hp) alive other]
      rfl

/-! ### What a report does to a health record (R148 to R154) -/

section Take

variable {h : Health} {r : Report} (b : BlockCount)

theorem Health.take_capture_of_empty (on : h.captureEnable.getLsbD r.kind.index.val = true) (empty : h.capture = none) :
    (h.take r b).capture = some ⟨r.kind, r.circuit, r.frame, r.port, b⟩ ∧ (h.take r b).overflow = h.overflow := by
  simp only [Health.take, Health.latchPathDown_capture, Health.offerMonitor_capture, Health.latchPathDown_overflow,
    Health.offerMonitor_overflow, Health.offerCapture, Health.count, on, empty, if_true]
  exact ⟨trivial, trivial⟩

theorem Health.take_capture_of_held {old : Capture} (on : h.captureEnable.getLsbD r.kind.index.val = true)
    (held : h.capture = some old) : (h.take r b).capture = some old ∧ (h.take r b).overflow = true := by
  simp only [Health.take, Health.latchPathDown_capture, Health.offerMonitor_capture, Health.latchPathDown_overflow,
    Health.offerMonitor_overflow, Health.offerCapture, Health.count, on, held, if_true]
  exact ⟨trivial, trivial⟩

theorem Health.take_capture_of_off (off : h.captureEnable.getLsbD r.kind.index.val = false) :
    (h.take r b).capture = h.capture ∧ (h.take r b).overflow = h.overflow := by
  simp only [Health.take, Health.latchPathDown_capture, Health.offerMonitor_capture, Health.latchPathDown_overflow,
    Health.offerMonitor_overflow, Health.offerCapture, Health.count, off]
  exact ⟨rfl, rfl⟩

/-- R150: a held capture stays, whatever the enables hold. -/
theorem Health.take_capture_stays {old : Capture} (held : h.capture = some old) : (h.take r b).capture = some old := by
  cases on : h.captureEnable.getLsbD r.kind.index.val with
  | true => exact (Health.take_capture_of_held b on held).1
  | false => exact (Health.take_capture_of_off b on).1.trans held

theorem Health.take_monitor_of_on (on : h.rateEnable.getLsbD r.kind.index.val = true) :
    (h.take r b).windowCount = min 65535 (h.windowCount + 1) ∧
    ((h.take r b).degraded = true ↔ h.degraded = true ∨ h.threshold ≤ (h.take r b).windowCount) := by
  have enable : ((h.count r.kind).offerCapture r b).rateEnable.getLsbD r.kind.index.val = true := by
    rw [Health.offerCapture_rateEnable]
    exact on
  have count : (h.take r b).windowCount = satInc h.windowCount := by
    rw [Health.take, Health.latchPathDown_windowCount, Health.offerMonitor, if_pos enable]
    show satInc ((h.count r.kind).offerCapture r b).windowCount = _
    rw [Health.offerCapture_windowCount]
    rfl
  have latched : (h.take r b).degraded = (h.degraded || decide (h.threshold ≤ satInc h.windowCount)) := by
    rw [Health.take, Health.latchPathDown_degraded, Health.offerMonitor, if_pos enable]
    show (((h.count r.kind).offerCapture r b).degraded ||
      decide (((h.count r.kind).offerCapture r b).threshold ≤ satInc ((h.count r.kind).offerCapture r b).windowCount)) = _
    rw [Health.offerCapture_degraded, Health.offerCapture_threshold, Health.offerCapture_windowCount]
    rfl
  rw [latched, count, Bool.or_eq_true, decide_eq_true_eq]
  exact ⟨rfl, Iff.rfl⟩

theorem Health.take_monitor_of_off (off : h.rateEnable.getLsbD r.kind.index.val = false) :
    (h.take r b).windowCount = h.windowCount ∧ (h.take r b).degraded = h.degraded := by
  have enable : ((h.count r.kind).offerCapture r b).rateEnable.getLsbD r.kind.index.val = false := by
    rw [Health.offerCapture_rateEnable]
    exact off
  rw [Health.take, Health.latchPathDown_windowCount, Health.latchPathDown_degraded, Health.offerMonitor,
    if_neg (Bool.eq_false_iff.1 enable), Health.offerCapture_windowCount, Health.offerCapture_degraded]
  exact ⟨rfl, rfl⟩

/-- A report that is not PATH_DOWN changes the counters, the capture and the monitor only. -/
theorem Health.take_rest (h : Health) (r : Report) (b : BlockCount) (ne : r.kind ≠ .pathDown) : h.take r b = { h with
    counters := (h.take r b).counters, capture := (h.take r b).capture, overflow := (h.take r b).overflow
    windowCount := (h.take r b).windowCount, degraded := (h.take r b).degraded } := by
  have down : (h.take r b).pathDown = h.pathDown := by
    rw [Health.take_pathDown, decide_eq_false ne, Bool.or_false]
  conv => lhs; rw [show h.take r b = ⟨(h.take r b).counters, (h.take r b).repaired, (h.take r b).filledByPath,
    (h.take r b).captureEnable, (h.take r b).rateEnable, (h.take r b).capture, (h.take r b).overflow,
    (h.take r b).windowCount, (h.take r b).threshold, (h.take r b).degraded, (h.take r b).pathDown⟩ from rfl]
  rw [down, Health.take_repaired, Health.take_filledByPath, Health.take_captureEnable, Health.take_rateEnable,
    Health.take_threshold]

end Take

/-- Settles O34: the state by the three reasons, then what the one report does to the health record. -/
theorem discardedAudioIsReported : Obligations.DiscardedAudioIsReported := by
  intro s p rx f v q k oc h audio phase reason
  have discarded := h.exec_of_discarded audio phase
  have venue := s.heard_venue p f v q
  have health := heardVenue_health (s.venue v) q (heardPath s ((s.venue v).path q) f)
  have outcome : ∃ t : State, exec (.frameReceived p rx) s = .next t ∧
      t = { (s.heard p f v q).report v ⟨k, oc, some f.frame, some p⟩ with circuits := t.circuits } ∧
      ∀ c, t.circuit c = if k = .masked ∧ oc = some c
        then { s.circuit c with masked := min 65535 ((s.circuit c).masked + 1) } else s.circuit c := by
    rcases reason with ⟨rfl, rfl, untagged⟩ | ⟨c, rfl, found, ⟨rfl, lost⟩ | ⟨rfl, alive, other⟩⟩
    · exact ⟨_, discarded.1 (State.tagged_eq_none untagged), rfl, fun c => by rw [if_neg (by simp)]; rfl⟩
    · refine ⟨_, (discarded.2 c found).1 lost, rfl, fun d => ?_⟩
      show ((s.heard p f v q).setCircuit c _).circuit d = _
      rw [State.setCircuit_circuit_eq_ite]
      by_cases hd : d = c
      · rw [if_pos hd, if_pos ⟨rfl, congrArg some hd.symm⟩, hd]
        rfl
      · rw [if_neg hd, if_neg fun g => hd (Option.some.inj g.2).symm]
        rfl
    · exact ⟨_, (discarded.2 c found).2 alive other, rfl, fun c => by rw [if_neg (by simp)]; rfl⟩
  have ne : k ≠ .pathDown := by
    rcases reason with ⟨rfl, _⟩ | ⟨c, _, _, ⟨rfl, _⟩ | ⟨rfl, _⟩⟩ <;> decide
  obtain ⟨t, taken, frame, circuits⟩ := outcome
  refine ⟨t, (s.venue v).health.take ⟨k, oc, some f.frame, some p⟩ s.blockCount, taken, ?_, circuits, fun j => ?_,
    fun on => ⟨fun empty => ?_, fun old held => ?_⟩, fun off => ?_, fun on => ?_, fun off => ?_, Health.take_rest _ _ _ ne⟩
  · conv => lhs; rw [frame, State.report_eq, venue, health, State.heard, State.setVenue_setVenue]
    rfl
  · rw [Health.take_counter]
    rfl
  · exact Health.take_capture_of_empty (r := ⟨k, oc, some f.frame, some p⟩) _ on empty
  · exact Health.take_capture_of_held (r := ⟨k, oc, some f.frame, some p⟩) _ on held
  · exact Health.take_capture_of_off (r := ⟨k, oc, some f.frame, some p⟩) _ off
  · exact Health.take_monitor_of_on (r := ⟨k, oc, some f.frame, some p⟩) _ on
  · exact Health.take_monitor_of_off (r := ⟨k, oc, some f.frame, some p⟩) _ off

end Sys2Proof.Machine
end

section
/-! PROOFS. A frame stored in its window, with its gaps and the entry it settles, and a frame discarded by its distance
(sections 4.2 and 6.2, R63 to R69, R100, R101). -/

namespace Sys2Proof.Machine

/-! ### A REPAIR frame that settles nothing (R69) -/

/-- The health record after a REPAIR frame settled no entry; another frame leaves it. -/
def Health.repairUnmatched (h : Health) (a : Arrival) (c : Fin 128) (b : BlockCount) : Health :=
  if a.repair then h.take (a.report .repairUnmatched (some c)) b else h

theorem State.unmatched_eq (s : State) (v : Fin 24) (c : Fin 128) (a : Arrival) : s.unmatched v c a =
    s.setVenue v { s.venue v with health := (s.venue v).health.repairUnmatched a c s.blockCount } := by
  unfold State.unmatched Health.repairUnmatched
  split
  · rfl
  · exact (State.setVenue_self s v).symm

theorem Health.repairUnmatched_counter (h : Health) (a : Arrival) (c : Fin 128) (b : BlockCount) (k : ErrorKind) :
    (h.repairUnmatched a c b).counter k =
      if k = .repairUnmatched ∧ a.repair = true then min 65535 (h.counter k + 1) else h.counter k := by
  unfold Health.repairUnmatched
  cases a.repair with
  | true =>
    rw [if_pos rfl, Health.take_counter]
    exact if_congr (by simp [Arrival.report]) rfl rfl
  | false => rw [if_neg Bool.false_ne_true, if_neg fun g => Bool.false_ne_true g.2]

theorem Health.repairUnmatched_of_original (h : Health) {a : Arrival} (hr : a.repair = false) (c : Fin 128)
    (b : BlockCount) : h.repairUnmatched a c b = h := by
  rw [Health.repairUnmatched, hr]
  rfl

theorem Health.repairUnmatched_capture {h : Health} {old : Capture} (held : h.capture = some old) (a : Arrival)
    (c : Fin 128) (b : BlockCount) : (h.repairUnmatched a c b).capture = some old := by
  unfold Health.repairUnmatched
  split
  · exact Health.take_capture_stays b held
  · exact held

theorem Health.repairUnmatched_pathDown (h : Health) (a : Arrival) (c : Fin 128) (b : BlockCount) :
    (h.repairUnmatched a c b).pathDown = h.pathDown := by
  unfold Health.repairUnmatched
  split
  · rw [Health.take_pathDown]
    simp [Arrival.report]
  · rfl

/-! ### A frame that names a circuit of a seated venue (R62, R63) -/

/-- R62, R63: a handed frame that suits its circuit is LATE, AHEAD or placeable by its distance from Nr. -/
theorem Handed.exec_of_fit {s : State} {p : Fin 4} {rx : RxFrame} {f : VctIn} {v : Fin 24} {q : PathId} {c : Fin 128}
    {ph : Phase} (h : Handed s p rx f v q) (n : Names s f v c)
    (seated : (s.venue v).state = .active ∨ (s.venue v).state = .holdover)
    (phase : (s.venue v).timebase.phase = some ph) : exec (.frameReceived p rx) s = .next
      (if dist f.frame ph.nr < 0 then (s.heard p f v q).misplaced v c (arrivalOf p f) true
       else if ((s.circuit c).window : Int) ≤ dist f.frame ph.nr then (s.heard p f v q).misplaced v c (arrivalOf p f) false
       else (s.heard p f v q).place v c (arrivalOf p f)) := by
  obtain ⟨audio, tag, alive, channels⟩ := n
  have venue := s.heard_venue p f v q
  have state := heardVenue_state (s.venue v) q (heardPath s ((s.venue v).path q) f)
  have phase' := heardVenue_phase (s.venue v) q (heardPath s ((s.venue v).path q) f)
  rw [← venue] at state phase'
  have sits : ((s.heard p f v q).venue v).seated = true := by
    rw [Venue.seated_iff, state]
    rcases seated with hs | hs <;> rw [hs] <;> exact .inl rfl
  rw [h.exec_eq, State.handOn_of_seated audio sits,
    State.arrive_of_fit (s := s.heard p f v q) (a := arrivalOf p f) ((s.heard_tagged p f v q f.tag).trans tag)
      (phase'.trans phase) alive channels]
  rfl

/-! ### LATE, AHEAD and DUPLICATE frames (R64, R65, R67) -/

/-- R64, R67: what a LATE frame is counted as. -/
theorem State.lateCounted_eq (s : State) (v : Fin 24) (c : Fin 128) (a : Arrival) : s.lateCounted v c a =
    (s.setCircuit c { s.circuit c with late := min 65535 ((s.circuit c).late + 1) }).setVenue v { s.venue v with
      aheadStreak := 0, lateStreak := (s.venue v).lateStreak + 1
      health := (s.venue v).health.take (a.report .late (some c)) s.blockCount } := by
  simp only [State.lateCounted, State.modCircuit_eq, State.report_eq, State.modVenue_eq, State.setVenue_venue,
    State.setVenue_setVenue, State.setCircuit_venue, Venue.countLate, satInc]
  rfl

/-- R64, R67: what an AHEAD frame is counted as. -/
theorem State.aheadCounted_eq (s : State) (v : Fin 24) (c : Fin 128) (a : Arrival) : s.aheadCounted v c a =
    s.setVenue v { s.venue v with
      aheadStreak := (s.venue v).aheadStreak + 1, lateStreak := 0
      health := (s.venue v).health.take (a.report .ahead (some c)) s.blockCount } := by
  simp only [State.aheadCounted, State.report_eq, State.modVenue_eq, State.setVenue_venue, State.setVenue_setVenue,
    Venue.countAhead]

section Misplaced

variable {s : State} {v : Fin 24} {c : Fin 128} {a : Arrival}

/-- R64, R67: a LATE frame below its streak's threshold. -/
theorem State.misplaced_of_late (restart : a.restart = false) (below : (s.venue v).lateStreak < 63) :
    s.misplaced v c a true = (s.setCircuit c { s.circuit c with late := min 65535 ((s.circuit c).late + 1) }).setVenue v
      { s.venue v with
        aheadStreak := 0, lateStreak := (s.venue v).lateStreak + 1
        health := ((s.venue v).health.take (a.report .late (some c)) s.blockCount).repairUnmatched a c s.blockCount } := by
  have counted := s.lateCounted_eq v c a
  have streak : ((s.lateCounted v c a).venue v).lateStreak = (s.venue v).lateStreak + 1 := by
    rw [counted, State.setVenue_venue]
  have short : ¬ Config.lateThreshold ≤ (s.venue v).lateStreak + 1 := not_le.2 (Nat.succ_lt_succ below)
  rw [State.misplaced_late, restart, if_neg Bool.false_ne_true, streak, if_neg short, State.unmatched_eq, counted, State.setVenue_venue,
    State.setVenue_setVenue]
  rfl

/-- R64, R67: an AHEAD frame below its streak's threshold. -/
theorem State.misplaced_of_ahead (restart : a.restart = false) (below : (s.venue v).aheadStreak < 7) :
    s.misplaced v c a false = s.setVenue v { s.venue v with
      aheadStreak := (s.venue v).aheadStreak + 1, lateStreak := 0
      health := ((s.venue v).health.take (a.report .ahead (some c)) s.blockCount).repairUnmatched a c s.blockCount } := by
  have counted := s.aheadCounted_eq v c a
  have streak : ((s.aheadCounted v c a).venue v).aheadStreak = (s.venue v).aheadStreak + 1 := by
    rw [counted, State.setVenue_venue]
  have short : ¬ Config.aheadThreshold ≤ (s.venue v).aheadStreak + 1 := not_le.2 (Nat.succ_lt_succ below)
  rw [State.misplaced_ahead, restart, if_neg Bool.false_ne_true, streak, if_neg short, State.unmatched_eq, counted, State.setVenue_venue,
    State.setVenue_setVenue]
  rfl

/-- R65: a placeable frame that is present already. -/
theorem State.place_of_present (present : (s.circuit c).present a.frame = true) : s.place v c a =
    (s.setCircuit c { s.circuit c with duplicate := min 65535 ((s.circuit c).duplicate + 1) }).setVenue v
      { s.venue v with health :=
          ((s.venue v).health.take (a.report .duplicate (some c)) s.blockCount).repairUnmatched a c s.blockCount } := by
  rw [State.place, if_pos present, State.unmatched_eq, State.report_eq, State.setVenue_venue, State.setVenue_setVenue]
  rfl

theorem State.place_of_absent (absent : (s.circuit c).present a.frame = false) : s.place v c a = s.storeFrame v c a := by
  rw [State.place, if_neg (by rw [absent]; exact Bool.false_ne_true)]

end Misplaced

/-- Settles O33: the state by the three classes, then the report and the REPAIR_UNMATCHED report that may follow it. -/
theorem unplaceableFrameIsCounted : Obligations.UnplaceableFrameIsCounted := by
  intro s p rx f v q c ph k d h n active phase hd class'
  have venue := s.heard_venue p f v q
  have ne : (s.venue v).state ≠ .holdover := by rw [active]; decide
  rw [heardVenue_of_ne ne] at venue
  have whole : ∀ (x : Circuit) (y : Venue), ((s.heard p f v q).setCircuit c x).setVenue v y =
      ((s.setPort p { s.port p with taken := min 65535 ((s.port p).taken + 1) }).setCircuit c x).setVenue v y :=
    fun x y => by
      rw [State.heard, State.setVenue_setCircuit, State.setVenue_setVenue]
  have taken := h.exec_of_fit n (.inl active) phase
  have health : ((s.venue v).setPath q (heardPath s ((s.venue v).path q) f)).health = (s.venue v).health := by
    cases q <;> rfl
  have late : ((s.venue v).setPath q (heardPath s ((s.venue v).path q) f)).lateStreak = (s.venue v).lateStreak := by
    cases q <;> rfl
  have ahead : ((s.venue v).setPath q (heardPath s ((s.venue v).path q) f)).aheadStreak = (s.venue v).aheadStreak := by
    cases q <;> rfl
  have other : k ≠ .repairUnmatched ∧ k ≠ .pathDown := by
    rcases class' with ⟨rfl, _⟩ | ⟨rfl, _⟩ | ⟨rfl, _⟩ <;> decide
  refine ⟨_, ((s.venue v).health.take ((arrivalOf p f).report k (some c)) s.blockCount).repairUnmatched (arrivalOf p f) c
    s.blockCount, taken, ?_, fun j => ?_, fun empty on => ?_, fun original off => ?_, ?_⟩
  · rw [← hd]
    rcases class' with ⟨rfl, neg, restart, below⟩ | ⟨rfl, far, restart, below⟩ | ⟨rfl, front, near, present⟩
    · rw [if_pos neg, State.misplaced_of_late (s := s.heard p f v q) restart (by rw [venue, late]; exact below), whole,
        venue, health, late]
      rfl
    · rw [if_neg (by omega), if_pos far, State.misplaced_of_ahead (s := s.heard p f v q) restart
        (by rw [venue, ahead]; exact below), venue, health, ahead]
      have self := State.setCircuit_self (s.heard p f v q) c
      conv => lhs; rw [← self]
      rw [whole]
      rfl
    · rw [if_neg (by omega), if_neg (by omega), State.place_of_present (s := s.heard p f v q) (a := arrivalOf p f) present, whole, venue,
        health]
      cases q <;> rfl
  · rw [Health.repairUnmatched_counter, Health.take_counter]
    show (if j = .repairUnmatched ∧ f.repair = true then min 65535 ((if j = k then _ else _) + 1)
      else if j = k then _ else _) = _
    by_cases hj : j = k
    · rw [if_neg fun g => other.1 (hj ▸ g.1), if_pos hj, if_pos (.inl hj)]
      rfl
    · rw [if_neg hj]
      exact if_congr (by simp [hj]) rfl rfl
  · exact Health.repairUnmatched_capture
      (Health.take_capture_of_empty (r := (arrivalOf p f).report k (some c)) s.blockCount on empty).1 _ c _
  · rw [Health.repairUnmatched_of_original _ original]
    exact Health.take_capture_of_off (r := (arrivalOf p f).report k (some c)) s.blockCount off
  · rw [Health.repairUnmatched_pathDown, Health.take_pathDown]
    simp [Arrival.report, other.2]

/-! ### A frame stored (R65 to R67) -/

/-- Reading the cell just filled, whatever order the cells stand in. -/
theorem cellAt_putCell_self (x : Cell) (l : List Cell) : cellAt (putCell x l) x.index = some x := by
  induction l with
  | nil => simp [putCell, cellAt]
  | cons z zs ih =>
    unfold putCell
    split
    · simp [cellAt]
    · split
      · simp [cellAt]
      · next hne =>
        have skip : (z.index == x.index) = false := beq_false_of_ne fun e => hne e.symm
        simp only [cellAt, List.find?_cons, skip]
        exact ih

theorem Circuit.held_store_self (x : Circuit) (n : FrameNo) (ch : List FrameSamples) :
    (x.store n ch).held n = some ⟨x.cellIndex n, n, ch⟩ := by
  have cell := cellAt_putCell_self ⟨x.cellIndex n, n, ch⟩ x.cells
  simp only [Circuit.held, Circuit.cellIndex_store]
  simp only [Circuit.store, cell]
  simp

theorem Circuit.held_store_of_ne (x : Circuit) {n m : FrameNo} (ch : List FrameSamples)
    (h : x.cellIndex m ≠ x.cellIndex n) : (x.store n ch).held m = x.held m := by
  have cell := cellAt_putCell_of_ne ⟨x.cellIndex n, n, ch⟩ x.cells (x.cellIndex m) h
  simp only [Circuit.held, Circuit.cellIndex_store]
  simp only [Circuit.store, cell]

theorem newer_eq (o : Option FrameNo) (n : FrameNo) : newer o n = some (match o with
    | none => n
    | some o => if 0 < dist n o then n else o) := by
  cases o with
  | none => rfl
  | some o =>
    unfold newer
    dsimp only
    split <;> rfl

section Store

variable {s : State} {v : Fin 24} {c : Fin 128} {a : Arrival} {ph : Phase}

/-- R68: no gap to hand on. -/
theorem State.detectGaps_of_none {old : Option FrameNo} (h : old = none ∨ (s.venue v).settings.attempts = 0 ∨
    ∃ o, old = some o ∧ dist a.frame o < 2) : s.detectGaps v c a old = s := by
  unfold State.detectGaps
  split
  · next o ph _ =>
    rw [if_neg]
    rw [Bool.and_eq_true, decide_eq_true_eq, decide_eq_true_eq]
    rintro ⟨gap, asks⟩
    rcases h with h | h | ⟨o', h, le⟩
    · cases h
    · omega
    · cases h
      omega
  · rfl

theorem Venue.awaits_eq_false {ve : Venue} {n : FrameNo} (h : ∀ e ∈ ve.recovery, e.circuit = c → e.frame ≠ n) :
    ve.awaits c n = false := by
  rw [Venue.awaits, List.any_eq_false]
  intro e he both
  rw [Bool.and_eq_true, beq_iff_eq, beq_iff_eq] at both
  exact h e he both.1 both.2

theorem State.settleStore_of_none (h : ∀ e ∈ (s.venue v).recovery, e.circuit = c → e.frame ≠ a.frame) :
    s.settleStore v c a = s.unmatched v c a := by
  rw [State.settleStore, Venue.awaits_eq_false h]
  rfl

/-- R65 to R67, R69: a store with no gap to hand on and no entry to settle. -/
theorem State.storeFrame_of_plain
    (gaps : (s.circuit c).newest = none ∨ (s.venue v).settings.attempts = 0 ∨
      ∃ o, (s.circuit c).newest = some o ∧ dist a.frame o < 2)
    (entries : ∀ e ∈ (s.venue v).recovery, e.circuit = c → e.frame ≠ a.frame) : s.storeFrame v c a =
      (s.setCircuit c { (s.circuit c).store a.frame a.chans with newest := newer (s.circuit c).newest a.frame }).setVenue v
        { s.venue v with
          aheadStreak := 0, lateStreak := 0, newest := newer (s.venue v).newest a.frame
          health := (s.venue v).health.repairUnmatched a c s.blockCount } := by
  have self := s.putFrame_venue_self v c a
  rw [State.storeFrame_eq, State.detectGaps_of_none (s := s.putFrame v c a) (by rw [self]; exact gaps),
    State.settleStore_of_none (s := s.putFrame v c a) (by rw [self]; exact entries), State.unmatched_eq, self]
  show ((State.setCircuit s c _).setVenue v _).setVenue v _ = _
  rw [State.setVenue_setVenue]
  rfl

end Store

/-- Settles O30, by whether the frame brings the venue back from HOLDOVER. -/
theorem placeableFrameIsStored : Obligations.PlaceableFrameIsStored := by
  intro s p rx f v q c ph back h n law seated phase front near absent entries gaps
  have venue := s.heard_venue p f v q
  obtain ⟨health, _, settings, recovery, newest, _⟩ :=
    heardVenue_keeps (s.venue v) q (heardPath s ((s.venue v).path q) f)
  have taken := h.exec_of_fit n (seated.imp And.left And.left) phase
  rw [if_neg (not_lt.2 front), if_neg (not_le.2 near), State.place_of_absent (s := s.heard p f v q) (a := arrivalOf p f) absent,
    State.storeFrame_of_plain (s := s.heard p f v q) (by rw [venue, settings]; exact gaps)
      (by rw [venue, recovery]; exact entries), venue, State.heard, State.setVenue_setCircuit,
    State.setVenue_setVenue] at taken
  refine ⟨_, { (s.circuit c).store f.frame (arrivalOf p f).chans with newest := newer (s.circuit c).newest f.frame },
    (s.venue v).health.repairUnmatched (arrivalOf p f) c s.blockCount, taken, ?_, ?_, fun original => ?_, fun k => ?_,
    Circuit.held_store_self .., fun m off => Circuit.held_store_of_ne _ _ off⟩
  · rw [newest, newer_eq (s.venue v).newest]
    rcases seated with ⟨active, rfl⟩ | ⟨holdover, rfl⟩
    · rw [heardVenue_of_ne (by rw [active]; decide)]
      cases q <;> rw [← active] <;> rfl
    · rw [heardVenue_of_holdover holdover]
      cases q <;> rfl
  · rw [newer_eq]
    rfl
  · rw [Health.repairUnmatched_of_original _ original]
  · exact Health.repairUnmatched_counter ..

/-- Settles O32. -/
theorem storedFrameSettlesEntry : Obligations.StoredFrameSettlesEntry := by
  intro s p rx f v q c ph e h n active phase front near absent mem hc hf gap
  have venue := s.heard_venue p f v q
  obtain ⟨health, _, settings, recovery, newest, _⟩ :=
    heardVenue_keeps (s.venue v) q (heardPath s ((s.venue v).path q) f)
  have taken := h.exec_of_fit n (.inl active) phase
  generalize hu : s.heard p f v q = u at taken venue
  have circuit : ∀ d, u.circuit d = s.circuit d := fun d => by rw [← hu]; rfl
  have put := u.putFrame_venue_self v c (arrivalOf p f)
  have awaits : ((u.putFrame v c (arrivalOf p f)).venue v).awaits c f.frame = true := by
    rw [Venue.awaits, List.any_eq_true]
    refine ⟨e, ?_, by simp [hc, hf]⟩
    rw [put, venue]
    exact recovery ▸ mem
  rw [if_neg (not_lt.2 front), if_neg (not_le.2 near), State.place_of_absent (by rw [circuit]; exact absent)] at taken
  have stored : u.storeFrame v c (arrivalOf p f) = (u.putFrame v c (arrivalOf p f)).setVenue v
      (((u.putFrame v c (arrivalOf p f)).venue v).settle c f.frame f.repair) := by
    obtain ⟨o, ho, le⟩ := gap
    have small : dist (arrivalOf p f).frame o < 2 := Int.lt_add_one_of_le le
    have newest' : (u.circuit c).newest = some o := by rw [circuit, ho]
    rw [State.storeFrame_eq, State.detectGaps_of_none (.inr (.inr ⟨o, newest', small⟩)), State.settleStore]
    exact if_pos awaits
  have settled : ((u.putFrame v c (arrivalOf p f)).venue v).settle c f.frame f.repair =
      { (u.putFrame v c (arrivalOf p f)).venue v with
        recovery := ((u.putFrame v c (arrivalOf p f)).venue v).recovery.filter fun e =>
          !(e.circuit == c && e.frame == f.frame)
        health := if f.repair then { (u.venue v).health with repaired := satInc (u.venue v).health.repaired }
          else { (u.venue v).health with filledByPath := satInc (u.venue v).health.filledByPath } } := by
    rw [Venue.settle, if_pos awaits, put]
  refine ⟨_, taken, ?_, ?_, ?_, ?_, fun d hd => ?_, fun w hw => ?_⟩
  · rw [stored, State.setVenue_venue, settled, put, venue]
    show List.filter _ (heardVenue _ q _).recovery = _
    rw [recovery]
    rfl
  · rw [stored, State.setVenue_venue, settled, venue, health]
    cases f.repair <;> rfl
  · rw [State.storeFrame_circuit, if_pos rfl, circuit]
    exact Circuit.held_store_self ..
  · rw [State.storeFrame_circuit, if_pos rfl, circuit]
    rfl
  · rw [State.storeFrame_circuit, if_neg hd, circuit]
  · rw [State.storeFrame_venue_of_ne _ _ _ _ hw, ← hu, State.heard_venue_of_ne _ _ _ _ _ hw]

end Sys2Proof.Machine
end

section
/-! PROOFS. The gaps that a stored frame hands to recovery (sections 4.2.3 and 6.2, R68, R100). -/

namespace Sys2Proof.Machine

/-! ### The frames skipped (R68) -/

/-- R68: the frames skipped, counted from Nr: those after the old newest frame, or after Nr when that is later. -/
theorem gapCandidates_eq {nr o n : FrameNo} {first : Nat} (ahead : 0 ≤ dist n nr) (gap : 2 ≤ dist n o)
    (hfirst : (first : Int) = max (dist o nr) 0 + 1) : gapCandidates nr o n =
      (List.range ((dist n nr).toNat - first)).map fun i => nr + BitVec.ofNat 32 (first + i) := by
  have near := (dist_spec n nr).2.1
  have value : ∀ k : Nat, (k : Int) < 2147483648 → dist (nr + BitVec.ofNat 32 k) nr = k := fun k hk => by
    rw [dist_add_ofNat (by rw [dist_self]; decide) (by rw [dist_self]; omega), dist_self]
    omega
  have place : ∀ start : FrameNo, dist start nr = first → dist n start = dist n nr - first →
      (List.range (dist n start).toNat).map (fun i => start + BitVec.ofNat 32 i) =
        (List.range ((dist n nr).toNat - first)).map fun i => nr + BitVec.ofNat 32 (first + i) := by
    intro start hstart hlength
    have length : (dist n start).toNat = (dist n nr).toNat - first := by omega
    rw [length]
    refine List.map_congr_left fun i hi => ?_
    rw [List.mem_range] at hi
    refine dist_inj (c := nr) ?_
    rw [value _ (by omega), dist_add_ofNat (by omega) (by omega)]
    omega
  unfold gapCandidates
  split
  · next front =>
    have behind : dist o nr < dist n nr := by
      obtain ⟨_, _, i, hi⟩ := dist_spec n nr
      obtain ⟨_, _, j, hj⟩ := dist_spec n o
      obtain ⟨_, _, k, hk⟩ := dist_spec o nr
      omega
    have next' : dist (o + 1) nr = dist o nr + 1 := dist_succ (by omega)
    have after : dist n (o + 1) = dist n o - 1 := dist_succ_right (by omega)
    refine place (o + 1) (by omega) ?_
    obtain ⟨_, _, i, hi⟩ := dist_spec n nr
    obtain ⟨_, _, j, hj⟩ := dist_spec n (o + 1)
    obtain ⟨_, _, k, hk⟩ := dist_spec (o + 1) nr
    omega
  · next back =>
    have next' : dist (nr + 1) nr = 1 := by rw [dist_succ] <;> simp
    have after : dist n (nr + 1) = dist n nr - 1 := dist_succ_right (by omega)
    exact place (nr + 1) (by omega) (by omega)

/-! ### Gaps entered while the queue has room (R100) -/

section Enter

variable {s : State} {v : Fin 24} {c : Fin 128} {ph : Phase}

theorem State.enterGap_of_room (p : Fin 4) (n : FrameNo) (hp : (s.venue v).timebase.phase = some ph)
    (room : (s.venue v).recovery.length < 32) : s.enterGap v c p n = s.setVenue v { s.venue v with
      recovery := insertEntry ph.nr ⟨c, n, s.blockCount, 0, none⟩ (s.venue v).recovery } := by
  simp only [State.enterGap, hp]
  exact if_pos room

theorem State.enterGap_of_full (p : Fin 4) (n : FrameNo) (hp : (s.venue v).timebase.phase = some ph)
    (full : 32 ≤ (s.venue v).recovery.length) :
    s.enterGap v c p n = s.report v ⟨.queueFull, some c, some n, some p⟩ := by
  simp only [State.enterGap, hp]
  exact if_neg (not_lt.2 full)

/-- What gaps entered one after another make of the queue and the counters: as many as the queue has room for are in
it, each other one is counted QUEUE_FULL. -/
structure State.GapsEntered (s t : State) (v : Fin 24) (c : Fin 128) (ns entered : List FrameNo) : Prop where
  mem : ∀ e, e ∈ (t.venue v).recovery ↔ e ∈ (s.venue v).recovery ∨ ∃ n ∈ entered, e = ⟨c, n, s.blockCount, 0, none⟩
  length : (t.venue v).recovery.length = (s.venue v).recovery.length + entered.length
  counter : ∀ k, (s.venue v).health.counter k ≤ 65535 → (t.venue v).health.counter k =
    min 65535 ((s.venue v).health.counter k + if k = .queueFull then ns.length - entered.length else 0)

theorem State.enterGaps_entered (p : Fin 4) (ns : List FrameNo) (hp : (s.venue v).timebase.phase = some ph) :
    s.GapsEntered (s.enterGaps v c p ns) v c ns (ns.take (32 - (s.venue v).recovery.length)) := by
  induction ns generalizing s with
  | nil =>
    refine ⟨fun e => by simp [State.enterGaps], by simp [State.enterGaps], fun k le => ?_⟩
    simp only [State.enterGaps, List.foldl_nil, List.length_nil, Nat.zero_sub, ite_self]
    omega
  | cons n ns ih =>
    have step : s.enterGaps v c p (n :: ns) = (s.enterGap v c p n).enterGaps v c p ns := rfl
    have phase : ((s.enterGap v c p n).venue v).timebase.phase = some ph := by rw [State.enterGap_venue]; exact hp
    obtain ⟨mem, length, counter⟩ := ih phase
    rw [← step] at mem length counter
    by_cases room : (s.venue v).recovery.length < 32
    · rw [State.enterGap_of_room p n hp room] at mem length counter
      simp only [State.setVenue_venue, State.setVenue_blockCount, insertEntry_length] at mem length counter
      obtain ⟨k, hk⟩ := Nat.exists_eq_add_of_lt room
      have left : 32 - (s.venue v).recovery.length = (32 - ((s.venue v).recovery.length + 1)) + 1 := by omega
      rw [left, List.take_succ_cons]
      refine ⟨fun e => ?_, ?_, fun k le => ?_⟩
      · rw [mem, mem_insertEntry, List.exists_mem_cons_iff]
        tauto
      · rw [length, List.length_cons]
        omega
      · rw [counter k le, List.length_cons, List.length_cons, Nat.add_sub_add_right]
    · rw [State.enterGap_of_full p n hp (not_lt.1 room)] at mem length counter
      have none' : 32 - (s.venue v).recovery.length = 0 := by omega
      simp only [State.report_venue_recovery, none', List.take_zero, List.not_mem_nil, false_and, exists_false, or_false,
        List.length_nil, Nat.sub_zero, State.report_health, Health.take_counter, satInc] at mem length counter ⊢
      refine ⟨fun e => by simp [mem], length, fun k le => ?_⟩
      rw [counter k (by split <;> omega), List.length_cons, List.length_nil]
      split <;> omega

end Enter

/-- R68, R100: a store over a gap: the frames skipped handed on, before the entry is settled. -/
theorem State.detectGaps_of_gap {s : State} {v : Fin 24} {c : Fin 128} {a : Arrival} {ph : Phase} {o : FrameNo}
    (hp : (s.venue v).timebase.phase = some ph) (gap : 2 ≤ dist a.frame o) (asks : 0 < (s.venue v).settings.attempts) :
    s.detectGaps v c a (some o) =
      (if 16 < (gapCandidates ph.nr o a.frame).length then s.report v (a.report .gapOverflow (some c)) else s).enterGaps v c
        a.port ((gapCandidates ph.nr o a.frame).take 16) := by
  simp only [State.detectGaps, hp]
  rw [if_pos (by rw [Bool.and_eq_true, decide_eq_true_eq, decide_eq_true_eq]; exact ⟨gap, asks⟩)]
  rfl

/-- The queue law reads the queue, the list and the newest frames only. -/
theorem State.QueueOk.congr {s t : State} {v : Fin 24} {nr : FrameNo} (h : s.QueueOk v nr)
    (recovery : (t.venue v).recovery = (s.venue v).recovery) (circuits : (t.venue v).circuits = (s.venue v).circuits)
    (newest : ∀ d, (t.circuit d).newest = (s.circuit d).newest) : t.QueueOk v nr := by
  rw [State.queueOk_iff] at h ⊢
  simp only [recovery, circuits, newest]
  exact h

theorem State.GapsFit.report {s : State} {v : Fin 24} {c : Fin 128} {nr : FrameNo} {gaps : List FrameNo}
    (h : s.GapsFit v c nr gaps) (r : Report) : (s.report v r).GapsFit v c nr gaps := by
  obtain ⟨listed, between, beyond, ordered⟩ := h
  refine ⟨?_, between, ?_, ordered⟩
  · rw [State.report_venue_circuits]; exact listed
  · rw [State.report_venue_recovery]; exact beyond

/-- Settles O31: the frame put in its window, the frames skipped entered, and a REPAIR frame that settles nothing. -/
theorem storedFrameHandsGaps : Obligations.StoredFrameHandsGaps := by
  intro s p rx f v q c ph o first gaps handed entered h n active phase front near absent entries newest gap asks hfirst
    hgaps hhanded hentered
  have ne : (s.venue v).state ≠ .holdover := by rw [active]; decide
  have venue := s.heard_venue p f v q
  have listed : c ∈ (s.venue v).circuits := State.tagged_listed n.tag
  have taken := h.exec_of_fit n (.inl active) phase
  have count : (s.heard p f v q).blockCount = s.reference.blockCount := rfl
  have others : ∀ w, w ≠ v → (s.heard p f v q).venue w = s.venue w := fun w hw => s.heard_venue_of_ne p f v q hw
  generalize hu : s.heard p f v q = u at taken venue count others
  have circuit : ∀ d, u.circuit d = s.circuit d := fun d => by rw [← hu]; rfl
  rw [if_neg (not_lt.2 front), if_neg (not_le.2 near), State.place_of_absent (by rw [circuit]; exact absent)] at taken
  obtain ⟨health, circuits, settings, recovery, _, phase'⟩ :=
    heardVenue_keeps (s.venue v) q (heardPath s ((s.venue v).path q) f)
  rw [← venue] at health circuits settings recovery phase'
  -- the frame put in its window
  have put := u.putFrame_venue_self v c (arrivalOf p f)
  generalize hw : u.putFrame v c (arrivalOf p f) = w at put
  have candidates : gapCandidates ph.nr o f.frame = gaps := by rw [hgaps]; exact gapCandidates_eq front gap hfirst
  have hw_count : w.blockCount = s.reference.blockCount := by rw [← hw, ← count]; rfl
  have hw_phase : (w.venue v).timebase.phase = some ph := by rw [put]; exact phase'.trans phase
  have hw_recovery : (w.venue v).recovery = (s.venue v).recovery := by rw [put]; exact recovery
  have hw_health : (w.venue v).health = (s.venue v).health := by rw [put]; exact health
  -- the frames skipped, reported when they are too many
  have detected := State.detectGaps_of_gap (s := w) (c := c) (a := arrivalOf p f) hw_phase gap
    (by rw [put]; exact settings ▸ asks)
  have candidates' : gapCandidates ph.nr o (arrivalOf p f).frame = gaps := candidates
  rw [candidates', ← hhanded] at detected
  generalize hx : (if 16 < gaps.length then w.report v ((arrivalOf p f).report .gapOverflow (some c)) else w) = x at detected
  have hx_count : x.blockCount = s.reference.blockCount := by rw [← hx]; split <;> exact hw_count
  have hx_phase : (x.venue v).timebase.phase = some ph := by
    rw [← hx]
    split
    · rw [State.report_venue_timebase]; exact hw_phase
    · exact hw_phase
  have hx_recovery : (x.venue v).recovery = (s.venue v).recovery := by
    rw [← hx]
    split
    · rw [State.report_venue_recovery]; exact hw_recovery
    · exact hw_recovery
  have hx_counter : ∀ k, (x.venue v).health.counter k = if k = .gapOverflow ∧ 16 < gaps.length
      then min 65535 ((s.venue v).health.counter k + 1) else (s.venue v).health.counter k := fun k => by
    rw [← hx]
    by_cases many : 16 < gaps.length
    · rw [if_pos many, State.report_health, Health.take_counter, hw_health]
      exact if_congr (by simp [many, Arrival.report]) rfl rfl
    · rw [if_neg many, if_neg fun g => many g.2, hw_health]
  have all := State.enterGaps_entered (s := x) (c := c) (arrivalOf p f).port handed hx_phase
  rw [hx_recovery, ← hentered, ← detected] at all
  obtain ⟨mem, length, counter⟩ := all
  rw [hx_count, hx_recovery] at mem
  rw [hx_recovery] at length
  -- no entry is settled
  have between := (gapCandidates_between front gap).1
  rw [candidates] at between
  have unsettled : ∀ e ∈ ((w.detectGaps v c (arrivalOf p f) (some o)).venue v).recovery, e.circuit = c →
      e.frame ≠ (arrivalOf p f).frame := by
    intro e he hc
    rcases (mem e).1 he with he | ⟨g, hg, rfl⟩
    · exact entries e he hc
    · intro same
      rw [hentered] at hg
      rw [hhanded] at hg
      have behind := (between g (List.mem_of_mem_take (List.mem_of_mem_take hg))).2.1
      have same' : g = f.frame := same
      rw [same'] at behind
      exact lt_irrefl _ behind
  have whole : u.storeFrame v c (arrivalOf p f) = (w.detectGaps v c (arrivalOf p f) (some o)).setVenue v
      { (w.detectGaps v c (arrivalOf p f) (some o)).venue v with
        health := ((w.detectGaps v c (arrivalOf p f) (some o)).venue v).health.repairUnmatched (arrivalOf p f) c
          (w.detectGaps v c (arrivalOf p f) (some o)).blockCount } := by
    have newest' : (u.circuit c).newest = some o := by rw [circuit, newest]
    rw [State.storeFrame_eq, newest', hw, State.settleStore_of_none unsettled, State.unmatched_eq]
  have stored := u.storeFrame_venue v c (arrivalOf p f)
  refine ⟨_, taken, fun e => ?_, ?_, fun queue => ?_, ?_, ?_, fun bounded k => ?_, fun d hd => ?_, fun w' hw' => ?_, ?_, ?_⟩
  · rw [whole, State.setVenue_venue]
    exact mem e
  · rw [whole, State.setVenue_venue]
    exact length
  · have queue' : u.QueueOk v ph.nr := queue.congr recovery circuits fun d => by rw [circuit]
    have fit := State.putFrame_gapsFit (s := u) (c := c) (a := arrivalOf p f) queue' (by rw [circuits]; exact listed)
      front (by rw [circuit]; exact newest) gap 16
    have put' := queue'.putFrame (c := c) (a := arrivalOf p f) front
    rw [candidates', hw, ← hhanded] at fit
    rw [hw] at put'
    have fit' : x.GapsFit v c ph.nr handed := by
      rw [← hx]
      split
      · exact fit.report _
      · exact fit
    have put'' : x.QueueOk v ph.nr := by
      rw [← hx]
      split
      · exact put'.congr (State.report_venue_recovery ..) (State.report_venue_circuits ..) fun _ => rfl
      · exact put'
    have gone := put''.enterGaps (p := (arrivalOf p f).port) hx_phase fit'
    rw [← detected] at gone
    rw [whole]
    refine gone.congr ?_ ?_ fun _ => rfl
    · rw [State.setVenue_venue]
    · rw [State.setVenue_venue]
  · rw [State.storeFrame_circuit, if_pos rfl, circuit]
    exact Circuit.held_store_self ..
  · rw [State.storeFrame_circuit, if_pos rfl, circuit, newest]
    have further : 0 < dist (arrivalOf p f).frame o := lt_of_lt_of_le (by decide) gap
    exact if_pos further
  · rw [whole, State.setVenue_venue, Health.repairUnmatched_counter,
      counter k (by rw [hx_counter]; have := bounded k; split <;> omega), hx_counter]
    have le := bounded k
    by_cases overflow : k = .gapOverflow
    · subst overflow
      simp only [true_and, reduceCtorEq, false_and, if_false, Nat.add_zero]
      split <;> omega
    · by_cases full : k = .queueFull
      · subst full
        simp only [reduceCtorEq, false_and, if_false, if_true]
      · simp only [overflow, full, false_and, if_false, Nat.add_zero]
        show (if k = .repairUnmatched ∧ f.repair = true then _ else _) = _
        split <;> omega
  · rw [State.storeFrame_circuit, if_neg hd, circuit]
  · rw [State.storeFrame_venue_of_ne _ _ _ _ hw', others w' hw']
  · rw [stored]
    show (u.venue v).state = _
    rw [venue, heardVenue_of_ne ne]
    cases q <;> exact active
  · rw [stored]
    show (u.venue v).timebase = _
    rw [venue, heardVenue_of_ne ne]
    cases q <;> rfl

end Sys2Proof.Machine
end

section
/-! PROOFS. A frame that seats or re-seats its venue (sections 1.2, 4.3 and 5.3, R3, R70, R71, R81). -/

namespace Sys2Proof.Machine

/-! ### What a seat may change -/

/-- `t` is `s` but for venues, circuits and the works left over. -/
def State.SeatsTo (s t : State) : Prop := t = { s with venues := t.venues, circuits := t.circuits, due := t.due }

section SeatsTo

variable {s t u : State}

theorem State.SeatsTo.refl (s : State) : s.SeatsTo s := rfl

theorem State.SeatsTo.trans (h : s.SeatsTo t) (g : t.SeatsTo u) : s.SeatsTo u := by
  unfold State.SeatsTo at *
  rw [g, h]

theorem State.SeatsTo.setVenue (h : s.SeatsTo t) (v : Fin 24) (x : Venue) : s.SeatsTo (t.setVenue v x) := h.trans rfl

theorem State.SeatsTo.setCircuit (h : s.SeatsTo t) (c : Fin 128) (x : Circuit) : s.SeatsTo (t.setCircuit c x) := h.trans rfl

theorem State.SeatsTo.seatVenue (h : s.SeatsTo t) (v : Fin 24) (n : FrameNo) : s.SeatsTo (t.seatVenue v n) :=
  h.trans (by unfold State.SeatsTo; rw [State.seatVenue_eq])

theorem State.SeatsTo.modCircuits (h : s.SeatsTo t) (cs : List (Fin 128)) (f : Circuit → Circuit) :
    s.SeatsTo (t.modCircuits cs f) := h.trans (by unfold State.SeatsTo; rw [State.modCircuits_eq])

theorem State.SeatsTo.report (h : s.SeatsTo t) (v : Fin 24) (r : Report) : s.SeatsTo (t.report v r) := by
  rw [State.report_eq]
  exact h.setVenue v _

end SeatsTo

/-- R3, R71: `t` is `s` with venue `v` seated by frame `n`, or seated again, and the frame itself not yet stored. -/
structure State.Seats (s t : State) (v : Fin 24) (n : FrameNo) (again : Bool) : Prop where
  state : (t.venue v).state = .active
  timebase : (t.venue v).timebase = (s.venue v).timebase.seat n (s.venue v).settings.target
  newest : (t.venue v).newest = none
  recovery : (t.venue v).recovery = []
  path : ∀ q, (t.venue v).path q = (s.venue v).path q
  counter : ∀ k, k ≠ .cancelled → k ≠ .late → k ≠ .ahead → (t.venue v).health.counter k =
    if again = true ∧ k = .reseat then min 65535 ((s.venue v).health.counter k + 1) else (s.venue v).health.counter k
  emptied : ∀ d ∈ (s.venue v).circuits, (t.circuit d).cells = [] ∧ (t.circuit d).newest = none
  kept : ∀ d, (t.circuit d).state = (s.circuit d).state ∧ (t.circuit d).window = (s.circuit d).window ∧
    (t.circuit d).placed = (s.circuit d).placed
  unmarked : again = true → ∀ d ∈ (s.venue v).circuits, (t.circuit d).lastPresent = none
  unlisted : ∀ d, d ∉ (s.venue v).circuits → t.circuit d = s.circuit d
  others : ∀ w, w ≠ v → t.venue w = s.venue w
  rest : s.SeatsTo t
  due : t.due = if again then s.due else s.due.filter fun w => w != .venueStep v

section Seat

variable {s : State} {v : Fin 24} {c : Fin 128} {a : Arrival}

theorem State.seatVenue_circuit (n : FrameNo) (d : Fin 128) :
    (s.seatVenue v n).circuit d = if d ∈ (s.venue v).circuits then (s.circuit d).clearWindow else s.circuit d := by
  simp only [State.seatVenue, State.flush_circuit, State.modVenue_eq, State.setVenue_venue]
  exact State.modCircuits_circuit_of_idem _ (f := Circuit.clearWindow) (fun _ => rfl) d

theorem State.reseatVenue_circuit (n : FrameNo) (d : Fin 128) :
    (s.reseatVenue v n).circuit d =
      if d ∈ (s.venue v).circuits then { (s.circuit d).clearWindow with lastPresent := none } else s.circuit d := by
  have list : ((s.seatVenue v n).venue v).circuits = (s.venue v).circuits := by rw [State.seatVenue_venue]
  rw [State.reseatVenue, list, State.modCircuits_circuit_of_idem _ (f := fun x => { x with lastPresent := none }) (fun _ => rfl),
    State.seatVenue_circuit n]
  split <;> rfl

/-- R3: the first seat of a WAITING venue. -/
theorem State.firstSeat_seats (n : FrameNo) :
    s.Seats (((s.missStep v).seatVenue v n).modVenue v fun ve => { ve with state := .active }) v n false := by
  have venue : ∀ w, (s.missStep v).venue w = s.venue w := fun _ => rfl
  have circuit : ∀ d, (s.missStep v).circuit d = s.circuit d := fun _ => rfl
  have due : (s.missStep v).due = s.due.filter fun w => w != .venueStep v := rfl
  have missed : s.SeatsTo (s.missStep v) := rfl
  have frame := missed.seatVenue v n
  have self := (s.missStep v).seatVenue_venue v n
  have counter := (s.missStep v).seatVenue_counter v n
  have windows := State.seatVenue_circuit (s := s.missStep v) (v := v) n
  have left : ((s.missStep v).seatVenue v n).due = s.due.filter fun w => w != .venueStep v := by rw [State.seatVenue_eq, ← due]
  have others := (s.missStep v).seatVenue_venue_of_ne v n
  generalize s.missStep v = u at *
  simp only [venue, circuit] at self counter windows others
  generalize u.seatVenue v n = t at *
  refine ⟨?_, ?_, ?_, ?_, fun q => ?_, fun k hc _ _ => ?_, fun d hd => ?_, fun d => ?_, fun h => ?_, fun d hd => ?_,
    fun w hw => ?_, ?_, ?_⟩
  · rw [State.modVenue_eq, State.setVenue_venue]
  · rw [State.modVenue_eq, State.setVenue_venue, self]
  · rw [State.modVenue_eq, State.setVenue_venue, self]
  · rw [State.modVenue_eq, State.setVenue_venue, self]
  · rw [State.modVenue_eq, State.setVenue_venue, self]
    cases q <;> rfl
  · rw [State.modVenue_eq, State.setVenue_venue, if_neg fun h => Bool.false_ne_true h.1]
    exact counter k hc
  · rw [State.modVenue_eq, State.setVenue_circuit, windows, if_pos hd]
    exact ⟨rfl, rfl⟩
  · rw [State.modVenue_eq, State.setVenue_circuit, windows]
    split <;> exact ⟨rfl, rfl, rfl⟩
  · exact absurd h Bool.false_ne_true
  · rw [State.modVenue_eq, State.setVenue_circuit, windows, if_neg hd]
  · rw [State.modVenue_eq, State.setVenue_venue_of_ne (h := hw), others w hw]
  · exact frame.setVenue v _
  · rw [if_neg Bool.false_ne_true]
    exact left

/-- R70, R71: a seat of an ACTIVE venue again, after its frame was counted LATE or AHEAD or, with RESTART, was not. -/
theorem State.reseat_seats {u : State} {late ahead' late' : Nat} {h : Health} (r : Report) (n : FrameNo)
    (counted : u = (s.setCircuit c { s.circuit c with late := late }).setVenue v
      { s.venue v with aheadStreak := ahead', lateStreak := late', health := h })
    (health : ∀ k, k ≠ .late → k ≠ .ahead → h.counter k = (s.venue v).health.counter k)
    (active : (s.venue v).state = .active) (listed : c ∈ (s.venue v).circuits)
    (kind : r.kind = .reseat) : s.Seats ((u.reseatVenue v n).report v r) v n true := by
  have venue : u.venue v = { s.venue v with aheadStreak := ahead', lateStreak := late', health := h } := by
    rw [counted, State.setVenue_venue]
  have circuit : ∀ d, u.circuit d = if d = c then { s.circuit c with late := late } else s.circuit d := fun d => by
    rw [counted, State.setVenue_circuit, State.setCircuit_circuit_eq_ite]
  have others : ∀ w, w ≠ v → u.venue w = s.venue w := fun w hw => by
    rw [counted, State.setVenue_venue_of_ne (h := hw)]
    rfl
  have frame : s.SeatsTo u := by rw [counted]; exact ((State.SeatsTo.refl s).setCircuit c _).setVenue v _
  have left : u.due = s.due := by rw [counted]; rfl
  have list : (u.venue v).circuits = (s.venue v).circuits := by rw [venue]
  have self : ∀ w, (u.reseatVenue v n).venue w = (u.seatVenue v n).venue w := fun w => u.reseatVenue_venue v w n
  have seat := u.seatVenue_venue v n
  have counter := u.seatVenue_counter v n
  have others' := u.seatVenue_venue_of_ne v n
  have windows := State.reseatVenue_circuit (s := u) (v := v) n
  have frame' : s.SeatsTo ((u.reseatVenue v n).report v r) :=
    ((frame.seatVenue v n).modCircuits _ fun x => { x with lastPresent := none }).report v r
  have left' : ((u.reseatVenue v n).report v r).due = u.due := by
    rw [State.report_due, State.reseatVenue, State.modCircuits_due, State.seatVenue_eq]
  rw [list] at windows
  generalize u.seatVenue v n = z at *
  generalize u.reseatVenue v n = t at *
  have shape := State.report_eq t v r
  refine ⟨?_, ?_, ?_, ?_, fun q => ?_, fun k hc hl ha => ?_, fun d hd => ?_, fun d => ?_, fun _ d hd => ?_, fun d hd => ?_,
    fun w hw => ?_, ?_, ?_⟩
  · rw [State.report_venue_state, self, seat, venue]
    exact active
  · rw [State.report_venue_timebase, self, seat, venue]
  · rw [shape, State.setVenue_venue, self, seat]
  · rw [State.report_venue_recovery, self, seat]
  · rw [shape, State.setVenue_venue, self, seat, venue]
    cases q <;> rfl
  · rw [State.report_health, Health.take_counter, self, counter k hc, venue, kind]
    simp only [satInc, health k hl ha, true_and]
  · rw [State.report_circuit, windows, if_pos hd]
    exact ⟨rfl, rfl⟩
  · rw [State.report_circuit, windows, circuit]
    by_cases hd : d = c
    · subst hd
      rw [if_pos listed, if_pos rfl]
      exact ⟨rfl, rfl, rfl⟩
    · rw [if_neg hd]
      split <;> exact ⟨rfl, rfl, rfl⟩
  · rw [State.report_circuit, windows, if_pos hd]
  · rw [State.report_circuit, windows, if_neg hd, circuit, if_neg fun e => hd (by rw [e]; exact listed)]
  · rw [State.report_venue_of_ne _ _ _ _ hw, self, others' w hw, others w hw]
  · exact frame'
  · rw [left', left]
    rfl

/-- R70: a misplaced frame that re-seats: it carries RESTART, or brings its streak to the threshold. -/
theorem State.misplaced_seats (isLate : Bool) (reseats : a.restart = true ∨
      (if isLate then (s.venue v).lateStreak = 63 else (s.venue v).aheadStreak = 7))
    (active : (s.venue v).state = .active) (listed : c ∈ (s.venue v).circuits) :
    ∃ z : State, s.misplaced v c a isLate = z.storeFrame v c a ∧ s.Seats z v a.frame true := by
  by_cases restart : a.restart = true
  · refine ⟨(s.reseatVenue v a.frame).report v (a.report .reseat (some c)), ?_,
      State.reseat_seats _ a.frame (late := (s.circuit c).late) (ahead' := (s.venue v).aheadStreak)
        (late' := (s.venue v).lateStreak) (h := (s.venue v).health) ?_ (fun _ _ _ => rfl) active listed rfl⟩
    · cases isLate
      · rw [State.misplaced_ahead, if_pos restart, State.reseat_eq]
      · rw [State.misplaced_late, if_pos restart, State.reseat_eq]
    · exact ((congrArg (State.setVenue · v _) (State.setCircuit_self s c)).trans (State.setVenue_self s v)).symm
  · replace reseats := reseats.resolve_left restart
    cases isLate with
    | true =>
      have counted := s.lateCounted_eq v c a
      have streak : ((s.lateCounted v c a).venue v).lateStreak = (s.venue v).lateStreak + 1 := by
        rw [counted, State.setVenue_venue]
      have full : (s.venue v).lateStreak = 63 := reseats
      have reached : Config.lateThreshold ≤ ((s.lateCounted v c a).venue v).lateStreak := by rw [streak, full]; decide
      rw [State.misplaced_late, if_neg restart, if_pos reached]
      refine ⟨_, State.reseat_eq _ v c a, State.reseat_seats _ a.frame counted (fun k hl _ => ?_) active listed rfl⟩
      rw [Health.take_counter, if_neg (by exact hl)]
    | false =>
      have counted := s.aheadCounted_eq v c a
      have streak : ((s.aheadCounted v c a).venue v).aheadStreak = (s.venue v).aheadStreak + 1 := by
        rw [counted, State.setVenue_venue]
      have full : (s.venue v).aheadStreak = 7 := reseats
      have reached : Config.aheadThreshold ≤ ((s.aheadCounted v c a).venue v).aheadStreak := by rw [streak, full]; decide
      rw [State.misplaced_ahead, if_neg restart, if_pos reached]
      have same : s.setCircuit c { s.circuit c with late := (s.circuit c).late } = s := State.setCircuit_self s c
      refine ⟨_, State.reseat_eq _ v c a,
        State.reseat_seats _ a.frame (counted.trans (congrArg (State.setVenue · v _) same.symm)) (fun k _ ha => ?_) active listed rfl⟩
      rw [Health.take_counter, if_neg (by exact ha)]

end Seat

theorem Timebase.seat_eq (t : Timebase) (n : FrameNo) (target : Nat) : t.seat n target = { t with
    phase := some ⟨n + 1 - BitVec.ofNat 32 ((target + 95) / 96), 96 * ((target + 95) / 96) - target, 0⟩
    rhoT := 0, rhoEff := t.rhoP, loop := .acquiring, sum := 0, count := 0, lockRun := 0, unlockRun := 0 } := rfl

/-- R3, R70: the frame that names circuit `c` and seats its venue: it is stored in the venue just seated. -/
theorem Handed.exec_of_seat {s : State} {p : Fin 4} {rx : RxFrame} {f : VctIn} {v : Fin 24} {q : PathId} {c : Fin 128}
    {first : Bool} (h : Handed s p rx f v q) (n : Names s f v c)
    (seats : first = true ∧ (s.venue v).state = .waiting ∧
        ((s.circuit c).state = .armed ∨ (s.circuit c).state = .running ∨ (s.circuit c).state = .concealing) ∨
      first = false ∧ (s.venue v).state = .active ∧ ∃ ph, (s.venue v).timebase.phase = some ph ∧
        ((dist f.frame ph.nr < 0 ∧ ((s.venue v).lateStreak = 63 ∨ f.restart = true)) ∨
          ((s.circuit c).window ≤ dist f.frame ph.nr ∧ 0 ≤ dist f.frame ph.nr ∧
            ((s.venue v).aheadStreak = 7 ∨ f.restart = true)))) :
    ∃ z : State, exec (.frameReceived p rx) s = .next (z.storeFrame v c (arrivalOf p f)) ∧
      (s.heard p f v q).Seats z v f.frame !first := by
  have ne : (s.venue v).state ≠ .holdover := by
    rcases seats with ⟨_, hs, _⟩ | ⟨_, hs, _⟩ <;> rw [hs] <;> decide
  have venue : (s.heard p f v q).venue v = (s.venue v).setPath q (heardPath s ((s.venue v).path q) f) := by
    rw [State.heard_venue, heardVenue_of_ne ne]
  have list : ((s.heard p f v q).venue v).circuits = (s.venue v).circuits := by rw [venue]; cases q <;> rfl
  have state : ((s.heard p f v q).venue v).state = (s.venue v).state := by rw [venue]; cases q <;> rfl
  rcases seats with ⟨rfl, waiting, suits⟩ | ⟨rfl, active, ph, phase, misplaced⟩
  · obtain ⟨audio, tag, alive, channels⟩ := n
    refine ⟨_, ?_, State.firstSeat_seats f.frame⟩
    rw [h.exec_eq, State.handOn_of_waiting audio (Venue.seated_eq_false (state.trans waiting)),
      State.arriveWaiting_of_suitable (s := s.heard p f v q) (a := arrivalOf p f)
        ((s.heard_tagged p f v q f.tag).trans tag) channels suits]
    rfl
  · have listed := State.tagged_listed n.tag
    have taken := h.exec_of_fit n (.inl active) phase
    have streaks : ((s.heard p f v q).venue v).lateStreak = (s.venue v).lateStreak ∧
        ((s.heard p f v q).venue v).aheadStreak = (s.venue v).aheadStreak := by
      rw [venue]
      cases q <;> exact ⟨rfl, rfl⟩
    have reseats : ∀ isLate : Bool, (f.restart = true ∨
        (if isLate then (s.venue v).lateStreak = 63 else (s.venue v).aheadStreak = 7)) →
        ∃ z : State, (s.heard p f v q).misplaced v c (arrivalOf p f) isLate = z.storeFrame v c (arrivalOf p f) ∧
          (s.heard p f v q).Seats z v f.frame true := fun isLate hr =>
      State.misplaced_seats (s := s.heard p f v q) (a := arrivalOf p f) isLate (by rw [streaks.1, streaks.2]; exact hr)
        (state.trans active) (list ▸ listed)
    rcases misplaced with ⟨neg, hr⟩ | ⟨far, front, hr⟩
    · obtain ⟨z, eq, hz⟩ := reseats true hr.symm
      rw [if_pos neg, eq] at taken
      exact ⟨z, taken, hz⟩
    · obtain ⟨z, eq, hz⟩ := reseats false hr.symm
      rw [if_neg (not_lt.2 front), if_pos far, eq] at taken
      exact ⟨z, taken, hz⟩

/-- Settles O35: the seat, and then a plain store into an emptied window. -/
theorem frameSeatsVenue : Obligations.FrameSeatsVenue := by
  intro s p rx f v q c first h n _ seats
  have listed := State.tagged_listed n.tag
  have ne : (s.venue v).state ≠ .holdover := by
    rcases seats with ⟨_, hs, _⟩ | ⟨_, hs, _⟩ <;> rw [hs] <;> decide
  obtain ⟨z, taken, hz⟩ := h.exec_of_seat n seats
  have venue : (s.heard p f v q).venue v = (s.venue v).setPath q (heardPath s ((s.venue v).path q) f) := by
    rw [State.heard_venue, heardVenue_of_ne ne]
  have others : ∀ w, w ≠ v → (s.heard p f v q).venue w = s.venue w := fun w hw => s.heard_venue_of_ne p f v q hw
  have due : (s.heard p f v q).due = s.due := rfl
  have rest : s.heard p f v q =
      { s.setPort p { s.port p with taken := min 65535 ((s.port p).taken + 1) } with
          venues := (s.heard p f v q).venues, circuits := (s.heard p f v q).circuits } := rfl
  have circuit : ∀ d, (s.heard p f v q).circuit d = s.circuit d := fun _ => rfl
  generalize s.heard p f v q = u at *
  obtain ⟨health, list, timebase, settings, path⟩ : (u.venue v).health = (s.venue v).health ∧
      (u.venue v).circuits = (s.venue v).circuits ∧ (u.venue v).timebase = (s.venue v).timebase ∧
      (u.venue v).settings = (s.venue v).settings ∧ (u.venue v).path q = heardPath s ((s.venue v).path q) f := by
    rw [venue]
    cases q <;> exact ⟨rfl, rfl, rfl, rfl, rfl⟩
  obtain ⟨zState, zTimebase, zNewest, zRecovery, zPath, zCounter, zEmptied, zKept, zUnmarked, zUnlisted, zOthers, zRest,
    zDue⟩ := hz
  simp only [health, list, timebase, settings, circuit] at zTimebase zCounter zEmptied zKept zUnmarked zUnlisted
  obtain ⟨empty, unset⟩ := zEmptied c listed
  obtain ⟨kState, kWindow, kPlaced⟩ := zKept c
  have stored := State.storeFrame_of_plain (s := z) (c := c) (a := arrivalOf p f) (.inl unset)
    (fun e he => absurd he (by rw [zRecovery]; exact List.not_mem_nil))
  have tv := congrArg (State.venue · v) stored
  have tc := fun d => congrArg (State.circuit · d) stored
  have tw : ∀ w, w ≠ v → (z.storeFrame v c (arrivalOf p f)).venue w = z.venue w := fun w hw =>
    State.storeFrame_venue_of_ne _ _ _ _ hw
  have td : (z.storeFrame v c (arrivalOf p f)).due = z.due := by rw [stored]; rfl
  have tr : z.storeFrame v c (arrivalOf p f) = { z with
      venues := (z.storeFrame v c (arrivalOf p f)).venues, circuits := (z.storeFrame v c (arrivalOf p f)).circuits } := by
    rw [stored]
    rfl
  simp only [State.setVenue_venue, State.setVenue_circuit, State.setCircuit_circuit_eq_ite] at tv tc
  have tSelf := tc c
  rw [if_pos rfl] at tSelf
  have tOther : ∀ d, d ≠ c → (z.storeFrame v c (arrivalOf p f)).circuit d = z.circuit d := fun d hd => by
    rw [tc d, if_neg hd]
  generalize z.storeFrame v c (arrivalOf p f) = t at *
  refine ⟨t, taken, ?_, ?_, ?_, ?_, ?_, ?_, ?_, ?_, ?_, ?_, ?_, fun d hd ne => ?_, fun again d hd => ?_, fun below => ?_,
    fun d hd => ?_, fun w hw => ?_, ?_, ?_, fun bounded => ?_⟩
  · rw [tv]; exact zState
  · rw [tv, ← Timebase.seat_eq]; exact zTimebase
  · rw [tv, zNewest]; rfl
  · rw [tv]
  · rw [tv]
  · rw [tv]; exact zRecovery
  · rw [tv, ← path, ← zPath q]
    cases q <;> rfl
  · rw [tSelf]
    simp only [Circuit.store, Circuit.cellIndex, empty, kWindow, putCell]
    rfl
  · rw [tSelf, unset]; rfl
  · rw [tSelf]; exact kState
  · rw [tSelf]
    show satInc (z.circuit c).placed = _
    rw [kPlaced]
    rfl
  · rw [tOther d ne]
    exact ⟨(zEmptied d hd).1, (zEmptied d hd).2, (zKept d).1⟩
  · have gone := zUnmarked (by rw [again]; rfl) d hd
    by_cases hc : d = c
    · subst hc
      rw [tSelf]
      exact gone
    · rw [tOther d hc]
      exact gone
  · rw [tv]
    show ((z.venue v).health.repairUnmatched (arrivalOf p f) c z.blockCount).counter .reseat = _
    rw [Health.repairUnmatched_counter, if_neg (fun g => absurd g.1 (by decide)), zCounter _ (by decide) (by decide) (by decide)]
    cases first
    · rw [if_pos ⟨rfl, rfl⟩, min_eq_right (by omega)]
      rfl
    · rfl
  · rw [tOther d fun e => hd (by rw [e]; exact listed), zUnlisted d hd]
  · rw [tw w hw, zOthers w hw, others w hw]
  · conv => lhs; rw [tr, zRest, rest]
    rw [td]
  · rw [td, zDue, due]
    cases first
    · rfl
    · simp only [Bool.not_true, Bool.false_eq_true, if_false, if_true]
      exact List.filter_congr fun w _ => by by_cases hw : w = .venueStep v <;> simp [hw]
  · rw [tv]
    show ((z.venue v).health.repairUnmatched (arrivalOf p f) c z.blockCount).counter .repairUnmatched = _
    rw [Health.repairUnmatched_counter, zCounter _ (by decide) (by decide) (by decide),
      if_neg (c := (!first) = true ∧ ErrorKind.repairUnmatched = .reseat) fun g => absurd g.2 (by decide)]
    have repair : (arrivalOf p f).repair = f.repair := rfl
    by_cases hr : f.repair = true <;> simp [repair, hr, bounded]

end Sys2Proof.Machine
end

section
/-! PROOFS. Venue loss, the announced list's expiry and a path's timeout (sections 1.2, 1.4, 3.3 and 5.6). -/

namespace Sys2Proof.Machine

theorem exec_venueLossExpiry (v : Fin 24) (s : State) :
    exec (.venueLossExpiry v) s = .next (s.takeDue (.holdoverCount v) (s.lossExpires v)) := rfl

theorem exec_announceExpiry (v : Fin 24) (s : State) :
    exec (.announceExpiry v) s = .next (s.takeDue (.announceAge v) (s.announceExpires v)) := rfl

theorem exec_pathTimeout (v : Fin 24) (q : PathId) (s : State) :
    exec (.pathTimeout v q) s = .next (s.takeDue (.pathTimeout v q) (s.pathSilent v q)) := rfl

/-! ### A venue unseated (R8, R9) -/

/-- R9: what an unseated venue's circuit becomes, its window already emptied. -/
def Circuit.unseated (x : Circuit) : Circuit :=
  match x.state with
  | .running | .concealing => { x with state := .armed, hold := x.holdInit }
  | .closing => Circuit.free
  | .free | .armed | .lost => x

theorem Circuit.unseated_clearWindow {x : Circuit} (live : x.state ≠ .free) :
    (x.state = .closing → x.clearWindow.unseated = Circuit.free) ∧
    (x.state ≠ .closing → x.clearWindow.unseated.cells = [] ∧ x.clearWindow.unseated.newest = none ∧
      x.clearWindow.unseated.state = (if x.state = .lost then .lost else .armed) ∧
      x.clearWindow.unseated.hold = if x.state = .running ∨ x.state = .concealing then x.holdInit else x.hold) := by
  have state : x.clearWindow.state = x.state := rfl
  rw [Circuit.unseated, state]
  cases hs : x.state
  case free => exact absurd hs live
  all_goals simp [Circuit.clearWindow, hs]

section Unseat

variable {s : State} {v : Fin 24}

/-- R9: a CLOSING circuit is freed, any other stays in its place. -/
theorem State.unseatCircuit_eq (s : State) (c : Fin 128) : s.unseatCircuit c =
    if (s.circuit c).state = .closing then s.freeRecord c else s.setCircuit c (s.circuit c).unseated := by
  have self := State.setCircuit_self s c
  unfold State.unseatCircuit Circuit.unseated
  dsimp only
  split <;> simp_all

theorem State.unseatCircuit_circuit (s : State) (c d : Fin 128) :
    (s.unseatCircuit c).circuit d = if d = c then (s.circuit c).unseated else s.circuit d := by
  rw [State.unseatCircuit_eq]
  split
  · next hs =>
    rw [State.freeRecord_circuit, Circuit.unseated, hs]
    simp
  · exact State.setCircuit_circuit_eq_ite ..

theorem State.unseatCircuit_venue_of_ne {c : Fin 128} (hv : (s.circuit c).venue = some v) {w : Fin 24} (hw : w ≠ v) :
    (s.unseatCircuit c).venue w = s.venue w := by
  rw [State.unseatCircuit_eq]
  split
  · rw [State.freeRecord_venue, if_neg]
    rw [hv]
    exact fun h => hw (Option.some.inj h.2).symm
  · exact State.setCircuit_venue ..

/-- R9: an unseated circuit leaves its venue as it is, or leaves the list and the queue. -/
theorem State.unseatCircuit_venue (s : State) (c : Fin 128) : ∃ l r, (s.unseatCircuit c).venue v = { s.venue v with
    circuits := l, recovery := r } ∧ ∀ e ∈ r, e ∈ (s.venue v).recovery := by
  rw [State.unseatCircuit_eq]
  split
  · rw [State.freeRecord_venue]
    split
    · exact ⟨_, _, rfl, fun e he => (List.mem_filter.1 he).1⟩
    · exact ⟨(s.venue v).circuits, (s.venue v).recovery, rfl, fun _ => id⟩
  · exact ⟨(s.venue v).circuits, (s.venue v).recovery, rfl, fun _ => id⟩

/-- R9: the circuits of a list unseated one after another. -/
theorem State.unseatCircuits_spec {cs : List (Fin 128)} (h : s.Owned v cs) :
    (∀ d, (cs.foldl State.unseatCircuit s).circuit d = if d ∈ cs then (s.circuit d).unseated else s.circuit d) ∧
    (∀ w, w ≠ v → (cs.foldl State.unseatCircuit s).venue w = s.venue w) ∧
    ∃ l r, (cs.foldl State.unseatCircuit s).venue v = { s.venue v with circuits := l, recovery := r } ∧
      ∀ e ∈ r, e ∈ (s.venue v).recovery := by
  induction cs generalizing s with
  | nil => exact ⟨fun _ => rfl, fun _ _ => rfl, (s.venue v).circuits, (s.venue v).recovery, rfl, fun _ => id⟩
  | cons c cs ih =>
    obtain ⟨nodup, live, hv⟩ := h
    obtain ⟨notin, nodup⟩ := List.nodup_cons.1 nodup
    have hne : ∀ d ∈ cs, d ≠ c := fun d hd e => notin (by rw [← e]; exact hd)
    have tail : (s.unseatCircuit c).Owned v cs :=
      ⟨nodup, fun d hd => by rw [State.unseatCircuit_circuit, if_neg (hne d hd)]; exact live d (.tail _ hd),
        fun d hd => by rw [State.unseatCircuit_circuit, if_neg (hne d hd)]; exact hv d (.tail _ hd)⟩
    obtain ⟨circuit, others, l, r, self, sub⟩ := ih tail
    obtain ⟨l', r', self', sub'⟩ := s.unseatCircuit_venue (v := v) c
    refine ⟨fun d => ?_, fun w hw => ?_, l, r, ?_, fun e he => sub' e ?_⟩
    · rw [List.foldl_cons, circuit, State.unseatCircuit_circuit]
      by_cases hd : d = c
      · subst hd
        rw [if_neg notin, if_pos rfl, if_pos List.mem_cons_self]
      · rw [if_neg hd]
        exact if_congr (by simp [hd]) rfl rfl
    · rw [List.foldl_cons, others w hw, State.unseatCircuit_venue_of_ne (hv c List.mem_cons_self) hw]
    · rw [List.foldl_cons, self, self']
    · have := sub e he
      rw [self'] at this
      exact this

/-- R8, R9: a venue that returns to WAITING. -/
theorem State.unseat_spec (hl : ListLaw s) :
    (∀ d, (s.unseat v).circuit d = if d ∈ (s.venue v).circuits then (s.circuit d).clearWindow.unseated else s.circuit d) ∧
    (∀ w, w ≠ v → (s.unseat v).venue w = s.venue w) ∧
    ∃ l h, (s.unseat v).venue v = { s.venue v with
      state := .waiting, newest := none, aheadStreak := 0, lateStreak := 0, recovery := []
      timebase := (s.venue v).timebase.unseat, holdoverElapsed := 0, holdoverSince := none
      circuits := l, health := h } := by
  obtain ⟨nodup, live, hv⟩ := hl.owned v
  have circuit : ∀ d, (s.unseatVenue v).circuit d =
      if d ∈ (s.venue v).circuits then (s.circuit d).clearWindow else s.circuit d := fun d => by
    rw [State.unseatVenue_circuit]
    exact State.modCircuits_circuit_of_idem s (f := Circuit.clearWindow) (fun _ => rfl) d
  have owned : (s.unseatVenue v).Owned v (s.venue v).circuits :=
    ⟨nodup, fun d hd => by rw [circuit, if_pos hd]; exact live d hd, fun d hd => by rw [circuit, if_pos hd]; exact hv d hd⟩
  obtain ⟨all, others, l, r, self, sub⟩ := State.unseatCircuits_spec owned
  have empty : r = [] := List.eq_nil_iff_forall_not_mem.2 fun e he => by
    have := sub e he
    rw [State.unseatVenue_venue] at this
    exact List.not_mem_nil this
  rw [State.unseat_eq]
  refine ⟨fun d => ?_, fun w hw => ?_, l, ((s.unseatVenue v).venue v).health, ?_⟩
  · rw [all, circuit]
    split <;> rfl
  · rw [others w hw, State.unseatVenue_venue_of_ne s hw]
  · rw [self, empty, State.unseatVenue_venue]

end Unseat

theorem State.holdoverCount_of_expired {s : State} {v : Fin 24} (h : s.lossExpires v = true) :
    s.holdoverCount v = s.unseat v := if_pos h

theorem State.announceAge_of_expired {s : State} {v : Fin 24} (h : s.announceExpires v = true) :
    s.announceAge v = s.setVenue v { s.venue v with announced := [], announceAge := none } := if_pos h

/-! ### A path's timeout (R53) -/

/-- The health record of a venue after its path `q` was reported DOWN. -/
def State.pathDownHealth (s : State) (v : Fin 24) (q : PathId) : Health :=
  (s.venue v).health.take { kind := .pathDown, circuit := none, frame := none, port := ((s.venue v).path q).port } s.blockCount

theorem State.pathTimeout_of_silent {s : State} {v : Fin 24} {q : PathId} {ve : Venue} (h : s.pathSilent v q = true)
    (hve : ve = (s.venue v).setPath q { (s.venue v).path q with state := .down }) :
    s.pathTimeout v q = (s.setVenue v { ve with health := s.pathDownHealth v q }).holdoverIfPathless v := by
  rw [State.pathTimeout, if_pos h, State.dropPath, State.report_eq, State.modVenue_eq, State.setVenue_venue,
    State.setVenue_setVenue, hve]
  cases q <;> rfl

/-- R6: with path `q` DOWN, an ACTIVE venue has a path UP when its other path is. -/
theorem Venue.anyPathUp_of_down {ve : Venue} {q r : PathId} (hr : r ≠ q) (down : (ve.path q).state = .down) :
    (ve.pathA.state = .up ∨ ve.pathB.state = .up) ↔ (ve.path r).state = .up := by
  cases q <;> cases r <;> simp_all [Venue.path]

theorem State.enterHoldover_counter_of_ne (s : State) (v : Fin 24) (k : ErrorKind) (hk : k ≠ .cancelled) :
    ((s.enterHoldover v).venue v).health.counter k = (s.venue v).health.counter k := by
  rw [State.enterHoldover, State.flush_counter_of_ne _ _ _ hk, State.modVenue_eq, State.setVenue_venue]

/-- Settles O45: the loss by the list of circuits unseated, the timeout by whether the other path is UP. -/
theorem boundaryExpiries : Obligations.BoundaryExpiries := by
  refine ⟨fun s v due hl holdover since expired => ?_, fun s v due isOpen age => ?_,
    fun s v q r l lost ve due hr hlost hve isOpen up last silent => ?_⟩
  · have falls : s.lossExpires v = true := by
      rw [State.lossExpires, State.holdoverCounts, holdover, Bool.and_eq_true, Bool.and_eq_true, bne_iff_ne,
        decide_eq_true_eq]
      exact ⟨⟨rfl, since⟩, expired⟩
    have taken := exec_venueLossExpiry v s
    rw [State.takeDue_of_due due falls] at taken
    have whole : ({ s with due := s.due.erase (.holdoverCount v) } : State).takeWork (.holdoverCount v) =
        State.unseat { s with due := s.due.erase (.holdoverCount v) } v :=
      State.holdoverCount_of_expired (s := { s with due := s.due.erase (.holdoverCount v) }) falls
    have left := State.takeWork_due { s with due := s.due.erase (.holdoverCount v) } (.holdoverCount v)
    obtain ⟨circuit, others, l, h, self⟩ := State.unseat_spec (s := { s with due := s.due.erase (.holdoverCount v) })
      (v := v) hl
    rw [whole] at taken left
    generalize State.unseat { s with due := s.due.erase (.holdoverCount v) } v = t at taken left circuit others self
    have circuit' : ∀ d, t.circuit d =
      if d ∈ (s.venue v).circuits then (s.circuit d).clearWindow.unseated else s.circuit d := circuit
    have tb := congrArg Venue.timebase self
    refine ⟨t, taken, (congrArg Venue.state self :), (congrArg Timebase.phase tb :), (congrArg Timebase.rhoT tb :),
      (congrArg Timebase.rhoP tb :), (congrArg Timebase.rhoEff tb :), (congrArg Timebase.active tb :), (congrArg Venue.newest self :),
      (congrArg Venue.recovery self :), (congrArg Venue.holdoverElapsed self :), (congrArg Venue.aheadStreak self :),
      (congrArg Venue.lateStreak self :), (congrArg Venue.settings self :), (congrArg Venue.pathA self :),
      (congrArg Venue.pathB self :), fun c hc => ?_, fun c hc => ?_, others, left⟩
    · rw [circuit', if_pos hc]
      exact Circuit.unseated_clearWindow ((hl.owned v).live c hc)
    · rw [circuit', if_neg hc]
  · have falls : s.announceExpires v = true := by
      rw [State.announceExpires, (State.isOpen_iff).2 isOpen, age]
      rfl
    rw [exec_announceExpiry, State.takeDue_of_due due falls]
    exact congrArg Host.Outcome.next
      (State.announceAge_of_expired (s := { s with due := s.due.erase (.announceAge v) }) falls)
  · have falls : s.pathSilent v q = true := by
      rw [State.pathSilent, (State.isOpen_iff).2 isOpen, Path.silent, up, last]
      exact decide_eq_true silent
    have taken := exec_pathTimeout v q s
    rw [State.takeDue_of_due due falls] at taken
    have whole := State.pathTimeout_of_silent (s := { s with due := s.due.erase (.pathTimeout v q) }) falls hve
    rw [show ({ s with due := s.due.erase (.pathTimeout v q) } : State).takeWork (.pathTimeout v q) = _ from whole] at taken
    have pathQ : ve.path q = { (s.venue v).path q with state := .down } := by rw [hve, Venue.setPath_path]
    have pathR : ve.path r = (s.venue v).path r := by rw [hve, Venue.setPath_path_of_ne _ _ _ r hr]
    have state : ve.state = (s.venue v).state := by rw [hve]; cases q <;> rfl
    have queue : ve.recovery = (s.venue v).recovery := by rw [hve]; cases q <;> rfl
    have health : State.pathDownHealth { s with due := s.due.erase (.pathTimeout v q) } v q = s.pathDownHealth v q := rfl
    have counter : ∀ k, (s.pathDownHealth v q).counter k = if k = .pathDown
        then min 65535 ((s.venue v).health.counter k + 1) else (s.venue v).health.counter k := fun k =>
      Health.take_counter ..
    have latched : (s.pathDownHealth v q).pathDown = true := by
      rw [State.pathDownHealth, Health.take_pathDown, decide_eq_true rfl, Bool.or_true]
    have self := State.setVenue_venue ({ s with due := s.due.erase (.pathTimeout v q) } : State) v
      { ve with health := s.pathDownHealth v q }
    have others : ∀ w, w ≠ v → (State.setVenue { s with due := s.due.erase (.pathTimeout v q) } v
        { ve with health := s.pathDownHealth v q }).venue w = s.venue w := fun w hw => State.setVenue_venue_of_ne (h := hw) ..
    have rest : State.setVenue { s with due := s.due.erase (.pathTimeout v q) } v { ve with health := s.pathDownHealth v q } =
        { s with
          venues := (State.setVenue { s with due := s.due.erase (.pathTimeout v q) } v
            { ve with health := s.pathDownHealth v q }).venues
          due := s.due.erase (.pathTimeout v q) } := rfl
    have count : (State.setVenue { s with due := s.due.erase (.pathTimeout v q) } v
        { ve with health := s.pathDownHealth v q }).blockCount = s.reference.blockCount := rfl
    have circuit : ∀ c, (State.setVenue { s with due := s.due.erase (.pathTimeout v q) } v
        { ve with health := s.pathDownHealth v q }).circuit c = s.circuit c := fun _ => rfl
    rw [health] at taken
    generalize State.setVenue { s with due := s.due.erase (.pathTimeout v q) } v { ve with health := s.pathDownHealth v q } =
      u at *
    have anyUp : ((u.venue v).pathA.state = .up ∨ (u.venue v).pathB.state = .up) ↔ ((s.venue v).path r).state = .up := by
      have down : (ve.path q).state = .down := by rw [pathQ]
      rw [self, ← pathR]
      exact Venue.anyPathUp_of_down hr down
    have stateU : (u.venue v).state = (s.venue v).state := by rw [self]; exact state
    by_cases gone : lost
    · obtain ⟨active, silentR⟩ := hlost.1 gone
      rw [ne_eq, ← anyUp, not_or] at silentR
      rw [State.holdoverIfPathless_of_lost (stateU.trans active) silentR.1 silentR.2] at taken
      have tv := u.enterHoldover_venue v
      have tc := u.enterHoldover_cancelled v
      have tl := u.enterHoldover_pathDown v
      have tr := u.enterHoldover_eq v
      have tk := u.enterHoldover_counter_of_ne v
      have tw : ∀ w, w ≠ v → (u.enterHoldover v).venue w = u.venue w := fun w hw => u.enterHoldover_venue_of_ne hw
      generalize u.enterHoldover v = t at *
      rw [self] at tv tc tl
      have tv' : ∀ q', (t.venue v).path q' = ve.path q' := fun q' => by rw [tv]; cases q' <;> rfl
      refine ⟨t, taken, (tv' q).trans pathQ, (tv' r).trans pathR, tl.trans latched, ?_, ?_, fun h => absurd gone h,
        fun _ => ⟨?_, fun le => ?_⟩, fun c => ?_, fun w hw => (tw w hw).trans (others w hw), ?_⟩
      · rw [tk _ (by decide), self, counter, if_pos rfl]
      · rw [tv, if_pos (hlost.1 gone)]
      · rw [tv, count]
        rfl
      · rw [tc (by rw [counter, if_neg (by decide)]; exact le), counter, if_neg (by decide)]
        exact congrArg (fun l => min 65535 (_ + List.length l)) queue
      · rw [tr]
        exact circuit c
      · rw [tr, rest]
    · have kept : (u.venue v).state ≠ .active ∨ (u.venue v).pathA.state = .up ∨ (u.venue v).pathB.state = .up := by
        rw [anyUp, stateU]
        by_contra h
        rw [not_or, not_not] at h
        exact gone (hlost.2 h)
      rw [State.holdoverIfPathless_of_kept kept] at taken
      refine ⟨u, taken, ?_, ?_, ?_, ?_, ?_, fun _ => ⟨?_, ?_⟩, fun h => absurd h gone, circuit, others, rest⟩
      · rw [self, ← pathQ]
        cases q <;> rfl
      · rw [self, ← pathR]
        cases r <;> rfl
      · rw [self]
        exact latched
      · rw [self, counter, if_pos rfl]
      · rw [if_neg (mt hlost.2 gone), stateU]
      · rw [self]
      · rw [self, counter, if_neg (by decide)]

end Sys2Proof.Machine
end

section
/-! PROOFS. Frame advances, the judgement at a frame entry, and samples (sections 2.4.1, 5.4, 7.1 and 8.5). -/

namespace Sys2Proof.Machine

/-! ### A frame advance (R72, R85, R102) -/

theorem State.expireEntries_eq (s : State) (v : Fin 24) (n : FrameNo) : s.expireEntries v n = s.setVenue v { s.venue v with
    recovery := (s.venue v).recovery.filter fun e => decide (e.frame ≠ n)
    health := ((s.reports v (((s.venue v).recovery.filter fun e => decide (e.frame = n)).map fun e =>
      e.report .unrecovered)).venue v).health } := by
  have keep : (fun e : RecoveryEntry => e.frame != n) = fun e => decide (e.frame ≠ n) := funext fun e => by
    by_cases h : e.frame = n <;> simp [h]
  have gone : (fun e : RecoveryEntry => e.frame == n) = fun e => decide (e.frame = n) := funext fun e => by
    by_cases h : e.frame = n <;> simp [h]
  rw [State.expireEntries, keep, gone, State.modVenue_eq]
  conv => lhs; rw [State.reports_setVenue]
  rw [State.setVenue_setVenue, State.setVenue_venue, State.reports_venue]

/-- What reports make of a venue depends on the venue and the block count alone. -/
theorem State.reports_venue_congr {s u : State} {v : Fin 24} (venue : u.venue v = s.venue v)
    (count : u.blockCount = s.blockCount) (rs : List Report) : (u.reports v rs).venue v = (s.reports v rs).venue v := by
  induction rs generalizing s u with
  | nil => exact venue
  | cons r rs ih =>
    have reported : (u.report v r).venue v = (s.report v r).venue v := by
      rw [State.report_eq, State.report_eq, State.setVenue_venue, State.setVenue_venue, venue, count]
    exact ih reported count

/-- `t` is `s` but for its circuits. -/
def State.CircuitsTo (s t : State) : Prop := t = { s with circuits := t.circuits }

theorem State.CircuitsTo.refl (s : State) : s.CircuitsTo s := rfl

theorem State.CircuitsTo.trans {s t u : State} (h : s.CircuitsTo t) (g : t.CircuitsTo u) : s.CircuitsTo u := by
  unfold State.CircuitsTo at *
  rw [g, h]

theorem State.CircuitsTo.modCircuits {s t : State} (h : s.CircuitsTo t) (cs : List (Fin 128)) (f : Circuit → Circuit) :
    s.CircuitsTo (t.modCircuits cs f) := h.trans (by unfold State.CircuitsTo; rw [State.modCircuits_eq])

/-- R85: a frame advance changes the circuits of the list, the queue and the health record. -/
theorem State.frameAdvance_eq (s : State) (v : Fin 24) (left entered : FrameNo) : s.frameAdvance v left entered =
    { s.setVenue v { s.venue v with
        recovery := (s.venue v).recovery.filter fun e => decide (e.frame ≠ entered)
        health := ((s.reports v (((s.venue v).recovery.filter fun e => decide (e.frame = entered)).map fun e =>
          e.report .unrecovered)).venue v).health } with circuits := (s.frameAdvance v left entered).circuits } := by
  have shape := ((State.CircuitsTo.refl s).modCircuits (s.venue v).circuits fun x => x.consume left).modCircuits
    (s.venue v).circuits fun x => x.enter entered
  unfold State.frameAdvance
  dsimp only
  generalize ((s.modCircuits (s.venue v).circuits fun x => x.consume left).modCircuits (s.venue v).circuits fun x =>
    x.enter entered) = u at *
  have venue : u.venue v = s.venue v := by rw [shape]; rfl
  have count : u.blockCount = s.blockCount := by rw [shape]; rfl
  rw [State.expireEntries_eq, venue, State.reports_venue_congr venue count]
  conv => lhs; rw [shape]
  rfl

theorem Circuit.consume_eq (x : Circuit) (n : FrameNo) : x.consume n = { x with
    cells := if x.held n = none then x.cells else x.cells.filter fun y => decide (y.index ≠ n.toNat % x.window) } := by
  have keep : (fun y : Cell => y.index != x.cellIndex n) = fun y => decide (y.index ≠ n.toNat % x.window) := funext fun y => by
    by_cases h : y.index = n.toNat % x.window <;> simp [h, Circuit.cellIndex]
  rw [Circuit.consume, Circuit.present]
  cases x.held n with
  | none => rfl
  | some y => simp only [Option.isSome_some, if_true, reduceCtorEq, if_false, emptyCell, keep]

/-! ### The judgement at a frame entry (R24, R25) -/

theorem Circuit.enter_of_idle {x : Circuit} (h : x.state = .free ∨ x.state = .lost) (n : FrameNo) : x.enter n = x := by
  unfold Circuit.enter
  split <;> rcases h with h | h <;> simp only [h]

theorem Circuit.enter_of_held {x : Circuit} {n : FrameNo} {cell : Cell} (held : x.held n = some cell)
    (live : x.state = .armed ∨ x.state = .running ∨ x.state = .concealing ∨ x.state = .closing) : x.enter n = { x with
      state := if x.state = .closing then .closing else .running
      hold := if x.state = .concealing then x.holdInit else x.hold
      lastPresent := some n
      conceal := if x.kind = .crowd then cell.chans ++ x.conceal.drop cell.chans.length else x.conceal } := by
  rcases live with h | h | h | h <;> simp [Circuit.enter, held, h]

theorem Circuit.enter_of_missing {x : Circuit} {n : FrameNo} (held : x.held n = none) : x.enter n = { x with
    state := if x.state = .running then .concealing else x.state
    concealed := if x.state = .running ∨ x.state = .concealing then min 65535 (x.concealed + 1) else x.concealed } := by
  cases h : x.state
  case running | concealing => simp [Circuit.enter, held, h, satInc]
  all_goals
    have same : x.enter n = x := by simp only [Circuit.enter, held, h]
    cases x
    cases h
    rw [same]
    rfl

/-! ### One sample of a circuit (R113 to R118) -/

theorem sampleOf_of_get {chans : List FrameSamples} {ch k : Nat} {xs : FrameSamples} (h : chans[ch]? = some xs) (hk : k < 96) :
    sampleOf chans ch k = (xs[k]).toInt := by
  simp only [sampleOf, h]
  exact dif_pos hk

theorem Circuit.drawn_of_draws {x : Circuit} {ch k : Nat} {n : FrameNo} {a : Int} (h : x.Draws ch n k a) :
    x.drawn n ch k = a := by
  rcases h with ⟨cell, xs, hk, held, chan, rfl⟩ | ⟨held, silent, rfl⟩ | ⟨held, crowd, last, xs, d, hk, played, depth, chan, rfl⟩
  · simp only [Circuit.drawn, held]
    exact sampleOf_of_get chan hk
  · simp only [Circuit.drawn, held, Circuit.concealment]
    rcases silent with other | never
    · cases hkind : x.kind
      case crowd => exact absurd hkind other
      all_goals rfl
    · cases x.kind <;> simp [never]
  · simp only [Circuit.drawn, held, Circuit.concealment, crowd, played, depth, sampleOf_of_get chan hk]
    by_cases shallow : d ≤ 23
    · have le : (min 24 (d : Int)) ≤ 23 := by omega
      have value : (min 24 (d : Int)).toNat = d := by omega
      rw [if_pos le, if_pos shallow, value, Int.shiftRight_eq_div_pow]
      norm_cast
    · rw [if_neg (by omega), if_neg shallow]

theorem shiftRight_eq_div (y : Int) (n : Nat) : y >>> (n : Int) = y / 2 ^ n := by
  rw [Int.shiftRight_natCast_right, Int.shiftRight_eq_div_pow]
  norm_cast

/-- R113, R115, R117, R118: the sample played between two venue samples. -/
theorem Circuit.play_of_drawn {x : Circuit} {ph : Phase} {ch level : Nat} {a b fine y : Int}
    (plays : (x.state = .running ∨ x.state = .concealing) ∧ level = x.level ∨
      x.state = .closing ∧ level = x.level * x.fade / x.fadeLength)
    (ha : x.drawn ph.nr ch ph.k = a) (hb : x.drawnNext ph.nr ch ph.k = b) (hfine : fine = ((ph.f.toNat / 65536 : Nat) : Int))
    (hy : y = a + ((b - a) * fine + 32768) / 65536) :
    x.play ph ch = BitVec.ofInt 24 (max (-8388608) (min 8388607 ((y * level + 2048) / 4096))) := by
  have level' : x.playLevel = some level := by
    rcases plays with ⟨hs | hs, rfl⟩ | ⟨hs, rfl⟩ <;> simp [Circuit.playLevel, hs]
  have fine' : ph.fineness = fine := by
    rw [hfine, Phase.fineness]
    norm_cast
  have point : interpolate a b fine = y := by
    rw [hy]
    exact congrArg (a + ·) (shiftRight_eq_div ((b - a) * fine + 32768) 16)
  simp only [Circuit.play, level', ha, hb, fine', point]
  exact congrArg saturate (shiftRight_eq_div (y * level + 2048) 12)

theorem Circuit.play_of_silent {x : Circuit} (h : x.state = .free ∨ x.state = .armed ∨ x.state = .lost) (ph : Phase)
    (ch : Nat) : x.play ph ch = 0 := by
  rcases h with h | h | h <;> simp [Circuit.play, Circuit.playLevel, h]

/-- R114: within a frame, the next venue sample is the next one of the same frame. -/
theorem Circuit.drawnNext_of_inside {x : Circuit} {ch k : Nat} {n : FrameNo} {b : Int} (hk : k < 95)
    (h : x.Draws ch n (k + 1) b) : x.drawnNext n ch k = b := by
  rw [Circuit.drawnNext, if_neg (by omega), Circuit.drawn_of_draws h]

/-! ### One sample of a lane (R139) -/

theorem saturate_toInt_of_sample (x : Sample) : (saturate x.toInt) = x := by
  have lo : -8388608 ≤ x.toInt := BitVec.le_toInt x
  have hi : x.toInt < 8388608 := BitVec.toInt_lt
  rw [saturate, clampInt, min_eq_right (by omega), max_eq_right lo, BitVec.ofInt_toInt]

/-- Settles O50. -/
theorem judgementsAndSamples : Obligations.JudgementsAndSamples := by
  refine ⟨fun s t v ph ph' gone ve hp hph' ht hgone hve => ⟨fun same => ?_, fun other nodup => ?_⟩,
    fun x n idle => Circuit.enter_of_idle idle n, fun x n cell held live => Circuit.enter_of_held held live,
    fun x n missing => Circuit.enter_of_missing missing, fun x ph ch silent => Circuit.play_of_silent silent ph ch,
    fun x ph ch level cell xs a b fine y hk plays held chan ha hb hfine hy => ?_,
    fun x ph ch last xs d a b fine y hk plays missing crowd played depth chan ha hb hfine hy => ?_,
    fun l ret j c hc => ⟨fun n held => ?_, fun idle => ?_⟩⟩
  · rw [ht, State.advanceStep_of_phase hp, ← hph', if_pos same, hve]
    rfl
  · have step := State.advanceStep_of_phase hp
    rw [← hph', if_neg other, ← ht] at step
    have whole := State.frameAdvance_eq (s.withPhase v ph') v ph.nr ph'.nr
    have mem := fun d hd => State.frameAdvance_circuit_of_mem (s.withPhase v ph') v ph.nr ph'.nr (d := d)
      (by rw [s.withPhase_venue]; exact nodup) hd
    have notMem := fun d hd => State.frameAdvance_circuit_of_notMem (s.withPhase v ph') v ph.nr ph'.nr (d := d) hd
    rw [← step] at whole mem notMem
    have venue := s.withPhase_venue v ph'
    have advanced : s.withPhase v ph' = s.setVenue v ve := by rw [hve]; rfl
    have health : ((s.withPhase v ph').venue v).health = (s.venue v).health := by rw [venue]
    have count : (s.withPhase v ph').blockCount = s.blockCount := rfl
    have circuit : ∀ d, (s.withPhase v ph').circuit d = s.circuit d := fun _ => rfl
    have queue : ((s.withPhase v ph').venue v).recovery = (s.venue v).recovery := by rw [venue]
    have list : ((s.withPhase v ph').venue v).circuits = (s.venue v).circuits := by rw [venue]
    rw [← hve] at venue
    rw [queue, ← hgone, venue, advanced, State.setVenue_setVenue] at whole
    rw [list] at mem notMem
    have kinds : ∀ r ∈ gone.map (fun e => e.report .unrecovered), r.kind = .unrecovered := fun r hr => by
      obtain ⟨e, _, rfl⟩ := List.mem_map.1 hr
      rfl
    rw [← advanced] at whole
    refine ⟨_, whole, fun c => ?_, fun le => ?_, fun k hk => ?_, fun e rest he empty on => ?_, fun old held => ?_, fun none' => ?_⟩
    · split
      · next hc => rw [mem c hc, circuit, Circuit.consume_eq]
      · next hc => rw [notMem c hc, circuit]
    · rw [State.reports_counter (hr := kinds) (h := by rw [health]; exact le), health, List.length_map]
    · rw [State.reports_counter_of_ne (hr := fun r hr => by rw [kinds r hr]; exact hk.symm), health]
    · rw [he]
      exact State.reports_capture_first (r := e.report .unrecovered) (rs := rest.map fun e => e.report .unrecovered)
        (h := by rw [health]; exact empty) (he := by rw [health]; exact on)
    · exact State.reports_capture_of_some (rs := gone.map fun e => e.report .unrecovered) (h := by rw [health]; exact held)
    · rw [none']
      exact health
  · exact Circuit.play_of_drawn plays (Circuit.drawn_of_draws (.inl ⟨cell, xs, by omega, held, chan, ha⟩))
      (Circuit.drawnNext_of_inside hk (.inl ⟨cell, xs, by omega, held, chan, hb⟩)) hfine hy
  · exact Circuit.play_of_drawn (.inl ⟨plays, rfl⟩)
      (Circuit.drawn_of_draws (.inr (.inr ⟨missing, crowd, last, xs, d, by omega, played, depth, chan, ha⟩)))
      (Circuit.drawnNext_of_inside hk (.inr (.inr ⟨missing, crowd, last, xs, d, by omega, played, depth, chan, hb⟩))) hfine hy
  · have clean : l.clean ret j = c := by rw [hc]; rfl
    have duck : c >>> l.duck = c / 2 ^ l.duck := by rw [Int.shiftRight_eq_div_pow]; norm_cast
    simp only [Lane.audio, held, clean, duck]
    rfl
  · have clean : l.clean ret j = c := by rw [hc]; rfl
    have audio : l.audio ret j = saturate c := by
      rw [← clean]
      unfold Lane.audio
      split
      · next n held => exact absurd held (idle n)
      · rfl
      · rfl
    rw [audio, hc]
    cases l.cleanSlot with
    | none => rfl
    | some i => exact congrArg BitVec.toInt (saturate_toInt_of_sample _)

end Sys2Proof.Machine
end

section
/-! PROOFS. The read-phase advance of a venue step, and the samples it stages (sections 5.4 and 7.1, R82 to R85, R119). -/

namespace Sys2Proof.Machine

/-! ### What the advance leaves of circuits and venues -/

/-- What the advance of a venue step may make of a circuit: its judgement and its window follow, its settings, its fade
and its place stay. -/
structure Circuit.Played (x y : Circuit) : Prop where
  kept : y = { x with
    state := y.state, hold := y.hold, lastPresent := y.lastPresent, conceal := y.conceal, concealed := y.concealed
    cells := y.cells }
  closing : y.state = .closing ↔ x.state = .closing
  free : y.state = .free ↔ x.state = .free

theorem Circuit.Played.refl (x : Circuit) : x.Played x := ⟨rfl, Iff.rfl, Iff.rfl⟩

theorem Circuit.Played.trans {x y z : Circuit} (h : x.Played y) (g : y.Played z) : x.Played z where
  kept := by rw [g.kept, h.kept]
  closing := g.closing.trans h.closing
  free := g.free.trans h.free

theorem Circuit.played_consume (x : Circuit) (n : FrameNo) : x.Played (x.consume n) := by
  rw [Circuit.consume_eq]
  exact ⟨rfl, Iff.rfl, Iff.rfl⟩

theorem Circuit.played_enter (x : Circuit) (n : FrameNo) : x.Played (x.enter n) := by
  cases held : x.held n with
  | none =>
    rw [Circuit.enter_of_missing held]
    refine ⟨rfl, ?_, ?_⟩ <;> cases x.state <;> simp
  | some cell =>
    by_cases idle : x.state = .free ∨ x.state = .lost
    · rw [Circuit.enter_of_idle idle]
      exact .refl x
    · have live : x.state = .armed ∨ x.state = .running ∨ x.state = .concealing ∨ x.state = .closing := by
        cases h : x.state <;> simp_all
      rw [Circuit.enter_of_held held live]
      refine ⟨rfl, ?_, ?_⟩ <;> rcases live with h | h | h | h <;> simp [h]

theorem Circuit.Played.fields {x y : Circuit} (h : x.Played y) : y.venue = x.venue ∧ y.tag = x.tag ∧
    y.channels = x.channels ∧ y.level = x.level ∧ y.fadeLength = x.fadeLength ∧ y.fade = x.fade := by
  rw [h.kept]
  exact ⟨rfl, rfl, rfl, rfl, rfl, rfl⟩

/-- `t` is `s` after some advances of venue `v`: its read phase, its queue, its health record and its circuits follow. -/
structure State.Advances (s t : State) (v : Fin 24) : Prop where
  venue : t.venue v = { s.venue v with
    timebase := { (s.venue v).timebase with phase := (t.venue v).timebase.phase }
    recovery := (t.venue v).recovery, health := (t.venue v).health }
  others : ∀ w, w ≠ v → t.venue w = s.venue w
  circuit : ∀ d, (s.circuit d).Played (t.circuit d)
  unlisted : ∀ d, d ∉ (s.venue v).circuits → t.circuit d = s.circuit d
  rest : t = { s with venues := t.venues, circuits := t.circuits }

section Advance

variable {s t u : State} {v : Fin 24}

theorem State.Advances.refl (s : State) (v : Fin 24) : s.Advances s v :=
  ⟨rfl, fun _ _ => rfl, fun _ => .refl _, fun _ _ => rfl, rfl⟩

theorem State.Advances.list (h : s.Advances t v) : (t.venue v).circuits = (s.venue v).circuits := by rw [h.venue]

theorem State.Advances.rate (h : s.Advances t v) : (t.venue v).timebase.rhoEff = (s.venue v).timebase.rhoEff := by
  rw [h.venue]

theorem State.Advances.trans (h : s.Advances t v) (g : t.Advances u v) : s.Advances u v where
  venue := by rw [g.venue, h.venue]
  others w hw := (g.others w hw).trans (h.others w hw)
  circuit d := (h.circuit d).trans (g.circuit d)
  unlisted d hd := (g.unlisted d (h.list ▸ hd)).trans (h.unlisted d hd)
  rest := by rw [g.rest, h.rest]

theorem State.withPhase_advances (s : State) (v : Fin 24) (ph : Phase) : s.Advances (s.withPhase v ph) v where
  venue := by rw [State.withPhase_venue]
  others _ hw := s.withPhase_venue_of_ne ph hw
  circuit _ := .refl _
  unlisted _ _ := rfl
  rest := rfl

theorem State.modCircuits_played (s : State) (cs : List (Fin 128)) {f : Circuit → Circuit} (hf : ∀ x : Circuit, x.Played (f x))
    (d : Fin 128) : (s.circuit d).Played ((s.modCircuits cs f).circuit d) :=
  State.modCircuits_circuit_induct (P := (s.circuit d).Played) (hf := fun x h => h.trans (hf x)) (c := d) (h := .refl _) ..

theorem State.frameAdvance_advances (s : State) (v : Fin 24) (l e : FrameNo) : s.Advances (s.frameAdvance v l e) v where
  venue := by rw [State.frameAdvance_venue]
  others _ hw := s.frameAdvance_venue_of_ne l e hw
  circuit d := by
    simp only [State.frameAdvance, State.expireEntries_circuit]
    exact (State.modCircuits_played s _ (fun x => x.played_consume l) d).trans
      (State.modCircuits_played _ _ (fun x => x.played_enter e) d)
  unlisted _ hd := s.frameAdvance_circuit_of_notMem v l e hd
  rest := by rw [State.frameAdvance_eq]; rfl

theorem State.advanceStep_advances (s : State) (v : Fin 24) : s.Advances (s.advanceStep v) v := by
  cases hp : (s.venue v).timebase.phase with
  | none =>
    have idle : s.advanceStep v = s := by simp only [State.advanceStep, hp]
    rw [idle]
    exact .refl s v
  | some ph =>
    rw [State.advanceStep_of_phase hp]
    split
    · exact s.withPhase_advances v _
    · exact (s.withPhase_advances v _).trans (State.frameAdvance_advances _ v _ _)

theorem State.advanceStep_phase {ph : Phase} (hp : (s.venue v).timebase.phase = some ph) :
    ((s.advanceStep v).venue v).timebase.phase = some (ph.step (s.venue v).timebase.rhoEff) := by
  rw [State.advanceStep_of_phase hp]
  split
  · rw [State.withPhase_venue]
  · rw [State.frameAdvance_venue, State.withPhase_venue]

/-! ### The 48 advances of a step -/

/-- `n` advances of a venue. -/
@[irreducible] def State.advanced (s : State) (v : Fin 24) (n : Nat) : State := (fun t : State => t.advanceStep v)^[n] s

theorem State.advanced_zero (s : State) (v : Fin 24) : s.advanced v 0 = s := by
  unfold State.advanced
  rfl

theorem State.advanced_succ (s : State) (v : Fin 24) (n : Nat) :
    s.advanced v (n + 1) = (s.advanced v n).advanceStep v := by
  unfold State.advanced
  exact Function.iterate_succ_apply' _ n s

theorem State.advanced_advanceStep (s : State) (v : Fin 24) (n : Nat) :
    (s.advanceStep v).advanced v n = s.advanced v (n + 1) := by
  unfold State.advanced
  rfl

theorem State.advanced_advances (s : State) (v : Fin 24) (n : Nat) : s.Advances (s.advanced v n) v := by
  induction n with
  | zero =>
    rw [State.advanced_zero]
    exact .refl s v
  | succ n ih =>
    rw [State.advanced_succ]
    exact ih.trans (State.advanceStep_advances _ v)

theorem State.advanced_phase {ph : Phase} (hp : (s.venue v).timebase.phase = some ph) (n : Nat) :
    ((s.advanced v n).venue v).timebase.phase = some ((fun y : Phase => y.step (s.venue v).timebase.rhoEff)^[n] ph) := by
  induction n with
  | zero =>
    rw [State.advanced_zero]
    exact hp
  | succ n ih =>
    rw [State.advanced_succ, State.advanceStep_phase ih, (s.advanced_advances v n).rate, Function.iterate_succ_apply']

theorem State.playSteps_state (v : Fin 24) (n : Nat) (s : State) : (State.playSteps v n s).1 = s.advanced v n := by
  induction n generalizing s with
  | zero => rw [State.advanced_zero]; rfl
  | succ n ih =>
    rw [← State.advanced_advanceStep, ← ih]
    rfl

theorem State.playSteps_row (v : Fin 24) {n j : Nat} (hj : j < n) (s : State) :
    (State.playSteps v n s).2[j]? = some ((s.advanced v j).playRow v) := by
  induction n generalizing s j with
  | zero => exact absurd hj (Nat.not_lt_zero j)
  | succ n ih =>
    cases j with
    | zero => rw [State.advanced_zero]; rfl
    | succ j =>
      rw [← State.advanced_advanceStep]
      exact ih (Nat.lt_of_succ_lt_succ hj) (s.advanceStep v)

/-! ### The samples staged (R84, R119) -/

/-- A row of the step holds the sample that the circuit's channel plays. -/
theorem State.playRow_sample {ph : Phase} (hp : (s.venue v).timebase.phase = some ph) {c : Fin 128}
    (listed : c ∈ (s.venue v).circuits) {ch : Nat} (hch : ch < (s.circuit c).channels) :
    PlayRow.sample (s.playRow v) c ch = (s.circuit c).play ph ch := by
  have found : (s.playRow v).find? (fun r => r.1 == c) =
      some (c, (List.range (s.circuit c).channels).map fun ch => (s.circuit c).play ph ch) := by
    simp only [State.playRow, hp, List.find?_map, Function.comp_def]
    have first : (s.venue v).circuits.find? (fun d => d == c) = some c := by
      cases h : (s.venue v).circuits.find? (fun d => d == c) with
      | none => exact absurd (beq_self_eq_true c) (List.find?_eq_none.1 h c listed)
      | some d =>
        have same : (d == c) = true := List.find?_some (p := fun d => d == c) h
        rw [beq_iff_eq.1 same]
    rw [first]
    rfl
  rw [PlayRow.sample, found]
  simp [hch]

theorem State.blockOf_playSteps {ph : Phase} (hp : (s.venue v).timebase.phase = some ph) {c : Fin 128}
    (listed : c ∈ (s.venue v).circuits) {ch : Nat} (hch : ch < (s.circuit c).channels) :
    blockOf (State.playSteps v 48 s).2 c ch = Vector.ofFn fun j : Fin 48 => ((s.advanced v j.val).circuit c).play
      ((fun z : Phase => z.step (s.venue v).timebase.rhoEff)^[j.val] ph) ch := by
  refine congrArg Vector.ofFn (funext fun j => ?_)
  have advances := s.advanced_advances v j.val
  have channels : ((s.advanced v j.val).circuit c).channels = (s.circuit c).channels := (advances.circuit c).fields.2.2.1
  rw [State.playSteps_row v j.isLt, Option.getD_some,
    State.playRow_sample (State.advanced_phase hp j.val) (advances.list.symm ▸ listed) (channels ▸ hch)]

end Advance

end Sys2Proof.Machine
end

section
/-! PROOFS. The fades of a venue step (sections 2.4.3 and 7.5, R29, R39, R118, R128). -/

namespace Sys2Proof.Machine

/-- R29: the fade of a circuit ends with this block. -/
def Circuit.fadeEnds (x : Circuit) : Bool := decide (x.state = .closing) && decide (x.fade ≤ 1)

theorem Circuit.fadeEnds_iff (x : Circuit) : x.fadeEnds = true ↔ x.state = .closing ∧ x.fade ≤ 1 := by
  rw [Circuit.fadeEnds, Bool.and_eq_true, decide_eq_true_eq, decide_eq_true_eq]

/-- R29: what a block played makes of a circuit: a fade one block further, or at its end the record FREE. -/
def Circuit.faded (x : Circuit) : Circuit :=
  if x.state = .closing then if x.fade ≤ 1 then Circuit.free else { x with fade := x.fade - 1 } else x

theorem Circuit.faded_of_ends {x : Circuit} (h : x.fadeEnds = true) : x.faded = Circuit.free := by
  obtain ⟨closing, last⟩ := x.fadeEnds_iff.1 h
  rw [Circuit.faded, if_pos closing, if_pos last]

theorem Circuit.faded_of_lasts {x : Circuit} (h : x.fadeEnds = false) :
    x.faded = if x.state = .closing then { x with fade := x.fade - 1 } else x := by
  rw [Circuit.faded]
  split
  · next closing =>
    rw [if_neg]
    intro last
    rw [x.fadeEnds_iff.2 ⟨closing, last⟩] at h
    exact Bool.true_eq_false.mp h
  · rfl

/-- The circuits of a list whose fade ends. -/
def State.ending (s : State) (cs : List (Fin 128)) : List (Fin 128) := cs.filter fun c => (s.circuit c).fadeEnds

theorem State.mem_ending {s : State} {cs : List (Fin 128)} {c : Fin 128} :
    c ∈ s.ending cs ↔ c ∈ cs ∧ (s.circuit c).fadeEnds = true := List.mem_filter

/-- R29, R128: `t` is `s` after the fades of the circuits `cs` of venue `v` went one block further. -/
structure State.Fades (s t : State) (v : Fin 24) (cs : List (Fin 128)) : Prop where
  circuit : ∀ d, t.circuit d = if d ∈ cs then (s.circuit d).faded else s.circuit d
  others : ∀ w, w ≠ v → t.venue w = s.venue w
  list : (t.venue v).circuits = (s.venue v).circuits.filter fun d => decide (d ∉ s.ending cs)
  state : (t.venue v).circuits ≠ [] → (t.venue v).state = (s.venue v).state
  still : s.ending cs = [] → t.venue v = s.venue v
  dropped : ∀ i, (s.slot i).Dropped (s.ending cs) (t.slot i)
  waits : ∀ i, ((∃ x, (s.slot i).source = some x ∧ x.circuit ∈ s.ending cs) ∨ (s.slot i).fellBack = (s.slot i).source) →
    (t.slot i).fellBack = (t.slot i).source

section Fades

variable {s t u : State} {v : Fin 24} {c : Fin 128}

theorem State.Fades.refl (s : State) (v : Fin 24) : s.Fades s v [] where
  circuit _ := rfl
  others _ _ := rfl
  list := by simp [State.ending]
  state _ := rfl
  still _ := rfl
  dropped _ := .nil _
  waits _ h := by
    rcases h with ⟨x, _, hx⟩ | h
    · exact absurd hx List.not_mem_nil
    · exact h

/-- The rest of the list fades, its circuits as they were. -/
theorem State.Fades.ending_rest {cs : List (Fin 128)} (h : s.Fades t v [c]) (hc : c ∉ cs) : t.ending cs = s.ending cs :=
  List.filter_congr fun d hd => by
    have other : d ∉ [c] := fun e => hc (by rw [← List.mem_singleton.1 e]; exact hd)
    rw [h.circuit, if_neg other]

theorem State.ending_cons (s : State) (c : Fin 128) (cs : List (Fin 128)) :
    s.ending (c :: cs) = s.ending [c] ++ s.ending cs := List.filter_append [c] cs

theorem State.Fades.cons {cs : List (Fin 128)} (h : s.Fades t v [c]) (g : t.Fades u v cs) (hc : c ∉ cs) :
    s.Fades u v (c :: cs) := by
  have rest := h.ending_rest hc
  have whole := s.ending_cons c cs
  refine ⟨fun d => ?_, fun w hw => (g.others w hw).trans (h.others w hw), ?_, fun some' => ?_, fun none' => ?_, fun i => ?_,
    fun i source => g.waits i ?_⟩
  · rw [g.circuit, h.circuit]
    by_cases hd : d = c
    · subst hd
      rw [if_neg hc, if_pos (List.mem_singleton.2 rfl), if_pos List.mem_cons_self]
    · rw [if_neg (mt List.mem_singleton.1 hd)]
      exact if_congr (by simp [hd]) rfl rfl
  · rw [g.list, h.list, List.filter_filter, rest, whole]
    exact List.filter_congr fun d _ => by simp [Bool.and_comm]
  · have before : (t.venue v).circuits ≠ [] := fun e => some' (by rw [g.list, e]; rfl)
    rw [g.state some', h.state before]
  · rw [whole, List.append_eq_nil_iff] at none'
    rw [g.still (rest.trans none'.2), h.still none'.1]
  · rw [whole, ← rest]
    exact (h.dropped i).trans (g.dropped i)
  · rcases source with ⟨x, hx, ends⟩ | same
    · rw [whole, List.mem_append] at ends
      by_cases first : x.circuit ∈ s.ending [c]
      · exact .inr (h.waits i (.inl ⟨x, hx, first⟩))
      · refine .inl ⟨x, ?_, rest.symm ▸ ends.resolve_left first⟩
        rw [((h.dropped i).2.1 fun z hz => by rw [hx] at hz; cases hz; exact first).1, hx]
    · exact .inr (h.waits i (.inr same))

/-! ### One circuit (R29, R39) -/

theorem State.fadeStep_of_ne (h : (s.circuit c).state ≠ .closing) : s.fadeStep c = s := if_neg h

theorem State.fadeStep_of_lasts (closing : (s.circuit c).state = .closing) (h : ¬ (s.circuit c).fade ≤ 1) :
    s.fadeStep c = s.setCircuit c { s.circuit c with fade := (s.circuit c).fade - 1 } := by
  rw [State.fadeStep, if_pos closing]
  exact if_neg h

theorem State.fadeStep_of_ends (closing : (s.circuit c).state = .closing) (h : (s.circuit c).fade ≤ 1) :
    s.fadeStep c =
      ((s.setCircuit c { s.circuit c with fade := (s.circuit c).fade - 1 }).freeCircuit c).waitNext s c := by
  rw [State.fadeStep, if_pos closing]
  exact if_pos h

/-- No fade ends: the step leaves slots and venues. -/
theorem State.setCircuit_fades {x : Circuit} (lasts : (s.circuit c).fadeEnds = false) (hx : x = (s.circuit c).faded) :
    s.Fades (s.setCircuit c x) v [c] := by
  have none' : s.ending [c] = [] := by simp [State.ending, lasts]
  refine ⟨fun d => ?_, fun _ _ => rfl, ?_, fun _ => rfl, fun _ => rfl, fun i => ?_, fun i h => ?_⟩
  · rw [State.setCircuit_circuit_eq_ite, hx]
    by_cases hd : d = c <;> simp [hd]
  · rw [none']
    simp
  · rw [none']
    exact .nil _
  · rw [none'] at h
    rcases h with ⟨x, _, hx⟩ | h
    · exact absurd hx List.not_mem_nil
    · exact h

/-- R39, R128: a slot that the freed circuit did not feed, and whose source fell back, waits still. -/
theorem Slot.dropCircuit_waits {sl : Slot} (h : sl.names c = false) (same : sl.fellBack = sl.source) :
    (sl.dropCircuit c).fellBack = (sl.dropCircuit c).source := by
  rw [Slot.dropCircuit_eq, h, same]
  cases hs : sl.source with
  | none => rfl
  | some x =>
    rw [Slot.names, hs] at h
    have other : (x.circuit != c) = true := by rw [bne, show (x.circuit == c) = false from h]; rfl
    simp [other]

/-- R29, R39, R12: the fade that ends frees its circuit; what is left of the list keeps its venue seated. -/
theorem State.fadeStep_frees (hl : ListLaw s) (listed : c ∈ (s.venue v).circuits) (closing : (s.circuit c).state = .closing)
    (last : (s.circuit c).fade ≤ 1) : s.Fades (s.fadeStep c) v [c] := by
  have ends : (s.circuit c).fadeEnds = true := (s.circuit c).fadeEnds_iff.2 ⟨closing, last⟩
  have ending : s.ending [c] = [c] := by simp [State.ending, ends]
  have shown : s.fadeStep c = _ := State.fadeStep_of_ends closing last
  have hv : (s.circuit c).venue = some v := ((hl.2.1 v c).1 listed).2
  have circuit : ∀ d, (s.setCircuit c { s.circuit c with fade := (s.circuit c).fade - 1 }).circuit d =
      if d = c then { s.circuit c with fade := (s.circuit c).fade - 1 } else s.circuit d := fun d =>
    State.setCircuit_circuit_eq_ite ..
  have venue : ∀ w, (s.setCircuit c { s.circuit c with fade := (s.circuit c).fade - 1 }).venue w = s.venue w := fun _ => rfl
  have slot : ∀ i, (s.setCircuit c { s.circuit c with fade := (s.circuit c).fade - 1 }).slot i = s.slot i := fun _ => rfl
  generalize s.setCircuit c { s.circuit c with fade := (s.circuit c).fade - 1 } = u at shown circuit venue slot
  have live' : (u.circuit c).state ≠ .free := by rw [circuit, if_pos rfl, closing]; decide
  have hv' : (u.circuit c).venue = some v := by rw [circuit, if_pos rfl]; exact hv
  have law : ListLaw u := hl.congr (fun w => by rw [venue]) (fun w => by rw [venue])
    (fun d => by rw [circuit]; split <;> simp_all) (fun d => by rw [circuit]; split <;> simp_all)
  obtain ⟨frame, away⟩ := State.freeCircuit_rest law live' hv'
  obtain ⟨alone, shared⟩ := State.freeCircuit_of_listed law live' hv'
  have record : (u.freeRecord c).venue v =
      { (u.venue v).dropEntries c with circuits := (u.venue v).circuits.filter fun d => d != c } := by
    rw [State.freeRecord_venue, if_pos ⟨live', hv'⟩]
  have left : ((u.freeCircuit c).venue v).circuits = (s.venue v).circuits.filter fun d => d != c := by
    rw [← venue]
    by_cases only : (u.venue v).circuits = [c] ∧ ((u.venue v).state = .active ∨ (u.venue v).state = .holdover)
    · rw [(alone only.1 only.2).1, State.unseatVenue_venue, record]
    · rw [shared only, record]
  have freed : ∀ i, (u.freeCircuit c).slot i = (s.slot i).dropCircuit c := fun i => by
    have same : (u.freeCircuit c).slot i = (u.freeRecord c).slot i := by rw [frame]; rfl
    rw [same, State.freeRecord_slot, if_pos live', slot]
  rw [shown]
  refine ⟨fun d => ?_, fun w hw => ?_, ?_, fun some' => ?_, fun none' => ?_, fun i => ?_, fun i h => ?_⟩
  · have same : (u.freeCircuit c).circuit d = (u.freeRecord c).circuit d := by rw [frame]; rfl
    rw [State.waitNext_circuit, same, State.freeRecord_circuit, circuit d]
    by_cases hd : d = c
    · rw [if_pos ⟨hd, live'⟩, if_pos (by simp [hd]), hd, Circuit.faded_of_ends ends]
    · rw [if_neg (by simp [hd]), if_neg hd, if_neg (by simp [hd])]
  · rw [State.waitNext_venue, away w hw, venue]
  · rw [State.waitNext_venue, left, ending]
    exact List.filter_congr fun d _ => by by_cases hd : d = c <;> simp [hd]
  · rw [State.waitNext_venue] at some' ⊢
    by_cases only : (u.venue v).circuits = [c] ∧ ((u.venue v).state = .active ∨ (u.venue v).state = .holdover)
    · exact absurd (by rw [left, ← venue, only.1]; simp) some'
    · rw [shared only, record, ← venue]
      rfl
  · rw [ending] at none'
    cases none'
  · rw [ending, State.waitNext_slot, freed]
    have dropped := (s.slot i).dropCircuit_dropped c
    split
    · exact dropped
    · exact dropped
  · rw [ending] at h
    rw [State.waitNext_slot, freed]
    split
    · rfl
    · next other =>
      rcases h with ⟨x, hx, hc⟩ | same
      · refine absurd ?_ other
        simp only [List.mem_singleton] at hc
        simp [Slot.names, hx, hc]
      · exact Slot.dropCircuit_waits (by simpa using other) same

theorem State.fadeStep_fades (hl : ListLaw s) (listed : c ∈ (s.venue v).circuits) : s.Fades (s.fadeStep c) v [c] := by
  by_cases closing : (s.circuit c).state = .closing
  · by_cases last : (s.circuit c).fade ≤ 1
    · exact State.fadeStep_frees hl listed closing last
    · rw [State.fadeStep_of_lasts closing last]
      refine State.setCircuit_fades ?_ ?_
      · rw [Circuit.fadeEnds, decide_eq_false last, Bool.and_false]
      · rw [Circuit.faded, if_pos closing, if_neg last]
  · have same : s.fadeStep c = s.setCircuit c (s.circuit c) := by rw [State.fadeStep_of_ne closing, State.setCircuit_self]
    rw [same]
    refine State.setCircuit_fades ?_ ?_
    · rw [Circuit.fadeEnds, decide_eq_false closing, Bool.false_and]
    · rw [Circuit.faded, if_neg closing]

/-- R29, R128: the fades of a list, one after another. -/
theorem State.fadeSteps_fades {cs : List (Fin 128)} (hl : ListLaw s) (nodup : cs.Nodup)
    (listed : ∀ d ∈ cs, d ∈ (s.venue v).circuits) : s.Fades (cs.foldl State.fadeStep s) v cs := by
  induction cs generalizing s with
  | nil => exact .refl s v
  | cons c cs ih =>
    obtain ⟨hc, nodup⟩ := List.nodup_cons.1 nodup
    have first := State.fadeStep_fades hl (listed c List.mem_cons_self)
    have law : ListLaw (s.fadeStep c) := (Moves.fadeStep s c).keep Move.keeps_listLaw hl
    refine first.cons (ih law nodup fun d hd => ?_) hc
    rw [first.list, List.mem_filter, decide_eq_true_eq]
    refine ⟨listed d (.tail _ hd), fun e => hc ?_⟩
    rw [← List.mem_singleton.1 (State.mem_ending.1 e).1]
    exact hd

/-- A venue without a CLOSING circuit has no fade. -/
theorem State.fadeSteps_of_none {cs : List (Fin 128)} (h : ∀ c ∈ cs, (s.circuit c).state ≠ .closing) :
    cs.foldl State.fadeStep s = s := by
  induction cs with
  | nil => rfl
  | cons c cs ih =>
    rw [List.foldl_cons, State.fadeStep_of_ne (h c List.mem_cons_self)]
    exact ih fun d hd => h d (.tail _ hd)

end Fades

end Sys2Proof.Machine
end

section
/-! PROOFS. The venue step with its staging and its fades, a fade's end and the terminal count (sections 2.4, 2.8, 5.4,
7.1 and 7.2, R26 to R29, R82, R84, R119, R128). -/

namespace Sys2Proof.Machine

/-! ### A slot staged (R119) -/

section Stage

variable (sl : Slot) (cs : List (Fin 128)) (rows : List PlayRow) (b : BlockCount)

theorem Slot.stage_eq : sl.stage cs rows b = { sl with staged := (sl.stage cs rows b).staged } := by
  unfold Slot.stage
  split
  · rfl
  · split <;> rfl

variable {sl cs}

/-- R119, R128: a slot that keeps what it has staged. -/
theorem Slot.stage_of_still (h : sl.muted = true ∨
    ∀ y, sl.source = some y → y.circuit ∉ cs ∨ sl.fellBack = some y) : sl.stage cs rows b = sl := by
  unfold Slot.stage
  split
  · rfl
  · next y hy =>
    refine if_pos ?_
    rcases h with muted | still
    · rw [muted]
      rfl
    · rcases still y hy with away | fell
      · rw [(List.contains_eq_mem ..).trans (decide_eq_false away)]
        simp
      · rw [fell]
        simp

theorem Slot.stage_of_fed {y : SlotSource} (loud : sl.muted = false) (source : sl.source = some y) (fed : y.circuit ∈ cs)
    (other : sl.fellBack ≠ some y) : (sl.stage cs rows b).staged = sl.staged.set (b.toNat % 2)
      (some ⟨b, blockOf rows y.circuit y.channel⟩) (Nat.mod_lt _ (by decide)) := by
  have fell : (sl.fellBack == some y) = false := beq_eq_false_iff_ne.2 other
  have has : cs.contains y.circuit = true := (List.contains_eq_mem ..).trans (decide_eq_true fed)
  simp only [Slot.stage, source, loud, has, fell, Bool.not_true, Bool.or_false, Bool.false_eq_true, if_false]
  rfl

end Stage

/-- R128: what drops from a slot does not depend on what it has staged. -/
theorem Slot.Dropped.of_staged {x y : Slot} {cs : List (Fin 128)} {staged : Vector (Option StagedBlock) 2}
    (h : Slot.Dropped { x with staged := staged } cs y) : x.Dropped cs y := h

/-! ### What a slot shows (R119, R120) -/

/-- Every slot of `t` has the mute flag, the emitting block and the staged blocks that it has in `s`. -/
def State.Shows (s t : State) : Prop := ∀ i, (t.slot i).muted = (s.slot i).muted ∧
  (t.slot i).emitting = (s.slot i).emitting ∧ (t.slot i).staged = (s.slot i).staged

section Shows

variable {s t u : State}

theorem State.Shows.of_slots (h : ∀ i, t.slot i = s.slot i) : s.Shows t := fun i => by
  rw [h]
  exact ⟨rfl, rfl, rfl⟩

theorem State.Shows.trans (h : s.Shows t) (g : t.Shows u) : s.Shows u := fun i => by
  obtain ⟨muted, emitting, staged⟩ := g i
  rw [muted, emitting, staged]
  exact h i

theorem State.shows_foldl {α : Type} {f : State → α → State} (hf : ∀ t a, State.Shows t (f t a)) (l : List α) (s : State) :
    s.Shows (l.foldl f s) := by
  induction l generalizing s with
  | nil => exact .of_slots fun _ => rfl
  | cons a l ih => exact (hf s a).trans (ih _)

theorem State.shows_freeRecord (s : State) (c : Fin 128) : s.Shows (s.freeRecord c) := fun i => by
  rw [State.freeRecord_slot]
  split
  · exact ⟨Slot.dropCircuit_muted _ c, Slot.dropCircuit_emitting _ c, Slot.dropCircuit_staged _ c⟩
  · exact ⟨rfl, rfl, rfl⟩

theorem State.shows_unseat (s : State) (v : Fin 24) : s.Shows (s.unseat v) := by
  have venue : s.Shows (s.unseatVenue v) := .of_slots fun i => by
    rw [State.unseatVenue, State.modVenue_eq, State.setVenue_slot, State.flush_slot, State.modCircuits_slot]
  refine venue.trans (State.shows_foldl (fun t c => ?_) _ _)
  rw [State.unseatCircuit_eq]
  split
  · exact t.shows_freeRecord c
  · exact .of_slots fun _ => rfl

theorem State.shows_freeCircuit (s : State) (c : Fin 128) : s.Shows (s.freeCircuit c) := by
  unfold State.freeCircuit
  dsimp only
  split
  · exact s.shows_freeRecord c
  · split
    · exact (s.shows_freeRecord c).trans (State.shows_unseat _ _)
    · exact s.shows_freeRecord c

theorem State.shows_fadeStep (s : State) (c : Fin 128) : s.Shows (s.fadeStep c) := by
  by_cases closing : (s.circuit c).state = .closing
  · by_cases last : (s.circuit c).fade ≤ 1
    · have faded : s.Shows (s.setCircuit c { s.circuit c with fade := (s.circuit c).fade - 1 }) := .of_slots fun _ => rfl
      rw [State.fadeStep_of_ends closing last]
      refine (faded.trans (State.shows_freeCircuit _ c)).trans fun i => ?_
      rw [State.waitNext_slot]
      split <;> exact ⟨rfl, rfl, rfl⟩
    · rw [State.fadeStep_of_lasts closing last]
      exact .of_slots fun _ => rfl
  · rw [State.fadeStep_of_ne closing]
    exact .of_slots fun _ => rfl

end Shows

/-! ### The first stage of a venue step (R82) -/

/-- R82, R84: the advances of a step and its samples staged, its fades still to come. -/
@[irreducible] def State.staged (s : State) (v : Fin 24) : State :=
  (s.advanced v 48).stageRows (s.venue v).circuits (State.playSteps v 48 s).2

section Step

variable {s : State} {v : Fin 24} {c : Fin 128}

theorem State.stageAdvance_eq (s : State) (v : Fin 24) :
    s.stageAdvance v = (s.venue v).circuits.foldl State.fadeStep (s.staged v) := by
  rw [State.stageAdvance, State.staged, State.playSteps_state]

theorem State.stageRows_venue (cs : List (Fin 128)) (rows : List PlayRow) (w : Fin 24) :
    (s.stageRows cs rows).venue w = s.venue w := rfl

theorem State.stageRows_circuit (cs : List (Fin 128)) (rows : List PlayRow) (d : Fin 128) :
    (s.stageRows cs rows).circuit d = s.circuit d := rfl

theorem State.staged_venue (w : Fin 24) : (s.staged v).venue w = (s.advanced v 48).venue w := by
  rw [State.staged, State.stageRows_venue]

theorem State.staged_circuit (d : Fin 128) : (s.staged v).circuit d = (s.advanced v 48).circuit d := by
  rw [State.staged, State.stageRows_circuit]

theorem State.staged_slot (i : Fin 128) : (s.staged v).slot i =
    (s.slot i).stage (s.venue v).circuits (State.playSteps v 48 s).2 s.reference.blockCount := by
  have rest := (s.advanced_advances v 48).rest
  have slot : (s.advanced v 48).slot i = s.slot i := by rw [rest]; rfl
  have count : (s.advanced v 48).blockCount = s.reference.blockCount := by rw [rest]; rfl
  rw [← slot, ← count]
  simp only [State.staged, State.stageRows, State.slot, Fin.getElem_fin, Vector.getElem_map]

theorem State.advanced_ends (s : State) (v : Fin 24) (n : Nat) (d : Fin 128) :
    ((s.advanced v n).circuit d).fadeEnds = (s.circuit d).fadeEnds := by
  have played := (s.advanced_advances v n).circuit d
  rw [Bool.eq_iff_iff, Circuit.fadeEnds_iff, Circuit.fadeEnds_iff, played.closing, played.fields.2.2.2.2.2]

theorem State.fadesEnding_eq (s : State) (v : Fin 24) : s.fadesEnding v = s.ending (s.venue v).circuits := rfl

theorem State.staged_ending (s : State) (v : Fin 24) : (s.staged v).ending (s.venue v).circuits = s.fadesEnding v :=
  List.filter_congr fun d _ => by
    rw [State.staged_circuit, State.advanced_ends]
    rfl

/-- R29, R82: the fades of a step, on the advances and the samples staged. -/
theorem State.stageAdvance_fades (hl : ListLaw s) : (s.staged v).Fades (s.stageAdvance v) v (s.venue v).circuits := by
  have law : ListLaw (s.staged v) := by
    rw [State.staged, ← State.playSteps_state]
    exact ((Moves.playSteps s v 48).trans (Moves.stageRows _ _ _)).keep Move.keeps_listLaw hl
  have list := (s.advanced_advances v 48).list
  rw [State.stageAdvance_eq]
  exact State.fadeSteps_fades law (hl.1 v) fun d hd => by rw [State.staged_venue, list]; exact hd

theorem State.stageAdvance_shows : (s.staged v).Shows (s.stageAdvance v) := by
  rw [State.stageAdvance_eq]
  exact State.shows_foldl State.shows_fadeStep _ _

/-! ### The whole step -/

/-- R82: the margin sample, the interval update and the scheduler of a step. -/
def Venue.timed (ve : Venue) : Venue := ve.takeMargin.completeInterval.countScheduler

theorem Venue.timed_eq (ve : Venue) : ve.timed = { ve with timebase := ve.timed.timebase } := by
  have margin : ve.takeMargin = { ve with timebase := ve.takeMargin.timebase } := by
    unfold Venue.takeMargin
    split <;> rfl
  have interval : ∀ x : Venue, x.completeInterval = { x with timebase := x.completeInterval.timebase } := fun x => by
    unfold Venue.completeInterval
    split <;> rfl
  have scheduler : ∀ x : Venue, x.countScheduler = { x with timebase := x.countScheduler.timebase } := fun x => by
    unfold Venue.countScheduler
    split <;> rfl
  unfold Venue.timed
  rw [scheduler, interval, margin]

theorem State.venueStep_of_seated (h : (s.venue v).state = .active ∨ (s.venue v).state = .holdover) :
    s.venueStep v = (s.stageAdvance v).setVenue v ((s.stageAdvance v).venue v).timed := if_pos ((Venue.seated_iff _).2 h)

end Step

/-! ### The end of a fade, and terminal count -/

theorem exec_fadeEnd {c : Fin 128} {v : Fin 24} {s : State} (hv : (s.circuit c).venue = some v) :
    exec (.fadeEnd c) s = .next (s.takeDue (.venueStep v) (s.fadeDue c v)) := by
  show Host.Outcome.next _ = _
  rw [hv]

theorem exec_terminalCount (c : Fin 128) (s : State) :
    exec (.terminalCount c) s = .next (s.takeDue (.holdoverCountdown c) (s.terminates c)) := rfl

/-- R29, R82, R128: what a venue step leaves of its circuits, its list and the slots. -/
theorem State.venueStep_fades {s : State} {v : Fin 24} (hl : ListLaw s)
    (seated : (s.venue v).state = .active ∨ (s.venue v).state = .holdover) :
    (∀ d, (s.venueStep v).circuit d = if d ∈ (s.venue v).circuits then ((s.advanced v 48).circuit d).faded
      else s.circuit d) ∧
    ((s.venueStep v).venue v).circuits = (s.venue v).circuits.filter (fun d => decide (d ∉ s.fadesEnding v)) ∧
    (((s.venueStep v).venue v).circuits ≠ [] → ((s.venueStep v).venue v).state = (s.venue v).state) ∧
    (∀ i, (s.slot i).Dropped (s.fadesEnding v) ((s.venueStep v).slot i)) ∧
    ∀ i x, (s.slot i).source = some x → x.circuit ∈ s.fadesEnding v →
      ((s.venueStep v).slot i).fellBack = ((s.venueStep v).slot i).source := by
  have fades := State.stageAdvance_fades (v := v) hl
  have advances := s.advanced_advances v 48
  have ending := s.staged_ending v
  have slot : ∀ i, (s.venueStep v).slot i = (s.stageAdvance v).slot i := fun i => by
    rw [State.venueStep_of_seated seated]; rfl
  have timed : (s.venueStep v).venue v = ((s.stageAdvance v).venue v).timed := by
    rw [State.venueStep_of_seated seated, State.setVenue_venue]
  rw [Venue.timed_eq] at timed
  refine ⟨fun d => ?_, ?_, fun some' => ?_, fun i => ?_, fun i x hx hc => ?_⟩
  · have circuit : (s.venueStep v).circuit d = (s.stageAdvance v).circuit d := by
      rw [State.venueStep_of_seated seated]; rfl
    rw [circuit, fades.circuit, State.staged_circuit]
    split
    · rfl
    · next hd => exact advances.unlisted d hd
  · rw [timed]
    show ((s.stageAdvance v).venue v).circuits = _
    rw [fades.list, ending, State.staged_venue, advances.list]
  · rw [timed] at some' ⊢
    show ((s.stageAdvance v).venue v).state = _
    rw [fades.state some', State.staged_venue, advances.venue]
  · have dropped := fades.dropped i
    rw [ending, State.staged_slot, Slot.stage_eq] at dropped
    rw [slot]
    exact dropped.of_staged
  · rw [slot]
    refine fades.waits i (.inl ⟨x, ?_, ending.symm ▸ hc⟩)
    rw [State.staged_slot, Slot.stage_eq]
    exact hx

theorem Circuit.terminal_eq (x : Circuit) : x.terminal = { x with
    state := if x.autoRearm then .armed else .lost
    hold := if x.autoRearm then x.holdInit else 0
    lossLatched := x.lossLatched || !x.autoRearm
    cells := [], newest := none, lastPresent := none } := by
  unfold Circuit.terminal
  cases x.autoRearm <;> simp

/-- Settles O44. -/
theorem fadeEndAndTerminalCount : Obligations.FadeEndAndTerminalCount := by
  refine ⟨fun s v c due hl seated listed closing last => ?_, fun s ws v c hp due hl seated listed closing more => ?_,
    fun s v c due concealing last hv => ?_⟩
  · have hv : (s.circuit c).venue = some v := ((hl.2.1 v c).1 listed).2
    have ends : c ∈ s.fadesEnding v := by
      rw [State.fadesEnding_eq, State.mem_ending, Circuit.fadeEnds_iff]
      exact ⟨listed, closing, by omega⟩
    have falls : s.fadeDue c v = true := by
      rw [State.fadeDue, (Venue.seated_iff _).2 seated, closing, last, (List.contains_eq_mem ..).trans (decide_eq_true listed)]
      rfl
    have taken := exec_fadeEnd hv
    rw [State.takeDue_of_due due falls] at taken
    obtain ⟨circuit, list, _, dropped, waits⟩ :=
      State.venueStep_fades (s := { s with due := s.due.erase (.venueStep v) }) (v := v) hl seated
    refine ⟨_, taken, ?_, ?_, State.takeWork_due _ (.venueStep v), fun i y hy => ?_, dropped, waits⟩
    · exact ((circuit c).trans (if_pos listed)).trans
        (Circuit.faded_of_ends ((State.advanced_ends _ v 48 c).trans (State.mem_ending.1 ends).2))
    · have gone : c ∉ (({ s with due := s.due.erase (.venueStep v) } : State).venueStep v |>.venue v).circuits := by
        rw [list, List.mem_filter, decide_eq_true_eq]
        exact fun h => h.2 ends
      exact gone
    · have sources := (dropped i).sources
      have mem : y ∈ (({ s with due := s.due.erase (.venueStep v) } : State).venueStep v |>.slot i).sources := hy
      rw [sources, List.mem_filter, decide_eq_true_eq] at mem
      exact fun e => mem.2 (e ▸ ends)
  · have lasts : c ∉ s.fadesEnding v := by
      rw [State.fadesEnding_eq, State.mem_ending, Circuit.fadeEnds_iff]
      exact fun h => absurd h.2.2 (by omega)
    have played := (({ s with due := ws } : State).advanced_advances v 48).circuit c
    have kept : c ∈ (s.venue v).circuits.filter (fun d => decide (d ∉ s.fadesEnding v)) :=
      List.mem_filter.2 ⟨listed, decide_eq_true lasts⟩
    obtain ⟨circuit, list, state, dropped, _⟩ := State.venueStep_fades (s := { s with due := ws }) (v := v) hl seated
    have tc := (circuit c).trans (if_pos listed)
    have list' : ((State.venueStep { s with due := ws } v).venue v).circuits =
      (s.venue v).circuits.filter (fun d => decide (d ∉ s.fadesEnding v)) := list
    have state' := state (by rw [list']; exact List.ne_nil_of_mem kept)
    have taken : step s = .next (State.venueStep { s with due := ws } v) := step_of_due hp due
    have left : (State.venueStep { s with due := ws } v).due = ws := State.takeWork_due _ (.venueStep v)
    generalize State.venueStep { s with due := ws } v = t at *
    generalize State.advanced { s with due := ws } v 48 = a at *
    obtain ⟨venue, tag, _, level, length, fade⟩ := played.fields
    have closing' : (a.circuit c).state = .closing := played.closing.2 closing
    have fade' : (a.circuit c).fade = (s.circuit c).fade := fade
    rw [Circuit.faded, if_pos closing', if_neg (by omega)] at tc
    refine ⟨t, taken, left, ?_, ?_, ?_, ?_, ?_, ?_, list', state', dropped⟩
    · rw [tc]; exact closing'
    · rw [tc, fade']
    · rw [tc]; exact length
    · rw [tc]; exact level
    · rw [tc]; exact venue.trans ((hl.2.1 v c).1 listed).2
    · rw [tc]; exact tag
  · have falls : s.terminates c = true := by
      rw [State.terminates, concealing, last]
      rfl
    rw [exec_terminalCount, State.takeDue_of_due due falls]
    have counted : State.takeWork { s with due := s.due.erase (.holdoverCountdown c) } (.holdoverCountdown c) =
      State.terminalCount { s with due := s.due.erase (.holdoverCountdown c) } c := if_pos falls
    have venue : (State.circuit { s with due := s.due.erase (.holdoverCountdown c) } c).venue = some v := hv
    rw [counted, State.terminalCount, venue, State.modCircuit_eq, Circuit.terminal_eq]
    rfl

end Sys2Proof.Machine
end

section
/-! PROOFS. The venue step's samples: when it is first taken, and what it stages (sections 5.4, 5.6, 7.1 and 7.2). -/

namespace Sys2Proof.Machine

/-! ### A WAITING venue seated by a frame (R3, R82, R91) -/

/-- R3: a frame at a WAITING venue leaves it WAITING, or seats it and is stored. -/
theorem Handed.exec_of_waiting {s : State} {p : Fin 4} {rx : RxFrame} {f : VctIn} {v : Fin 24} {q : PathId}
    (h : Handed s p rx f v q) (waiting : (s.venue v).state = .waiting) :
    (∃ t : State, exec (.frameReceived p rx) s = .next t ∧ (t.venue v).state = .waiting) ∨
    ∃ c, Names s f v c ∧
      ((s.circuit c).state = .armed ∨ (s.circuit c).state = .running ∨ (s.circuit c).state = .concealing) := by
  have venue := s.heard_venue p f v q
  have state : ((s.heard p f v q).venue v).state = .waiting := by
    rw [venue, heardVenue_state, waiting]
    rfl
  have quiet : ∀ {t : State}, Quiet (s.heard p f v q) t → (t.venue v).state = .waiting := fun g =>
    (g.place v).state.trans state
  by_cases audio : f.audio = true
  case neg =>
    have announce : f.audio = false := by simpa using audio
    exact .inl ⟨_, (h.exec_eq).trans (congrArg Host.Outcome.next (State.handOn_of_announce announce v p)),
      quiet (Quiet.announce _ v p f)⟩
  obtain ⟨unknown, known⟩ := h.exec_of_discarded audio fun g => absurd waiting g
  cases tag : s.tagged v f.tag with
  | none => exact .inl ⟨_, unknown tag, quiet (Quiet.report _ v _)⟩
  | some c =>
    obtain ⟨lost, other⟩ := known c tag
    by_cases alive : (s.circuit c).state = .lost
    · exact .inl ⟨_, lost alive, quiet (Quiet.maskFrame _ v c _)⟩
    by_cases same : f.channels = (s.circuit c).channels
    case neg => exact .inl ⟨_, other alive same, quiet (Quiet.report _ v _)⟩
    by_cases suits : (s.circuit c).state = .armed ∨ (s.circuit c).state = .running ∨ (s.circuit c).state = .concealing
    · exact .inr ⟨c, ⟨audio, tag, alive, same⟩, suits⟩
    · have idle : (s.circuit c).state = .free ∨ (s.circuit c).state = .closing := by
        cases hs : (s.circuit c).state <;> simp_all
      refine .inl ⟨s.heard p f v q, ?_, state⟩
      rw [h.exec_eq, State.handOn_of_waiting audio (Venue.seated_eq_false state),
        State.arriveWaiting_of_closing (s := s.heard p f v q) (a := arrivalOf p f)
          ((s.heard_tagged p f v q f.tag).trans tag) same idle]

/-- R71: storing the frame in the window just emptied leaves the works left over. -/
theorem State.Seats.storeFrame_due {s z : State} {v : Fin 24} {c : Fin 128} {n : FrameNo} {again : Bool} {a : Arrival}
    (h : s.Seats z v n again) (listed : c ∈ (s.venue v).circuits) : (z.storeFrame v c a).due = z.due := by
  rw [State.storeFrame_of_plain (.inl (h.emptied c listed).2)
    (fun e he => absurd he (by rw [h.recovery]; exact List.not_mem_nil))]
  rfl

/-- R82, R91: the venue step of the present boundary, if left over, is the seated venue's no more. -/
theorem Handed.due_of_seated {s t : State} {p : Fin 4} {rx : RxFrame} {f : VctIn} {v : Fin 24} {q : PathId}
    (h : Handed s p rx f v q) (waiting : (s.venue v).state = .waiting) (taken : exec (.frameReceived p rx) s = .next t)
    (active : (t.venue v).state = .active) (w : Work) : w ∈ t.due ↔ w ∈ s.due ∧ w ≠ .venueStep v := by
  rcases h.exec_of_waiting waiting with ⟨u, hu, still⟩ | ⟨c, names, suits⟩
  · rw [taken] at hu
    cases hu
    rw [still] at active
    cases active
  · obtain ⟨z, hz, seats⟩ := h.exec_of_seat (first := true) names (.inl ⟨rfl, waiting, suits⟩)
    rw [taken] at hz
    cases hz
    have listed : c ∈ ((s.heard p f v q).venue v).circuits := by
      rw [State.heard_venue, heardVenue_circuits]
      exact State.tagged_listed names.tag
    rw [seats.storeFrame_due listed, seats.due]
    show w ∈ s.due.filter _ ↔ _
    rw [List.mem_filter, bne_iff_ne]

/-! ### The samples staged -/

/-- R119: a venue step leaves what a slot shows, but for the samples staged. -/
theorem State.venueStep_shows {s : State} {v : Fin 24} (seated : (s.venue v).state = .active ∨ (s.venue v).state = .holdover)
    (i : Fin 128) : ((s.venueStep v).slot i).muted = (s.slot i).muted ∧
    ((s.venueStep v).slot i).emitting = (s.slot i).emitting ∧
    ((s.venueStep v).slot i).staged =
      ((s.slot i).stage (s.venue v).circuits (State.playSteps v 48 s).2 s.reference.blockCount).staged := by
  have slot : (s.venueStep v).slot i = (s.stageAdvance v).slot i := by rw [State.venueStep_of_seated seated]; rfl
  have shows := State.stageAdvance_shows (s := s) (v := v) i
  rw [← slot, State.staged_slot, Slot.stage_eq] at shows
  exact shows

/-- R29, R82: a venue step in which no fade ends. -/
theorem State.venueStep_of_lasting {s : State} {v : Fin 24} (hl : ListLaw s)
    (seated : (s.venue v).state = .active ∨ (s.venue v).state = .holdover) (none' : s.fadesEnding v = []) :
    (∀ d, (s.venueStep v).circuit d = if d ∈ (s.venue v).circuits ∧ (s.circuit d).state = .closing
      then { (s.advanced v 48).circuit d with fade := (s.circuit d).fade - 1 } else (s.advanced v 48).circuit d) ∧
    (s.venueStep v).venue v = ((s.advanced v 48).venue v).timed ∧
    ∀ w, w ≠ v → (s.venueStep v).venue w = s.venue w := by
  have fades := State.stageAdvance_fades (v := v) hl
  have advances := s.advanced_advances v 48
  refine ⟨fun d => ?_, ?_, fun w hw => ?_⟩
  · rw [(State.venueStep_fades hl seated).1]
    by_cases hd : d ∈ (s.venue v).circuits
    · have lasts : (s.circuit d).fadeEnds = false := by
        by_contra h
        have mem : d ∈ s.fadesEnding v := State.mem_ending.2 ⟨hd, by simpa using h⟩
        rw [none'] at mem
        exact List.not_mem_nil mem
      have played := advances.circuit d
      rw [if_pos hd, Circuit.faded_of_lasts ((s.advanced_ends v 48 d).trans lasts), played.fields.2.2.2.2.2]
      exact if_congr (by rw [played.closing]; simp [hd]) rfl rfl
    · rw [if_neg hd, if_neg fun h => hd h.1, advances.unlisted d hd]
  · rw [State.venueStep_of_seated seated, State.setVenue_venue, fades.still ((s.staged_ending v).trans none'),
      State.staged_venue]
  · rw [State.venueStep_of_seated seated, State.setVenue_venue_of_ne (h := hw), fades.others w hw, State.staged_venue,
      advances.others w hw]

/-- Settles O43. -/
theorem venueStepStagesSamples : Obligations.VenueStepStagesSamples := by
  refine ⟨fun s t p rx f v q h waiting taken active w => h.due_of_seated waiting taken active w,
    fun s ws v ph at' hp due seated hph start next' => ?_, fun x ph ch level a b fine y plays ha hb hfine hy => ?_⟩
  · have steps : ∀ j, at' j = State.advanced { s with due := ws } v j := fun j => by
      induction j with
      | zero => rw [start, State.advanced_zero]
      | succ j ih => rw [next', ih, State.advanced_succ]
    have shows := State.venueStep_shows (s := { s with due := ws }) (v := v) seated
    refine ⟨_, step_of_due hp due, State.takeWork_due _ (.venueStep v), fun i => ?_, fun hl none' => ?_⟩
    · obtain ⟨muted, emitting, staged⟩ := shows i
      refine ⟨muted, emitting, fun still => ?_, fun y loud source fed other inside => ?_⟩
      · exact staged.trans (congrArg Slot.staged (Slot.stage_of_still _ _ still))
      · have block := State.blockOf_playSteps (s := { s with due := ws }) hph fed inside
        refine staged.trans ((Slot.stage_of_fed _ _ loud source fed other).trans ?_)
        rw [block]
        simp only [steps]
        rfl
    · obtain ⟨circuit, venue, others⟩ := State.venueStep_of_lasting (s := { s with due := ws }) (v := v) hl seated none'
      rw [Venue.timed_eq] at venue
      simp only [steps]
      exact ⟨circuit, (congrArg Venue.recovery venue :), (congrArg Venue.health venue :), others⟩
  · refine Circuit.play_of_drawn plays (Circuit.drawn_of_draws ha) ?_ hfine hy
    rcases hb with ⟨inside, hb⟩ | ⟨last, hb⟩
    · exact Circuit.drawnNext_of_inside inside hb
    · rw [Circuit.drawnNext, if_pos last, Circuit.drawn_of_draws hb]

end Sys2Proof.Machine
end

section
/-! PROOFS. The timebase of a venue step: the advance, the margin sample, the interval update and the scheduler
(sections 5.4 to 5.7, R82 to R88, R94). -/

namespace Sys2Proof.Machine

/-! ### The read phase (R83) -/

theorem Phase.step_k (ph : Phase) (rho : Int) : (ph.step rho).k =
    if 96 ≤ ph.k + (ph.total rho / 4294967296).toNat then ph.k + (ph.total rho / 4294967296).toNat - 96
    else ph.k + (ph.total rho / 4294967296).toNat := by
  unfold Phase.step
  dsimp only
  split <;> rfl

theorem Phase.step_f (ph : Phase) (rho : Int) : (ph.step rho).f = BitVec.ofInt 32 (ph.total rho) := by
  unfold Phase.step
  dsimp only
  split <;> rfl

theorem Phase.step_nr_eq (ph : Phase) (rho : Int) : (ph.step rho).nr =
    if 96 ≤ ph.k + (ph.total rho / 4294967296).toNat then ph.nr + 1 else ph.nr := by
  unfold Phase.step
  dsimp only
  split <;> rfl

/-- R83: one gallery sample on, in parts of a venue sample, with the wrap at the end of a frame. -/
theorem Phase.step_position {ph : Phase} {rho x : Int} (hk : ph.k < 96) (lo : -1073741 ≤ rho) (hi : rho ≤ 1073741)
    (hx : x = ph.k * 4294967296 + ph.f.toNat + 4294967296 + rho) :
    (x < 96 * 4294967296 → (ph.step rho).nr = ph.nr ∧
      ((ph.step rho).k * 4294967296 + (ph.step rho).f.toNat : Int) = x) ∧
    (96 * 4294967296 ≤ x → (ph.step rho).nr = ph.nr + 1 ∧
      ((ph.step rho).k * 4294967296 + (ph.step rho).f.toNat : Int) = x - 96 * 4294967296) := by
  have fraction : ((ph.step rho).f.toNat : Int) = ph.total rho % 4294967296 := by
    rw [Phase.step_f, BitVec.toNat_ofInt]
    exact Int.toNat_of_nonneg (Int.emod_nonneg _ (by decide))
  have total : ph.total rho = ph.f.toNat + 4294967296 + rho := rfl
  have small := ph.f.isLt
  rw [Phase.step_nr_eq, fraction, Phase.step_k]
  refine ⟨fun inside => ?_, fun beyond => ?_⟩
  · rw [if_neg (by omega), if_neg (by omega)]
    exact ⟨rfl, by omega⟩
  · rw [if_pos (by omega), if_pos (by omega)]
    exact ⟨rfl, by omega⟩

/-! ### The scheduler (R94) -/

section Scheduler

variable {t : Timebase}

/-- R94: where one step of a walk leaves the permanent rate. -/
def Timebase.walked (t : Timebase) : Int :=
  if (t.rhoCmd - t.rhoP).natAbs ≤ t.step then t.rhoCmd
  else if 0 < t.rhoCmd - t.rhoP then t.rhoP + t.step else t.rhoP - t.step

theorem Timebase.walk_eq (t : Timebase) : t.walk = { t with
    rhoP := t.walked, rhoEff := clampRate (t.walked + t.rhoT)
    countdown := if (t.rhoCmd - t.rhoP).natAbs ≤ t.step then 0 else t.settle
    active := decide (t.step < (t.rhoCmd - t.rhoP).natAbs) } := by
  have rate : (if 0 < t.rhoCmd - t.rhoP then t.rhoP + (min t.step (t.rhoCmd - t.rhoP).natAbs : Int)
      else t.rhoP - (min t.step (t.rhoCmd - t.rhoP).natAbs : Int)) = t.walked := by
    unfold Timebase.walked
    split <;> split <;> omega
  have done : decide (t.walked = t.rhoCmd) = !decide (t.step < (t.rhoCmd - t.rhoP).natAbs) := by
    rw [← decide_not, decide_eq_decide, Timebase.walked]
    split
    · next near => simp [near]
    · next far => split <;> omega
  have count : (if (!decide (t.step < (t.rhoCmd - t.rhoP).natAbs)) = true then 0 else t.settle) =
      if (t.rhoCmd - t.rhoP).natAbs ≤ t.step then 0 else t.settle := if_congr (by simp) rfl rfl
  unfold Timebase.walk
  dsimp only
  rw [rate, done, count, Bool.not_not]

theorem Timebase.countScheduler_of_idle (h : t.active = false) : t.countScheduler = t := by
  rw [Timebase.countScheduler, h]
  rfl

theorem Timebase.countScheduler_of_counting (h : t.active = true) (more : 2 ≤ t.countdown) :
    t.countScheduler = { t with countdown := t.countdown - 1 } := by
  rw [Timebase.countScheduler, if_pos h, if_neg (by omega)]

theorem Timebase.countScheduler_of_last (h : t.active = true) (last : t.countdown ≤ 1) : t.countScheduler = t.walk := by
  rw [Timebase.countScheduler, if_pos h, if_pos last]

/-- R94: a step of an active walk, whether it counts down or moves the rate. -/
theorem Timebase.countScheduler_of_active (h : t.active = true) (counts : 1 ≤ t.countdown) : t.countScheduler = { t with
    rhoP := if 2 ≤ t.countdown then t.rhoP else t.walked
    rhoEff := if 2 ≤ t.countdown then t.rhoEff else clampRate (t.walked + t.rhoT)
    countdown := if 2 ≤ t.countdown then t.countdown - 1
      else if (t.rhoCmd - t.rhoP).natAbs ≤ t.step then 0 else t.settle
    active := decide (2 ≤ t.countdown ∨ t.step < (t.rhoCmd - t.rhoP).natAbs) } := by
  by_cases more : 2 ≤ t.countdown
  · rw [Timebase.countScheduler_of_counting h more]
    simp only [more, if_true, true_or, decide_true, ← h]
  · rw [Timebase.countScheduler_of_last h (by omega), Timebase.walk_eq]
    simp only [more, if_false, false_or]

end Scheduler

/-! ### The interval update (R86 to R88) -/

/-- R88: the loop state and the runs after an update with error `e`. -/
def Timebase.runsAfter (t : Timebase) (e : Int) : LoopState × Nat × Nat :=
  match t.loop with
  | .acquiring =>
    if e.natAbs ≤ 48 then
      if 15 ≤ t.lockRun then (.locked, 0, 0) else (.acquiring, t.lockRun + 1, t.unlockRun)
    else (.acquiring, 0, t.unlockRun)
  | .locked =>
    if 480 < e.natAbs then
      if 3 ≤ t.unlockRun then (.acquiring, 0, 0) else (.locked, t.lockRun, t.unlockRun + 1)
    else (.locked, t.lockRun, 0)

theorem Timebase.updateRuns_eq (t : Timebase) (e : Int) : t.updateRuns e = { t with
    loop := (t.runsAfter e).1, lockRun := (t.runsAfter e).2.1, unlockRun := (t.runsAfter e).2.2 } := by
  obtain ⟨phase, rhoP, rhoT, rhoEff, loop, sum, count, lockRun, unlockRun, frozen, active, rhoCmd, step, settle,
    countdown⟩ := t
  cases loop with
  | acquiring =>
    simp only [Timebase.updateRuns, Timebase.runsAfter]
    by_cases near : e.natAbs ≤ 48
    · by_cases full : 15 ≤ lockRun
      · simp [near, full]
      · simp [near, full]
    · simp [near]
  | locked =>
    simp only [Timebase.updateRuns, Timebase.runsAfter]
    by_cases far : 480 < e.natAbs
    · by_cases full : 3 ≤ unlockRun
      · simp [far, full]
      · simp [far, full]
    · simp [far]

/-- R86: a timebase after one margin sample. -/
def Timebase.sampled (t : Timebase) (m : Int) : Timebase := { t with sum := t.sum + m, count := t.count + 1 }

theorem Timebase.intervalUpdate_eq (t : Timebase) (target : Nat) : t.intervalUpdate target = { t with
    rhoT := clampTrim (t.error target * t.loop.kp)
    rhoP := if t.frozen || t.active then t.rhoP else clampRate (t.rhoP + t.error target * t.loop.ki)
    rhoEff := clampRate ((if t.frozen || t.active then t.rhoP else clampRate (t.rhoP + t.error target * t.loop.ki)) +
      clampTrim (t.error target * t.loop.kp))
    sum := 0, count := 0
    loop := (t.runsAfter (t.error target)).1, lockRun := (t.runsAfter (t.error target)).2.1
    unlockRun := (t.runsAfter (t.error target)).2.2 } := by
  rw [Timebase.intervalUpdate, Timebase.updateRuns_eq]
  rfl

/-! ### The four stages of a step (R82) -/

section Timed

variable {ve : Venue} {n : FrameNo} {ph : Phase}

theorem Venue.takeMargin_of_placed (active : ve.state = .active) (hp : ve.timebase.phase = some ph)
    (newest : ve.newest = some n) : ve.takeMargin = { ve with timebase := ve.timebase.sampled (marginOf n ph) } := by
  unfold Venue.takeMargin
  split
  · next ph' n' _ hp' newest' =>
    rw [hp] at hp'
    rw [newest] at newest'
    cases hp'
    cases newest'
    rfl
  · next other => exact (other ph n active hp newest).elim

theorem Venue.takeMargin_of_none (h : ve.state = .holdover ∨ ve.state = .active ∧ ve.newest = none) : ve.takeMargin = ve := by
  unfold Venue.takeMargin
  split
  · next active _ newest =>
    rcases h with h | h
    · rw [h] at active
      cases active
    · rw [h.2] at newest
      cases newest
  · rfl

theorem Venue.completeInterval_of_full (active : ve.state = .active) (full : ve.timebase.count = 256) :
    ve.completeInterval = { ve with timebase := ve.timebase.intervalUpdate ve.settings.target } := by
  rw [Venue.completeInterval, if_pos]
  · rfl
  · rw [active, full]
    rfl

theorem Venue.completeInterval_of_short (h : ve.state = .holdover ∨ ve.timebase.count ≠ 256) : ve.completeInterval = ve := by
  rw [Venue.completeInterval, if_neg]
  rw [Bool.and_eq_true, decide_eq_true_eq, decide_eq_true_eq]
  rintro ⟨active, full⟩
  rcases h with h | h
  · rw [active] at h
    cases h
  · exact h full

theorem Venue.countScheduler_of_seated (h : ve.state = .active ∨ ve.state = .holdover) :
    ve.countScheduler = { ve with timebase := ve.timebase.countScheduler } := if_pos ((Venue.seated_iff ve).2 h)

/-- R86, R94: a step that samples, short of the interval's end. -/
theorem Venue.timed_of_sample (active : ve.state = .active) (hp : ve.timebase.phase = some ph) (newest : ve.newest = some n)
    (short : ve.timebase.count < 255) :
    ve.timed = { ve with timebase := (ve.timebase.sampled (marginOf n ph)).countScheduler } := by
  have count : ve.timebase.count + 1 ≠ 256 := by omega
  rw [Venue.timed, Venue.takeMargin_of_placed active hp newest, Venue.completeInterval_of_short
      (ve := { ve with timebase := ve.timebase.sampled (marginOf n ph) }) (.inr count),
    Venue.countScheduler_of_seated (ve := { ve with timebase := ve.timebase.sampled (marginOf n ph) }) (.inl active)]

/-- R86, R87, R94: the step that takes the 256th sample. -/
theorem Venue.timed_of_interval (active : ve.state = .active) (hp : ve.timebase.phase = some ph)
    (newest : ve.newest = some n) (full : ve.timebase.count = 255) : ve.timed = { ve with
      timebase := ((ve.timebase.sampled (marginOf n ph)).intervalUpdate ve.settings.target).countScheduler } := by
  have count : (ve.timebase.sampled (marginOf n ph)).count = 256 := by rw [Timebase.sampled, full]
  rw [Venue.timed, Venue.takeMargin_of_placed active hp newest, Venue.completeInterval_of_full
      (ve := { ve with timebase := ve.timebase.sampled (marginOf n ph) }) active count,
    Venue.countScheduler_of_seated (ve := { ve with
      timebase := (ve.timebase.sampled (marginOf n ph)).intervalUpdate ve.settings.target }) (.inl active)]

/-- R90, R94: a step without a sample. -/
theorem Venue.timed_of_none (h : ve.state = .holdover ∨ ve.state = .active ∧ ve.newest = none ∧ ve.timebase.count < 256) :
    ve.timed = { ve with timebase := ve.timebase.countScheduler } := by
  have none' : ve.state = .holdover ∨ ve.state = .active ∧ ve.newest = none := h.imp_right fun h => ⟨h.1, h.2.1⟩
  have short : ve.state = .holdover ∨ ve.timebase.count ≠ 256 := h.imp_right fun h => by omega
  rw [Venue.timed, Venue.takeMargin_of_none none', Venue.completeInterval_of_short short,
    Venue.countScheduler_of_seated (h.symm.imp And.left id)]

end Timed

/-! ### A step in which no fade goes on -/

section Step

variable {s : State} {v : Fin 24}

theorem State.stageAdvance_venue_of_unfaded (calm : ∀ c ∈ (s.venue v).circuits, (s.circuit c).state ≠ .closing) :
    (s.stageAdvance v).venue v = (s.advanced v 48).venue v := by
  rw [State.stageAdvance_eq, State.fadeSteps_of_none, State.staged_venue]
  intro c hc
  rw [State.staged_circuit, ne_eq, ((s.advanced_advances v 48).circuit c).closing]
  exact calm c hc

theorem State.venueStep_of_unfaded (calm : ∀ c ∈ (s.venue v).circuits, (s.circuit c).state ≠ .closing)
    (seated : (s.venue v).state = .active ∨ (s.venue v).state = .holdover) :
    (s.venueStep v).venue v = ((s.advanced v 48).venue v).timed := by
  rw [State.venueStep_of_seated seated, State.setVenue_venue, State.stageAdvance_venue_of_unfaded calm]

/-- R83: the venue when the advances of a step are done. -/
theorem State.advanced_timebase {ph : Phase} (hp : (s.venue v).timebase.phase = some ph) :
    ((s.advanced v 48).venue v).timebase = { (s.venue v).timebase with
      phase := some ((fun y : Phase => y.step (s.venue v).timebase.rhoEff)^[48] ph) } := by
  rw [(s.advanced_advances v 48).venue, State.advanced_phase hp]

end Step

theorem exec_intervalUpdate (v : Fin 24) (s : State) :
    exec (.intervalUpdate v) s = .next (s.takeDue (.venueStep v) (s.intervalDue v)) := rfl

theorem exec_schedulerStep (v : Fin 24) (s : State) :
    exec (.schedulerStep v) s = .next (s.takeDue (.venueStep v) (s.schedulerDue v)) := rfl

end Sys2Proof.Machine
end

section
/-! PROOFS. The venue step's timebase, as the events INTERVAL_UPDATE and SCHEDULER_STEP and the plain step leave it
(sections 5.4 to 5.7). -/

namespace Sys2Proof.Machine

/-- R82, R83: the read phase once the 48 advances of a step are done. -/
def Timebase.advanced (t : Timebase) (ph : Phase) : Timebase :=
  { t with phase := some ((fun y : Phase => y.step t.rhoEff)^[48] ph) }

section Step

variable {s : State} {v : Fin 24} {n : FrameNo} {ph : Phase}

/-- R86: the margin that a step samples. -/
def State.stepMargin (s : State) (v : Fin 24) (n : FrameNo) (ph : Phase) : Int :=
  marginOf n ((fun y : Phase => y.step (s.venue v).timebase.rhoEff)^[48] ph)

theorem State.advanced_state : ((s.advanced v 48).venue v).state = (s.venue v).state := by
  rw [(s.advanced_advances v 48).venue]

theorem State.advanced_newest : ((s.advanced v 48).venue v).newest = (s.venue v).newest := by
  rw [(s.advanced_advances v 48).venue]

theorem State.advanced_settings : ((s.advanced v 48).venue v).settings = (s.venue v).settings := by
  rw [(s.advanced_advances v 48).venue]

theorem State.advanced_count : ((s.advanced v 48).venue v).timebase.count = (s.venue v).timebase.count := by
  rw [(s.advanced_advances v 48).venue]

theorem State.advanced_rates (s : State) (v : Fin 24) :
    ∃ p, ((s.advanced v 48).venue v).timebase = { (s.venue v).timebase with phase := p } :=
  ⟨((s.advanced v 48).venue v).timebase.phase, congrArg Venue.timebase (s.advanced_advances v 48).venue⟩

/-! ### The venue that a step leaves -/

/-- What a venue step leaves of its venue, by its timebase. -/
theorem State.venueStep_venue_eq {tb : Timebase} (timed : (s.venueStep v).venue v = ((s.advanced v 48).venue v).timed)
    (h : ((s.advanced v 48).venue v).timed = { (s.advanced v 48).venue v with timebase := tb }) :
    (s.venueStep v).venue v = { s.venue v with
      timebase := tb
      recovery := ((s.venueStep v).venue v).recovery, health := ((s.venueStep v).venue v).health } := by
  rw [timed, h]
  conv => lhs; rw [(s.advanced_advances v 48).venue]

theorem State.venueStep_sample (timed : (s.venueStep v).venue v = ((s.advanced v 48).venue v).timed)
    (active : (s.venue v).state = .active) (hp : (s.venue v).timebase.phase = some ph) (newest : (s.venue v).newest = some n)
    (short : (s.venue v).timebase.count < 255) : (s.venueStep v).venue v = { s.venue v with
      timebase := (((s.venue v).timebase.advanced ph).sampled (s.stepMargin v n ph)).countScheduler
      recovery := ((s.venueStep v).venue v).recovery, health := ((s.venueStep v).venue v).health } := by
  have tb := State.advanced_timebase (v := v) hp
  have phase := congrArg Timebase.phase tb
  have short' : ((s.advanced v 48).venue v).timebase.count < 255 := by rw [State.advanced_count]; exact short
  have all := Venue.timed_of_sample (State.advanced_state.trans active) phase (State.advanced_newest.trans newest) short'
  refine State.venueStep_venue_eq timed (all.trans (congrArg (fun x => { (s.advanced v 48).venue v with timebase := x }) ?_))
  rw [tb]
  rfl

theorem State.venueStep_interval (timed : (s.venueStep v).venue v = ((s.advanced v 48).venue v).timed)
    (active : (s.venue v).state = .active) (hp : (s.venue v).timebase.phase = some ph) (newest : (s.venue v).newest = some n)
    (full : (s.venue v).timebase.count = 255) : (s.venueStep v).venue v = { s.venue v with
      timebase := ((((s.venue v).timebase.advanced ph).sampled (s.stepMargin v n ph)).intervalUpdate
        (s.venue v).settings.target).countScheduler
      recovery := ((s.venueStep v).venue v).recovery, health := ((s.venueStep v).venue v).health } := by
  have tb := State.advanced_timebase (v := v) hp
  have phase := congrArg Timebase.phase tb
  have all := Venue.timed_of_interval (State.advanced_state.trans active) phase (State.advanced_newest.trans newest)
    (State.advanced_count.trans full)
  refine State.venueStep_venue_eq timed (all.trans (congrArg (fun x => { (s.advanced v 48).venue v with timebase := x }) ?_))
  rw [tb, State.advanced_settings]
  rfl

theorem State.venueStep_none (timed : (s.venueStep v).venue v = ((s.advanced v 48).venue v).timed)
    (h : (s.venue v).state = .holdover ∨
      (s.venue v).state = .active ∧ (s.venue v).newest = none ∧ (s.venue v).timebase.count < 256) :
    (s.venueStep v).venue v = { s.venue v with
      timebase := ((s.advanced v 48).venue v).timebase.countScheduler
      recovery := ((s.venueStep v).venue v).recovery, health := ((s.venueStep v).venue v).health } := by
  refine State.venueStep_venue_eq timed (Venue.timed_of_none ?_)
  rw [State.advanced_state, State.advanced_newest, State.advanced_count]
  exact h

/-! ### The events that fall in a step (log 3) -/

theorem State.intervalDue_of_full (calm : ∀ c ∈ (s.venue v).circuits, (s.circuit c).state ≠ .closing)
    (active : (s.venue v).state = .active) (hp : (s.venue v).timebase.phase = some ph) (newest : (s.venue v).newest = some n)
    (full : (s.venue v).timebase.count = 255) : s.intervalDue v = true := by
  have phase := congrArg Timebase.phase (State.advanced_timebase (v := v) hp)
  have count : ((s.advanced v 48).venue v).timebase.count + 1 = 256 := by rw [State.advanced_count, full]
  rw [State.intervalDue, State.stageAdvance_venue_of_unfaded calm, Venue.seated_of_active active,
    Venue.takeMargin_of_placed (State.advanced_state.trans active) phase (State.advanced_newest.trans newest)]
  simp only [State.advanced_state, active, Timebase.sampled, count]
  rfl

theorem State.schedulerDue_of_sample (calm : ∀ c ∈ (s.venue v).circuits, (s.circuit c).state ≠ .closing)
    (active : (s.venue v).state = .active) (hp : (s.venue v).timebase.phase = some ph) (newest : (s.venue v).newest = some n)
    (short : (s.venue v).timebase.count < 255) (walking : (s.venue v).timebase.active = true)
    (last : (s.venue v).timebase.countdown = 1) : s.schedulerDue v = true := by
  have tb := State.advanced_timebase (v := v) hp
  have phase := congrArg Timebase.phase tb
  have count : ((s.advanced v 48).venue v).timebase.count + 1 ≠ 256 := by rw [State.advanced_count]; omega
  have seated := Venue.seated_of_active active
  have seated' := Venue.seated_of_active (State.advanced_state.trans active)
  rw [State.schedulerDue, State.stageAdvance_venue_of_unfaded calm, seated,
    Venue.takeMargin_of_placed (State.advanced_state.trans active) phase (State.advanced_newest.trans newest),
    Venue.completeInterval_of_short (ve := { (s.advanced v 48).venue v with
      timebase := ((s.advanced v 48).venue v).timebase.sampled _ }) (.inr count)]
  rw [Venue.seated] at seated' ⊢
  simp only [seated', Timebase.sampled, tb, walking, last]
  rfl

theorem State.schedulerDue_of_none (calm : ∀ c ∈ (s.venue v).circuits, (s.circuit c).state ≠ .closing)
    (h : (s.venue v).state = .holdover ∨
      (s.venue v).state = .active ∧ (s.venue v).newest = none ∧ (s.venue v).timebase.count < 256)
    (walking : (s.venue v).timebase.active = true) (last : (s.venue v).timebase.countdown = 1) :
    s.schedulerDue v = true := by
  have seated : (s.venue v).seated = true := (Venue.seated_iff _).2 (h.symm.imp And.left id)
  have seated' : ((s.advanced v 48).venue v).seated = true := by
    rw [Venue.seated, State.advanced_state]
    exact seated
  have none' : ((s.advanced v 48).venue v).state = .holdover ∨
      ((s.advanced v 48).venue v).state = .active ∧ ((s.advanced v 48).venue v).newest = none := by
    rw [State.advanced_state, State.advanced_newest]
    exact h.imp_right fun h => ⟨h.1, h.2.1⟩
  have short : ((s.advanced v 48).venue v).state = .holdover ∨ ((s.advanced v 48).venue v).timebase.count ≠ 256 := by
    rw [State.advanced_state, State.advanced_count]
    exact h.imp_right fun h => by omega
  have tb : ((s.advanced v 48).venue v).timebase.active = true ∧ ((s.advanced v 48).venue v).timebase.countdown = 1 := by
    rw [(s.advanced_advances v 48).venue]
    exact ⟨walking, last⟩
  rw [State.schedulerDue, State.stageAdvance_venue_of_unfaded calm, seated, Venue.takeMargin_of_none none',
    Venue.completeInterval_of_short short, seated', tb.1, tb.2]
  rfl

end Step

/-! ### The timebase that a step leaves -/

section Update

variable {t : Timebase} {ph : Phase} {m e : Int} {target : Nat}

/-- R87: the interval update of a step that samples margin `m`, with its error named. -/
theorem Timebase.interval_eq (he : e = max (-4095) (min 4095 ((t.sum + m) / 256 - target))) :
    ((t.advanced ph).sampled m).intervalUpdate target = { t.advanced ph with
      rhoT := clampTrim (e * t.loop.kp)
      rhoP := if t.frozen || t.active then t.rhoP else clampRate (t.rhoP + e * t.loop.ki)
      rhoEff := clampRate ((if t.frozen || t.active then t.rhoP else clampRate (t.rhoP + e * t.loop.ki)) +
        clampTrim (e * t.loop.kp))
      sum := 0, count := 0
      loop := (t.runsAfter e).1, lockRun := (t.runsAfter e).2.1, unlockRun := (t.runsAfter e).2.2 } := by
  rw [Timebase.intervalUpdate_eq, he]
  rfl

theorem clampTrim_eq (x : Int) : clampTrim x = max (-1048576) (min 1048576 x) := rfl

/-- R87, R94: the interval update of a step under a walk leaves the permanent rate to the walk. -/
theorem Timebase.interval_walking (he : e = max (-4095) (min 4095 ((t.sum + m) / 256 - target))) (walking : t.active = true)
    (counts : 1 ≤ t.countdown) :
    (((t.advanced ph).sampled m).intervalUpdate target).countScheduler = { t.advanced ph with
      rhoT := clampTrim (e * t.loop.kp)
      rhoP := if 2 ≤ t.countdown then t.rhoP else t.walked
      rhoEff := clampRate ((if 2 ≤ t.countdown then t.rhoP else t.walked) + clampTrim (e * t.loop.kp))
      countdown := if 2 ≤ t.countdown then t.countdown - 1
        else if (t.rhoCmd - t.rhoP).natAbs ≤ t.step then 0 else t.settle
      active := decide (2 ≤ t.countdown ∨ t.step < (t.rhoCmd - t.rhoP).natAbs)
      sum := 0, count := 0
      loop := (t.runsAfter e).1, lockRun := (t.runsAfter e).2.1, unlockRun := (t.runsAfter e).2.2 } := by
  have held : (t.frozen || t.active) = true := by rw [walking, Bool.or_true]
  rw [Timebase.interval_eq he]
  simp only [held, if_true]
  refine (Timebase.countScheduler_of_active (by exact walking) (by exact counts)).trans ?_
  by_cases more : 2 ≤ t.countdown
  · have more' : 2 ≤ (t.advanced ph).countdown := more
    simp only [more, more', if_true, true_or]
    rfl
  · have less : ¬ 2 ≤ (t.advanced ph).countdown := more
    simp only [more, less, if_false, false_or]
    rfl

/-- R94: where the scheduler's own step leaves a timebase. -/
theorem Timebase.countScheduler_of_step (walking : t.active = true) (last : t.countdown = 1) : t.countScheduler = { t with
    rhoP := t.walked, rhoEff := clampRate (t.walked + t.rhoT)
    countdown := if (t.rhoCmd - t.rhoP).natAbs ≤ t.step then 0 else t.settle
    active := decide (t.step < (t.rhoCmd - t.rhoP).natAbs) } := by
  rw [Timebase.countScheduler_of_last walking (le_of_eq last), Timebase.walk_eq]

end Update

/-- Settles O41: the phase of one sample, and the step by what falls in it. -/
theorem venueStepUpdatesRates : Obligations.VenueStepUpdatesRates := by
  refine ⟨fun ph rho x hk lo hi hx => Phase.step_position hk lo hi hx,
    fun s v ph ph' n m e p tb due htb active hp calm newest full idle hph hm he hrate => ?_,
    fun s v tb gap due htb h calm walking last hgap => ?_,
    fun s ws v ph ph' tb pending due hl htb hp none' hph => ⟨fun n m active newest idle short hm => ?_, fun h counts => ?_⟩⟩
  · subst htb
    have margin : m = s.stepMargin v n ph := by rw [hm, hph]; rfl
    have taken := exec_intervalUpdate v s
    rw [State.takeDue_of_due due (State.intervalDue_of_full calm active hp newest full)] at taken
    have timed := State.venueStep_of_unfaded (s := { s with due := s.due.erase (.venueStep v) }) (v := v) calm (.inl active)
    have venue := State.venueStep_interval (s := { s with due := s.due.erase (.venueStep v) }) timed active hp newest full
    have left := State.takeWork_due { s with due := s.due.erase (.venueStep v) } (.venueStep v)
    have after : (((s.venue v).timebase.advanced ph).sampled m).intervalUpdate (s.venue v).settings.target = _ :=
      Timebase.interval_eq he
    have still : ((((s.venue v).timebase.advanced ph).sampled m).intervalUpdate
        (s.venue v).settings.target).countScheduler = _ := (Timebase.countScheduler_of_idle (by rw [after]; exact idle)).trans after
    rw [margin] at still
    have tb := (congrArg Venue.timebase venue).trans still
    have rates : (if (s.venue v).timebase.frozen || (s.venue v).timebase.active then (s.venue v).timebase.rhoP
        else clampRate ((s.venue v).timebase.rhoP + e * (s.venue v).timebase.loop.ki)) = p := by
      rw [hrate, idle, Bool.or_false]
      cases (s.venue v).timebase.loop <;> rfl
    have trim : clampTrim (e * (s.venue v).timebase.loop.kp) = max (-1048576) (min 1048576
        (e * (match (s.venue v).timebase.loop with | .acquiring => 32768 | .locked => 8192))) := by
      cases (s.venue v).timebase.loop <;> rfl
    rw [rates] at tb
    refine ⟨_, taken, left, ?_, ?_, ?_, ?_, ?_, ?_, ?_⟩
    · exact (congrArg Timebase.phase tb).trans (congrArg some hph.symm)
    · exact (congrArg Timebase.rhoT tb).trans trim
    · exact (congrArg Timebase.rhoP tb :)
    · exact (congrArg Timebase.rhoEff tb).trans (congrArg (fun x => clampRate (p + x)) (congrArg Timebase.rhoT tb).symm)
    · exact (congrArg Timebase.sum tb :)
    · exact (congrArg Timebase.count tb :)
    · refine (Prod.ext (congrArg Timebase.loop tb) (Prod.ext (congrArg Timebase.lockRun tb)
        (congrArg Timebase.unlockRun tb)) : _ = (s.venue v).timebase.runsAfter e).trans ?_
      unfold Timebase.runsAfter
      cases (s.venue v).timebase.loop <;> rfl
  · subst htb
    have taken := exec_schedulerStep v s
    rw [State.takeDue_of_due due (State.schedulerDue_of_none calm h walking last)] at taken
    have seated : (s.venue v).state = .active ∨ (s.venue v).state = .holdover := h.symm.imp And.left id
    have timed := State.venueStep_of_unfaded (s := { s with due := s.due.erase (.venueStep v) }) (v := v) calm seated
    have venue := State.venueStep_none (s := { s with due := s.due.erase (.venueStep v) }) timed h
    have left := State.takeWork_due { s with due := s.due.erase (.venueStep v) } (.venueStep v)
    obtain ⟨p, before⟩ := State.advanced_rates { s with due := s.due.erase (.venueStep v) } v
    rw [before, Timebase.countScheduler_of_step (by exact walking) (by exact last)] at venue
    have tb := congrArg Venue.timebase venue
    have walked : ({ (s.venue v).timebase with phase := p } : Timebase).walked = if gap.natAbs ≤ (s.venue v).timebase.step
        then (s.venue v).timebase.rhoCmd else if 0 < gap then (s.venue v).timebase.rhoP + (s.venue v).timebase.step
        else (s.venue v).timebase.rhoP - (s.venue v).timebase.step := by rw [hgap]; rfl
    rw [hgap] at walked ⊢
    refine ⟨_, taken, left, (congrArg Timebase.rhoP tb).trans walked, ?_, (congrArg Timebase.rhoT tb :),
      (congrArg Timebase.rhoCmd tb :), (congrArg Timebase.active tb :), (congrArg Timebase.countdown tb :)⟩
    exact (congrArg Timebase.rhoEff tb).trans
      (congrArg (fun x => clampRate (x + (s.venue v).timebase.rhoT)) (congrArg Timebase.rhoP tb).symm)
  · subst htb
    have margin : m = s.stepMargin v n ph := by rw [hm, hph]; rfl
    obtain ⟨_, timed, _⟩ := State.venueStep_of_lasting (s := { s with due := ws }) (v := v) hl (.inl active) none'
    have venue := State.venueStep_sample (s := { s with due := ws }) timed active hp newest short
    rw [Timebase.countScheduler_of_idle (by exact idle)] at venue
    refine ⟨_, step_of_due pending due, State.takeWork_due _ (.venueStep v), ?_⟩
    rw [hph, margin]
    exact venue
  · subst htb
    have seated : (s.venue v).state = .active ∨ (s.venue v).state = .holdover := h.symm.imp And.left id
    obtain ⟨_, timed, _⟩ := State.venueStep_of_lasting (s := { s with due := ws }) (v := v) hl seated none'
    have venue := State.venueStep_none (s := { s with due := ws }) timed h
    rw [State.advanced_timebase (by exact hp)] at venue
    rw [hph]
    refine ⟨_, step_of_due pending due, State.takeWork_due _ (.venueStep v), venue.trans ?_⟩
    have counted : ({ (s.venue v).timebase with
        phase := some ((fun y : Phase => y.step (s.venue v).timebase.rhoEff)^[48] ph) } : Timebase).countScheduler =
        { (s.venue v).timebase with
          phase := some ((fun y : Phase => y.step (s.venue v).timebase.rhoEff)^[48] ph)
          countdown := if (s.venue v).timebase.active then (s.venue v).timebase.countdown - 1
            else (s.venue v).timebase.countdown } := by
      by_cases walking : (s.venue v).timebase.active = true
      · rw [if_pos walking]
        exact Timebase.countScheduler_of_counting (by exact walking)
          (by exact counts.resolve_left fun idle => by rw [walking] at idle; cases idle)
      · rw [if_neg walking]
        exact Timebase.countScheduler_of_idle (by simpa using walking)
    exact congrArg (fun x => { s.venue v with
      timebase := x
      recovery := ((State.venueStep { s with due := ws } v).venue v).recovery
      health := ((State.venueStep { s with due := ws } v).venue v).health }) counted

/-- Settles O42. -/
theorem venueStepUnderWalk : Obligations.VenueStepUnderWalk := by
  intro s v ph ph' n m e gap tb due htb active hp calm newest walking counts hph hm he hgap
  subst htb
  have margin : m = s.stepMargin v n ph := by rw [hm, hph]; rfl
  have walked : (s.venue v).timebase.walked = if gap.natAbs ≤ (s.venue v).timebase.step
      then (s.venue v).timebase.rhoCmd else if 0 < gap then (s.venue v).timebase.rhoP + (s.venue v).timebase.step
      else (s.venue v).timebase.rhoP - (s.venue v).timebase.step := by rw [hgap]; rfl
  have timed := State.venueStep_of_unfaded (s := { s with due := s.due.erase (.venueStep v) }) (v := v) calm (.inl active)
  have left := State.takeWork_due { s with due := s.due.erase (.venueStep v) } (.venueStep v)
  refine ⟨fun full => ?_, fun short last => ?_, fun ws pending due' short more => ?_⟩
  · have taken := exec_intervalUpdate v s
    rw [State.takeDue_of_due due (State.intervalDue_of_full calm active hp newest full)] at taken
    have venue := State.venueStep_interval (s := { s with due := s.due.erase (.venueStep v) }) timed active hp newest full
    have after : ((((s.venue v).timebase.advanced ph).sampled m).intervalUpdate
        (s.venue v).settings.target).countScheduler = _ := Timebase.interval_walking he walking counts
    rw [margin] at after
    have tb := (congrArg Venue.timebase venue).trans after
    have trim : clampTrim (e * (s.venue v).timebase.loop.kp) = max (-1048576) (min 1048576
        (e * (match (s.venue v).timebase.loop with | .acquiring => 32768 | .locked => 8192))) := by
      cases (s.venue v).timebase.loop <;> rfl
    rw [walked] at tb
    rw [hgap] at tb ⊢
    refine ⟨_, taken, left, ?_, ?_, ?_, ?_, ?_, ?_, ?_, ?_⟩
    · exact (congrArg Timebase.phase tb).trans (congrArg some hph.symm)
    · exact (congrArg Timebase.rhoT tb).trans trim
    · exact (congrArg Timebase.rhoP tb :)
    · exact (congrArg Timebase.rhoEff tb).trans (congrArg clampRate
        (congrArg₂ (· + ·) (congrArg Timebase.rhoP tb) (congrArg Timebase.rhoT tb)).symm)
    · exact (congrArg Timebase.active tb :)
    · exact (congrArg Timebase.countdown tb :)
    · exact (congrArg Timebase.sum tb :)
    · exact (congrArg Timebase.count tb :)
  · have taken := exec_schedulerStep v s
    rw [State.takeDue_of_due due (State.schedulerDue_of_sample calm active hp newest short walking last)] at taken
    have venue := State.venueStep_sample (s := { s with due := s.due.erase (.venueStep v) }) timed active hp newest short
    rw [Timebase.countScheduler_of_step (by exact walking) (by exact last)] at venue
    have tb := congrArg Venue.timebase venue
    have same : (((s.venue v).timebase.advanced ph).sampled m).walked = (s.venue v).timebase.walked := rfl
    rw [walked] at same
    rw [hgap] at same ⊢
    rw [margin] at same ⊢
    refine ⟨_, taken, left, (congrArg Timebase.phase tb).trans (congrArg some hph.symm),
      (congrArg Timebase.rhoP tb).trans same, (congrArg Timebase.rhoT tb :), ?_, (congrArg Timebase.active tb :),
      (congrArg Timebase.countdown tb :), (congrArg Timebase.sum tb :), (congrArg Timebase.count tb :)⟩
    exact (congrArg Timebase.rhoEff tb).trans
      (congrArg (fun x => clampRate (x + (s.venue v).timebase.rhoT)) (congrArg Timebase.rhoP tb).symm)
  · have timed' := State.venueStep_of_unfaded (s := { s with due := ws }) (v := v) calm (.inl active)
    have venue := State.venueStep_sample (s := { s with due := ws }) timed' active hp newest short
    rw [Timebase.countScheduler_of_counting (by exact walking) (by exact more)] at venue
    have tb := congrArg Venue.timebase venue
    rw [hph, margin]
    exact ⟨_, step_of_due pending due', State.takeWork_due _ (.venueStep v), tb⟩

end Sys2Proof.Machine
end

section
/-! PROOFS. The fields that each report carries (sections 1.7, 2.9, 3.5, 4.7, 5.7, 5.8, 6.7, 7.3, 8.6 and 9.6). -/

namespace Sys2Proof.Machine

/-! ### Fields (R168 to R170) -/

theorem flagByte_eq (b : Bool) : flagByte b = [if b then 1 else 0] := by cases b <;> rfl

theorem noneByte_none {n : Nat} : noneByte (none : Option (Fin n)) = [255] := rfl

theorem noneByte_some {n : Nat} (i : Fin n) : noneByte (some i) = be 1 i.val := rfl

theorem maybe_some {α : Type} (k : Nat) (w : α → List Byte) (a : α) : maybe k w (some a) = 1 :: w a := rfl

theorem maybe_none {α : Type} (k : Nat) (w : α → List Byte) : maybe k w none = List.replicate (k + 1) 0 := by
  have zeros : ∀ k, be k 0 = List.replicate k 0 := fun k => by
    induction k with
    | zero => rfl
    | succ k ih => rw [be, ih, Nat.zero_div, List.replicate_succ]
                   rfl
  rw [maybe, zeros, List.replicate_succ]
  rfl

theorem counted_eq {α : Type} (w : α → List Byte) (l : List α) : counted w l = be 1 l.length ++ l.flatMap w := rfl

theorem flatMap_pair {α : Type} {f g : α → List Byte} (h : ∀ x, f x = g x) (a b : α) : [a, b].flatMap f = g a ++ g b := by
  simp [h]

theorem counters_flatMap {n : Nat} (xs : Vector Nat n) (f : Nat → List Byte) :
    xs.toList.flatMap f = (List.finRange n).flatMap fun k => f xs[k] := by
  have list : xs.toList = (List.finRange n).map fun k => xs[k] := List.ext_getElem (by simp) fun i h h' => by simp
  rw [list, List.flatMap_map]

/-! ### The paths bound to a port (R59) -/

theorem Venue.pathOn_iff {ve : Venue} (two : ve.pathA.port ≠ ve.pathB.port) (p : Fin 4) (q : PathId) :
    ve.pathOn p = some q ↔ (ve.path q).port = some p ∧ (q = .b → ve.pathB.state ≠ .absent) := by
  unfold Venue.pathOn
  by_cases a : ve.pathA.port = some p
  · have b : ve.pathB.port ≠ some p := fun e => two (a.trans e.symm)
    cases q <;> simp [Venue.path, a, b]
  · cases q <;> simp [Venue.path, a]

theorem State.mem_boundPaths {s : State} {p : Fin 4} {v : Fin 24} {q : PathId} : (v, q) ∈ s.boundPaths p ↔
    (s.venue v).isOpen = true ∧ (s.venue v).pathOn p = some q := by
  unfold State.boundPaths
  rw [List.mem_filterMap]
  constructor
  · rintro ⟨w, _, hw⟩
    split at hw
    · next isOpen =>
      obtain ⟨r, hr, e⟩ := Option.map_eq_some_iff.1 hw
      cases e
      exact ⟨isOpen, hr⟩
    · cases hw
  · rintro ⟨isOpen, on⟩
    exact ⟨v, List.mem_finRange v, by rw [if_pos isOpen, on]; rfl⟩

theorem State.boundPaths_ascending (s : State) (p : Fin 4) : (s.boundPaths p).Pairwise fun x y => x.1 < y.1 := by
  have of : ∀ (v : Fin 24) (b : Fin 24 × PathId),
      (if (s.venue v).isOpen then ((s.venue v).pathOn p).map fun q => (v, q) else none) = some b → b.1 = v := by
    intro v b h
    split at h
    · obtain ⟨q, _, e⟩ := Option.map_eq_some_iff.1 h
      cases e
      rfl
    · cases h
  refine List.Pairwise.filterMap _ (fun v w lt b hb d hd => ?_) (List.pairwise_lt_finRange 24)
  rw [of v b hb, of w d hd]
  exact lt

/-! ### The attention state (R154, R156, R158) -/

theorem bitVec_ne_zero_iff {n : Nat} (x : BitVec n) : x ≠ 0 ↔ ∃ k : Fin n, x.getLsbD k.val = true := by
  refine ⟨fun h => ?_, fun ⟨k, hk⟩ e => ?_⟩
  · by_contra none'
    refine h (BitVec.eq_of_getLsbD_eq fun i hi => ?_)
    have off : x.getLsbD i ≠ true := fun on => none' ⟨⟨i, hi⟩, on⟩
    simpa using off
  · rw [e] at hk
    simp at hk

theorem State.venueItems_of_open {s : State} {v : Fin 24} (h : (s.venue v).isOpen = true) :
    (s.venueItems v).getLsbD 0 = (s.venue v).health.capture.isSome ∧
    (s.venueItems v).getLsbD 1 = (s.venue v).health.degraded ∧
    (s.venueItems v).getLsbD 2 = (s.venue v).health.pathDown ∧
    ((s.venueItems v).getLsbD 3 = true ↔ ∃ c ∈ (s.venue v).circuits, (s.circuit c).lossLatched = true) := by
  have bit : ∀ i : Fin 4, (s.venueItems v).getLsbD i.val = if i = 0 then (s.venue v).health.capture.isSome
      else if i = 1 then (s.venue v).health.degraded else if i = 2 then (s.venue v).health.pathDown
      else !(s.lostCircuits v).isEmpty := fun i => by
    rw [State.venueItems, if_pos h]
    exact maskOf_getLsbD (fun i : Fin 4 => if i = 0 then (s.venue v).health.capture.isSome
      else if i = 1 then (s.venue v).health.degraded else if i = 2 then (s.venue v).health.pathDown
      else !(s.lostCircuits v).isEmpty) i
  have lost : (s.venueItems v).getLsbD 3 = !(s.lostCircuits v).isEmpty := bit 3
  refine ⟨bit 0, bit 1, bit 2, ?_⟩
  rw [lost, State.lostCircuits]
  simp

theorem State.venuePending_iff (s : State) (v : Fin 24) : s.venuePending v = true ↔ (s.venue v).state ≠ .free ∧
    ∃ k : Fin 4, (s.venueItems v).getLsbD k.val = true ∧ s.classEnables.getLsbD k.val = true := by
  have bits : s.venuePending v = true ↔
      ∃ k : Fin 4, (s.venueItems v).getLsbD k.val = true ∧ s.classEnables.getLsbD k.val = true := by
    rw [State.venuePending, bne_iff_ne, bitVec_ne_zero_iff]
    exact exists_congr fun k => by simp
  by_cases free : (s.venue v).state = .free
  · have none' : s.venueItems v = 0 := if_neg (by simp [Venue.isOpen, free])
    rw [bits, none']
    simp [free]
  · rw [bits]
    simp [free]

/-- Settles O7: each report opened into its fields, every field that may be none by its two cases. -/
theorem reportsCarryTheirFields : Obligations.ReportsCarryTheirFields := by
  intro s flag seq index rate hflag hseq hindex hrate
  obtain rfl : flag = flagByte := funext fun b => (hflag b).trans (flagByte_eq b).symm
  obtain rfl : seq = maybe 4 frameBytes := funext fun n => by
    rw [hseq]
    cases n <;> rfl
  obtain rfl : @index = @noneByte := funext fun n => funext fun i => by
    rw [hindex]
    cases i <;> rfl
  obtain rfl : rate = s32 := funext hrate
  clear hflag hseq hindex hrate
  refine ⟨fun v => ?_, fun c => ?_, fun c nr hnr => ?_, fun v t ht => ⟨?_, ?_⟩, fun v ph hp => ?_, fun i one hone => ?_,
    fun i one hone => ?_, fun v isOpen => ?_, fun v free => ?_, fun n => ?_, fun v isOpen => ?_, ?_, fun p => ⟨?_, ?_⟩, ?_⟩
  · rw [flatMap_pair (g := fun p => pathReport p s.blockCount) fun p => ?_]
    · simp only [venueReport, settingsBytes, counted_eq, u8, u16, List.append_assoc]
      cases (s.venue v).announceAge <;> rfl
    · rw [pathReport]
      cases p.reply <;> cases p.lastArrival <;> simp only [maybe_some, maybe_none, List.append_assoc, u8] <;> rfl
  · unfold circuitReport circuitSettings u8 u16
    dsimp only
    simp only [List.append_assoc, List.flatMap_cons, List.flatMap_nil, List.append_nil]
  · subst hnr
    unfold windowReport u8 u16
    dsimp only
    simp only [List.append_assoc]
    cases (s.circuit c).venue with
    | none => simp only [Option.bind_none, counted_eq] <;> rfl
    | some w => cases h : (s.venue w).timebase.phase <;> simp only [Option.bind_some, h, Option.map] <;> rfl
  · simp only [rateReport, u8, u16]
  · subst ht
    simp only [timebaseReport, u8, u16, List.append_assoc]
    cases (s.venue v).timebase.phase <;> cases (s.venue v).timebase.loop <;> rfl
  · simp only [recoveryReport, hp, counted_eq, u8, List.append_assoc]
    rfl
  · obtain rfl : one = fun y => be 1 y.circuit.val ++ be 1 y.channel := funext hone
    simp only [slotReport, counted_eq, List.append_assoc]
    cases (s.slot i).source <;> rfl
  · obtain rfl : one = sourceDetail s := funext fun y => (hone y).trans rfl
    simp only [slotQueryReport, counted_eq, u8, List.append_assoc]
    cases (s.slot i).source <;> rfl
  · rw [laneReport, if_pos (State.isOpen_iff.2 isOpen)]
    simp only [laneBytes, counted_eq, u8, u16, List.append_assoc]
    cases (s.venue v).lane.state <;> rfl
  · rw [laneReport, if_neg fun isOpen => State.isOpen_iff.1 isOpen free]
    rfl
  · simp only [sourceReport, counted_eq, u8, u16, List.append_assoc]
    rfl
  · rw [healthReport, if_pos (State.isOpen_iff.2 isOpen)]
    simp only [healthBytes, counters_flatMap, counted_eq, u8, u16, List.append_assoc]
    cases (s.venue v).health.capture with
    | none => rfl
    | some old => simp only [maybe_some, captureBytes, u8, List.cons_append, List.append_assoc] <;> rfl
  · refine ⟨maskOf s.venuePending, fun v => (s.venueItems v).setWidth 8, ?_, fun v isOpen => ?_, fun v => ?_, ?_⟩
    · have item : ∀ v, u8 (s.venueItems v).toNat = [(s.venueItems v).setWidth 8] := fun v => by
        rw [u8_eq_singleton, BitVec.ofNat_toNat]
      simp only [attentionReport, item] <;> rfl
    · obtain ⟨capture, degraded, pathDown, lost⟩ := State.venueItems_of_open (State.isOpen_iff.2 isOpen)
      have bit : ∀ k < 4, ((s.venueItems v).setWidth 8).getLsbD k = (s.venueItems v).getLsbD k := fun k hk => by
        rw [BitVec.getLsbD_setWidth, decide_eq_true (by omega), Bool.true_and]
      rw [bit 0 (by decide), bit 1 (by decide), bit 2 (by decide), bit 3 (by decide)]
      refine ⟨capture, degraded, pathDown, lost, ?_⟩
      have small := (s.venueItems v).isLt
      rw [BitVec.toNat_setWidth]
      omega
    · rw [maskOf_getLsbD, State.venuePending_iff]
      refine and_congr_right fun _ => exists_congr fun k => ?_
      rw [BitVec.getLsbD_setWidth, decide_eq_true (by omega), Bool.true_and]
    · simp only [maskOf_getLsbD, State.attention, Bool.or_eq_true, Bool.and_eq_true, List.any_eq_true]
      refine or_congr ⟨fun ⟨v, _, hv⟩ => ⟨v, hv⟩, fun ⟨v, hv⟩ => ⟨v, List.mem_finRange v, hv⟩⟩ Iff.rfl
  · simp only [portSettings, u8, u16, List.append_assoc]
    cases (s.port p).tagMode <;> cases (s.port p).domain <;> rfl
  · refine ⟨s.boundPaths p, ?_, s.boundPaths_ascending p, fun v q two => ?_⟩
    · have side : ∀ q : PathId, be 1 (pathCode q) = [if q = .a then 0 else 1] := fun q => by cases q <;> rfl
      unfold portReport u8 u16
      dsimp only
      simp only [counted_eq, side, List.append_assoc, List.flatMap_cons, List.flatMap_nil, List.append_nil]
    · rw [State.mem_boundPaths, State.isOpen_iff, Venue.pathOn_iff two]
  · rfl

end Sys2Proof.Machine
end
